-- ==== Sys2Proof/Word.lean ====
section
/-! DEFINITION. The word types of the SX512 and the sparse map in which every array-like piece of its
state is held: a list of (key, value) pairs with strictly rising keys and no entry that equals what an
unlisted key reads as, so that equal contents are equal data. -/
namespace Sys2Proof

/-- A byte; the smallest addressable unit (R4). -/
abbrev Byte := BitVec 8
/-- A general register, a special register, a frame word (R14, R24). -/
abbrev Word := BitVec 64
/-- A vector register (R14). -/
abbrev VReg := BitVec 1024
/-- A mask register, one bit per 8-bit lane position (R14). -/
abbrev MReg := BitVec 128

/-- A sparse map from natural numbers, in canonical form (`SMap.wf`). -/
abbrev SMap (α : Type) := List (Nat × α)

/-- The value at `k`; an unlisted key reads as `d`. -/
def SMap.get {α : Type} (d : α) : SMap α → Nat → α
  | [], _ => d
  | (j, v) :: t, k => if k = j then v else SMap.get d t k

/-- `m` without the key `k`. -/
def SMap.erase {α : Type} : SMap α → Nat → SMap α
  | [], _ => []
  | (j, v) :: t, k => if k = j then SMap.erase t k else (j, v) :: SMap.erase t k

/-- `m` with an entry for `k`, in key order. -/
def SMap.ins {α : Type} : SMap α → Nat → α → SMap α
  | [], k, v => [(k, v)]
  | (j, w) :: t, k, v =>
    if k < j then (k, v) :: (j, w) :: t
    else if k = j then (k, v) :: t
    else (j, w) :: SMap.ins t k v

/-- `m` with `k` set to `v`; setting the value an unlisted key reads as removes the entry. -/
def SMap.put {α : Type} [DecidableEq α] (d : α) (m : SMap α) (k : Nat) (v : α) : SMap α :=
  if v = d then SMap.erase m k else SMap.ins m k v

/-- Every key is at least `lo` and the keys rise strictly; no entry equals `d`. -/
def SMap.wfFrom {α : Type} [DecidableEq α] (d : α) : Nat → SMap α → Bool
  | _, [] => true
  | lo, (j, v) :: t => decide (lo ≤ j) && !decide (v = d) && SMap.wfFrom d (j + 1) t

/-- The canonical form of a sparse map. -/
def SMap.wf {α : Type} [DecidableEq α] (d : α) (m : SMap α) : Bool := SMap.wfFrom d 0 m

end Sys2Proof
end

