-- ==== Sys2Proof/Machine/Types.lean ====
section
/-! DEFINITION. The operand fields of an instruction (R45, R47) as decoding reads them. -/
namespace Sys2Proof

/-- The six layouts of the bits above FN (R47). `mod` is MOD [63:41], `c` the register field C; the MOD28
field of WIDE is the two together. -/
inductive Form where
  | reg (mod : BitVec 23) (c : BitVec 5)
  | imm (i : BitVec 28)
  | imx (i : BitVec 60)
  | xtd (mod : BitVec 23) (c : BitVec 5) (ext : BitVec 32)
  | wide (mod : BitVec 23) (c : BitVec 5) (i : BitVec 64)
  | desc (mod : BitVec 23) (c : BitVec 5) (desc : BitVec 64)
  deriving DecidableEq, Repr

/-- The header fields of R45 other than LEN and OP, and the layout above FN. -/
structure Ops where
  /-- PG, the guarding predicate. -/
  pg : BitVec 3
  /-- PN, predicate negate. -/
  pn : BitVec 1
  /-- D, the destination field. -/
  d : BitVec 5
  /-- A, source A. -/
  a : BitVec 5
  /-- B, source B. -/
  b : BitVec 5
  /-- FN, the 7-bit function. -/
  fn : BitVec 7
  form : Form
  deriving DecidableEq, Repr

/-- MOD [63:41]; 0 in the forms without it. -/
def Form.mod : Form → BitVec 23
  | .reg m _ | .xtd m _ _ | .wide m _ _ | .desc m _ _ => m
  | .imm _ | .imx _ => 0

/-- C [40:36]; 0 in the forms without it. -/
def Form.c : Form → BitVec 5
  | .reg _ c | .xtd _ c _ | .wide _ c _ | .desc _ c _ => c
  | .imm _ | .imx _ => 0

/-- The immediate, EXT32 or DESC of the form as a number; 0 for REG. -/
def Form.ext : Form → Nat
  | .reg _ _ => 0
  | .imm i => i.toNat
  | .imx i => i.toNat
  | .xtd _ _ e => e.toNat
  | .wide _ _ i => i.toNat
  | .desc _ _ i => i.toNat

/-- The length in bytes (R44, R47). -/
def Form.bytes : Form → Nat
  | .reg _ _ | .imm _ => 8
  | .imx _ | .xtd _ _ _ => 12
  | .wide _ _ _ | .desc _ _ _ => 16

/-- Field `hi:lo` of MOD by the instruction word's own bit numbers (R47: MOD starts at bit 41). -/
def Ops.modBits (o : Ops) (hi lo : Nat) : Nat := o.form.mod.toNat / 2 ^ (lo - 41) % 2 ^ (hi + 1 - lo)

/-- Field `hi:lo` of DESC, EXT32 or the immediate. -/
def Ops.extBits (o : Ops) (hi lo : Nat) : Nat := o.form.ext / 2 ^ lo % 2 ^ (hi + 1 - lo)

/-- Field `hi:lo` of FN by FN's own bit numbers. -/
def Ops.fnBits (o : Ops) (hi lo : Nat) : Nat := o.fn.toNat / 2 ^ lo % 2 ^ (hi + 1 - lo)

/-- FN[5:0], the function where FN[6] selects the form (R48). -/
def Ops.fn6 (o : Ops) : Nat := o.fnBits 5 0

end Sys2Proof
end

