-- ==== Sys2Proof/Machine/Layout.lean ====
section
/-! DEFINITION. For every opcode: which formats and FN values its instruction page defines (R48, R58,
steps 7 and 8 of R60), and which bits of each field the page uses (R46, R47, step 9 of R60). -/
namespace Sys2Proof.Machine

/-- The bits an encoding uses: masks over D, A, B, C, over MOD (bit 0 is instruction bit 41) and over the
immediate, EXT32 or DESC. A non-zero bit outside them is a reserved-field trap, cause 0x02. -/
structure Mask where
  d : Nat := 0
  a : Nat := 0
  b : Nat := 0
  c : Nat := 0
  m : Nat := 0
  x : Nat := 0
  deriving DecidableEq, Repr

/-- `l` when the condition holds; otherwise the encoding is undefined, cause 0x01. -/
def need (c : Bool) (l : Mask) : Option Mask := if c then some l else none

/-- Every bit of an immediate, EXT32 or DESC. -/
def allX : Nat := 2 ^ 64 - 1
/-- The register number of a g or v register (R46). -/
def gv : Nat := 31
/-- The register number of a p or m register (R46). -/
def pm : Nat := 7
/-- The number of an accumulator slot (R46). -/
def ac : Nat := 3

/-- The R82 codes of the Sprig formats: 0x14 to 0x1F. -/
def isSprigCode (f : Nat) : Bool := decide (20 ≤ f) && decide (f ≤ 31)

/-- The integer element types of R182, as FN[5:0]. -/
def isIntType (t : Nat) : Bool := [4, 5, 6, 7, 32, 33, 34, 35].contains t
/-- The signed integer element types of R182. -/
def isSignedType (t : Nat) : Bool := [4, 6, 32, 34].contains t
/-- The float element types of R182. -/
def isFloatType (t : Nat) : Bool := [10, 12, 13].contains t
/-- The element types of R182. -/
def isType (t : Nat) : Bool := isIntType t || isFloatType t

/-- The completion fields of R206 at MOD [54:41]; with NS = 1 only NS may be set. -/
def cmplMask (o : Ops) : Nat := if o.modBits 54 54 = 1 then 0x2000 else 0x3FFF
/-- W at MOD [63:55]. -/
def wMask : Nat := 0x7FC000

/-- 0x00–0x16 (R96–R105). -/
def layoutInt (op : Nat) (o : Ops) : Option Mask :=
  let f := o.fnBits 5 0
  -- a Bop of every form (R96): `fs` the defined FN[5:0], D under `d`
  let bop (ok : Bool) (d : Nat) : Option Mask :=
    match o.form with
    | .reg _ _ => need (ok && o.fnBits 6 6 == 0) { d := d, a := gv, b := gv }
    | .imm _ => need (ok && o.fnBits 6 6 == 1) { d := d, a := gv, x := allX }
    | .imx _ | .wide _ _ _ => need (ok && o.fnBits 6 6 == 0) { d := d, a := gv, x := allX }
    | _ => none
  -- the REG and IMM forms only
  let regImm (ok : Bool) (x : Nat) : Option Mask :=
    match o.form with
    | .reg _ _ => need (ok && o.fnBits 6 6 == 0) { d := gv, a := gv, b := gv }
    | .imm _ => need (ok && o.fnBits 6 6 == 1) { d := gv, a := gv, x := x }
    | _ => none
  match op with
  | 0x00 | 0x01 | 0x03 => bop (decide (f ≤ 2)) gv
  | 0x02 => bop (f == 0) gv
  | 0x04 | 0x05 | 0x06 | 0x07 | 0x08 | 0x0C | 0x0D => bop (decide (f ≤ 1)) gv
  | 0x09 | 0x0A => regImm (decide (f ≤ 1)) allX
  | 0x0B => regImm (f == 0) allX
  | 0x0E | 0x0F =>
    match o.form with
    | .reg _ _ => need (decide (f ≤ 1) && o.fnBits 6 6 == 0) { d := gv, a := gv }
    | _ => none
  | 0x10 => regImm (decide (f ≤ 1)) 0xFFF
  | 0x11 => regImm (f == 0) 0xFFF
  | 0x12 =>
    match o.form with
    | .reg _ _ => need (f == 0 && o.fnBits 6 6 == 0) { d := gv, a := gv, c := gv, m := 3 }
    | _ => bop (f == 0) gv
  | 0x13 => bop (decide (o.fnBits 3 0 ≤ 11) && decide (o.fnBits 5 4 ≤ 2)) pm
  | 0x14 =>
    match o.form with
    | .reg _ _ => need (decide (f ≤ 15) && o.fnBits 6 6 == 0) { d := pm, a := pm, b := pm }
    | _ => none
  | 0x15 =>
    match o.form with
    | .reg _ _ =>
      if o.fnBits 6 6 == 0 then
        match f with
        | 0 => some { d := gv, a := gv }
        | 2 => some { d := gv, a := pm }
        | 3 => some { d := pm, a := gv }
        | _ => none
      else none
    | .imm _ => need (decide (f ≤ 1) && o.fnBits 6 6 == 1) { d := gv, x := allX }
    | .imx _ | .wide _ _ _ => need (f == 0 && o.fnBits 6 6 == 0) { d := gv, x := allX }
    | _ => none
  | 0x16 => bop (decide (f ≤ 15)) gv
  | _ => none

/-- 0x17–0x1F (R106–R109). In the WIDE form IMM64 [63:32] must be 0 and stands for gB. RM 5–7 of FCVT fails here, at decode, whatever the
guard (R85, R109; DESIGN CHOICE, log entry 98). -/
def layoutFp (op : Nat) (o : Ops) : Option Mask :=
  let f := o.fn.toNat
  let regWide (ok : Bool) (d c : Nat) : Option Mask :=
    match o.form with
    | .reg _ _ => need ok { d := d, a := gv, b := gv, c := c }
    | .wide _ _ _ => need ok { d := d, a := gv, c := c, x := 0xFFFFFFFF }
    | _ => none
  match op with
  | 0x17 | 0x1C | 0x1D => regWide (decide (f ≤ 1)) gv 0
  | 0x18 | 0x1A => regWide (f == 0) gv 0
  | 0x19 => regWide (decide (f ≤ 3)) gv gv
  | 0x1B =>
    match o.form with
    | .reg _ _ => need (f == 0) { d := gv, a := gv }
    | _ => none
  | 0x1E => regWide (decide (o.fnBits 2 0 ≤ 4) && o.fnBits 3 3 == 0 && decide (o.fnBits 5 4 ≤ 2)
              && o.fnBits 6 6 == 0) pm 0
  | 0x1F =>
    match o.form with
    | .reg _ _ => need (o.fnBits 6 6 == 0 && decide (o.modBits 45 43 ≤ 4))
        { d := gv, a := gv, b := if isSprigCode (o.fnBits 4 0) then gv else 0, m := 0x1F }
    | _ => none
  | _ => none

/-- 0x20–0x2A (R111–R120). PG and PN of RET are its guard and not checked (R55, R112; DESIGN CHOICE, log entry 99). -/
def layoutControl (op : Nat) (o : Ops) : Option Mask :=
  let f := o.fn.toNat
  match op, o.form with
  | 0x20, .imm _ | 0x22, .imm _ => need (f == 0) { x := allX }
  | 0x21, .reg _ _ => need (decide (f ≤ 1)) { a := gv }
  | 0x23, .reg _ _ => need (f == 0) {}
  | 0x24, .imm _ => need (f == 64) { x := allX }
  | 0x24, .xtd _ _ _ => need (f == 0) { m := 0x7FF, x := allX }
  | 0x25, .reg _ _ => need (f == 0) { a := gv, m := 0x7FF }
  | 0x26, .reg _ _ => need (f == 0) { m := 0x3FFF }
  | 0x27, .reg _ _ | 0x27, .xtd _ _ _ | 0x27, .desc _ _ _ => need (f == 0) {}
  | 0x28, .reg _ _ | 0x29, .reg _ _ => need (f == 0) {}
  | 0x2A, .reg _ _ => need (decide (f ≤ 1)) {}
  | _, _ => none

/-- 0x30–0x3B and 0x50–0x53 (R156–R175). -/
def layoutMemory (op : Nat) (o : Ops) : Option Mask :=
  -- base plus offset or base plus scaled index (R156)
  let addressed (ok : Bool) (d b : Nat) : Option Mask :=
    match o.form with
    | .reg _ _ => need (ok && o.fnBits 6 6 == 0) { d := d, a := gv, b := b, c := gv, m := 3 }
    | .imm _ => need (ok && o.fnBits 6 6 == 1) { d := d, a := gv, b := b, x := allX }
    | .imx _ => need (ok && o.fnBits 6 6 == 0) { d := d, a := gv, b := b, x := allX }
    | _ => none
  let regOnly (ok : Bool) (l : Mask) : Option Mask :=
    match o.form with
    | .reg _ _ => need ok l
    | _ => none
  -- MOD of the atomics (R175); with NR = 1, W and K must be 0
  let amod : Nat := if o.modBits 61 61 = 1 then 0x1C0000 else 0x1FFFFF
  let atomic (ok : Bool) (bc cc : Nat) : Option Mask :=
    match o.form with
    | .reg _ _ => need ok { a := gv, b := bc, c := cc, m := amod }
    | .xtd _ _ _ => need ok { a := gv, b := bc, c := cc, m := amod, x := allX }
    | _ => none
  let size4or8 : Bool := [2, 3, 6, 7].contains (o.fnBits 2 0)
  match op with
  | 0x30 => addressed (decide (o.fnBits 4 3 ≤ 1) && o.fnBits 5 5 == 0) gv 0
  | 0x31 => addressed (decide (o.fnBits 4 3 ≤ 1) && o.fnBits 5 5 == 0) 0 gv
  | 0x32 => addressed (o.fnBits 5 3 == 0) gv 0
  | 0x33 => addressed (decide (o.fnBits 4 3 ≤ 2)) gv 0
  | 0x34 => addressed (decide (o.fnBits 4 3 ≤ 2)) 0 gv
  | 0x35 | 0x36 => regOnly (decide (o.fnBits 4 3 ≤ 2) && o.fnBits 6 5 == 0) { d := gv, a := gv, b := gv }
  | 0x37 => regOnly (decide (o.fnBits 4 3 ≤ 2) && o.fnBits 6 5 == 0) { a := gv, b := gv, c := gv }
  | 0x38 => regOnly (o.fnBits 6 4 == 0 && (o.fnBits 3 3 == 0 || o.fnBits 2 0 == 3))
              { a := gv, c := gv, m := 0x3FFFFF }
  | 0x39 => addressed (o.fnBits 5 1 == 0) 0 0
  | 0x3A => regOnly (decide (o.fn.toNat ≤ 2)) {}
  | 0x3B =>
    match o.form with
    | .desc _ _ _ => need (decide (o.fn.toNat ≤ 2))
        { m := 0xF, x := if o.fn.toNat = 2 then 0 else 2 ^ 50 - 1 }
    | _ => none
  | 0x50 => atomic (size4or8 && decide (o.fnBits 5 3 ≤ 6) && o.fnBits 6 6 == 0) gv 0
  | 0x51 => atomic ([10, 12].contains (o.fnBits 4 0) && decide (o.fnBits 6 5 ≤ 2)) gv 0
  | 0x52 =>
    let wide := o.fnBits 3 3 == 1
    atomic (o.fnBits 6 4 == 0 && size4or8 && (!wide || o.fnBits 2 0 == 3))
      (if wide then 30 else gv) (if wide then 30 else gv)
  | 0x53 => atomic (o.fn.toNat == 0) gv gv
  | _ => none

/-- 0x60–0x6F (R124–R151). A field that another field's value makes idle (ISTW's K with S = 0, T with TS = 0, a CEVT slot without
its valid bit) may hold anything (R46; DESIGN CHOICE, log entry 26). -/
def layoutSync (op : Nat) (o : Ops) : Option Mask :=
  let f := o.fn.toNat
  -- A must be 0 when SELF names the own frame or core (R125)
  let aSelf (self : Nat) : Nat := if self = 1 then 0 else gv
  match op, o.form with
  | 0x60, .reg _ _ => need (f == 0) { a := aSelf (o.modBits 54 54), m := 0x3FFF }
  | 0x61, .reg _ _ => need (f == 0) { a := aSelf (o.modBits 54 54), b := gv, m := 0x3FFF }
  | 0x62, .reg _ _ => need (f == 0) { b := gv, c := pm }
  | 0x63, .desc _ _ _ => need (f == 0) { a := aSelf (o.extBits 27 27), x := 2 ^ 28 - 1 }
  | 0x64, .desc _ _ _ => need (f == 0) { a := aSelf (o.extBits 39 39), x := 2 ^ 40 - 1 }
  | 0x65, .reg _ _ => need (f == 0) { m := 0x3FFFFF }
  | 0x66, .reg _ _ => need (f == 0) { a := aSelf (o.modBits 54 54), m := 0x2000 }
  | 0x67, .reg _ _ => need (decide (f ≤ 1)) { a := aSelf (o.modBits 54 54), b := gv, m := 0x3FFF }
  | 0x68, .reg _ _ => need (f == 0) { a := aSelf (o.modBits 54 54), b := gv, m := 0x3FFF }
  | 0x69, .reg _ _ | 0x6A, .reg _ _ => need (f == 0) { a := aSelf (o.modBits 54 54), m := 0x203F }
  | 0x6B, .reg _ _ =>
    if f = 0 then some { a := aSelf (o.modBits 54 54), m := 0x3FFF }
    else need (f == 1) { d := gv }
  | 0x6C, .xtd _ _ _ => need (decide (f ≤ 1)) { a := gv, b := if f = 0 then gv else 0, m := 0x3FFF, x := allX }
  | 0x6D, .xtd _ _ _ => need (f == 0) { a := gv, m := 0x3FFFFF, x := allX }
  | 0x6E, .reg _ _ => need (decide (f ≤ 1)) { a := gv, b := if f = 0 then gv else 0, c := gv, m := 0x1FFF }
  | 0x6F, .reg _ _ =>
    if f = 0 then some { d := gv }
    else need (f == 1) { a := gv, m := 0x1FFF }
  | _, _ => none

/-- The count fields of EXT32 (R183): CNT must be 0 when CR = 1, and CG is used only then; `j` says that
IMM16 is used. -/
def countMask (o : Ops) (count j : Bool) : Nat :=
  (if count then (if o.extBits 13 13 = 1 then 0x3F00 else 0x20FF) else 0) + (if j then 0xFFFF0000 else 0)

/-- 0x80–0xAB (R183–R201). MOD: MK [43:41], ZI [44], OPF [52:45], [63:53] (R183). -/
def layoutVector (op : Nat) (o : Ops) : Option Mask :=
  let t := o.fnBits 5 0
  let opx := o.fnBits 6 6
  let opf := o.modBits 52 45
  let ji := o.modBits 52 52 == 1
  -- the REG and XTD forms; `mk` and `zi` say whether the page uses MK and ZI, `count` the count fields
  let vec (ok : Bool) (l : Mask) (mk zi count j : Bool) : Option Mask :=
    let m := l.m + (if mk then 7 else 0) + (if zi then 8 else 0) + 0xFF0
    match o.form with
    | .reg _ _ => need (ok && !j) { l with m := m }
    | .xtd _ _ _ => need ok { l with m := m, x := countMask o count j }
    | _ => none
  let abc : Mask := { d := gv, a := gv, b := gv, c := gv }
  let ab : Mask := { d := gv, a := gv, b := gv }
  let one : Mask := { d := gv, a := gv }
  match op with
  | 0x80 | 0x81 | 0x82 => vec (isType t && decide (opf ≤ 1) && (opf == 0 || isIntType t)) ab true true true false
  | 0x83 => vec (isType t && decide (opf ≤ 3) && (opf == 0 || isFloatType t)) abc true true true false
  | 0x84 => vec (isType t && opf == 0) ab true true true false
  | 0x85 | 0x86 => vec (isType t && decide (opf ≤ 1) && (opf == 0 || isFloatType t)) ab true true true false
  | 0x87 => vec (isType t && opx == 0 && decide (opf ≤ 1) && (opf == 0 || isSignedType t)) one true true true false
  | 0x88 | 0x89 | 0x8A => vec (isType t && decide (opf ≤ 1)) ab true true true false
  | 0x8B | 0x8C | 0x8D => vec (isIntType t && opf == 0) ab true true true false
  | 0x8E | 0x8F | 0x92 | 0x93 | 0x94 => vec (isFloatType t && opx == 0 && opf == 0) one true true true false
  | 0x90 | 0x91 => vec (isFloatType t && opx == 0 && decide (opf ≤ 1)) one true true true false
  | 0x95 =>
    match o.form with
    | .desc _ _ _ => need (isFloatType t) { d := gv, a := gv, b := gv, m := 0xFFF, x := allX }
    | _ => none
  | 0x96 => vec (opx == 0 && decide (opf % 8 ≤ 6) && decide (opf / 8 % 8 ≤ 4) && opf / 64 == 0)
      { d := gv, a := gv, c := if isSprigCode (o.fnBits 4 0) then gv else 0, m := 0x1F000 } true true true false
  | 0x97 => vec (isType t && decide (opf % 16 ≤ 6) && (decide (opf % 16 ≤ 5) || isFloatType t)
      && decide (opf / 16 ≤ 2)) { d := pm, a := gv, b := gv } true true true false
  | 0x98 | 0x99 | 0x9A =>
    match o.form with
    | .reg _ _ => need (o.fn.toNat == 0 && decide (opf ≤ 1)) { d := pm, a := pm, b := pm, m := 0xFF0 }
    | _ => none
  | 0x9B =>
    match o.form with
    | .reg _ _ => need (o.fn.toNat == 0 && opf == 0) { d := pm, a := pm, m := 0xFF0 }
    | _ => none
  | 0x9C => vec (isType t && opx == 0 && decide (opf ≤ 1)) { d := gv, a := pm } false false true false
  | 0x9D => vec (isType t && opx == 0 && opf == 0) abc true true true false
  | 0x9E => vec (isType t && opx == 0 && decide (opf % 128 ≤ 3))
      { d := gv, a := gv, b := if ji then 0 else gv, c := if opf / 2 % 2 = 1 then gv else 0 } true true true ji
  | 0x9F =>
    if opf % 128 = 1 then
      vec (isType t && opx == 0) { d := gv, a := gv, b := if ji then 0 else gv } true true true ji
    else vec (isType t && opx == 0 && opf == 0) one true true true false
  | 0xA0 => vec (isType t && opx == 0 && opf == 0) one true true true false
  | 0xA1 => vec (isType t && opx == 0 && opf == 0) ab true false true false
  | 0xA2 => vec (isType t && opx == 0 && decide (opf ≤ 5) && (decide (opf ≤ 2) || isIntType t)) one true false true false
  | 0xA3 => vec (isType t && opx == 0 && decide (opf ≤ 2)) one true true true false
  | 0xA4 => vec ((isType t || t == 14 || t == 15) && opx == 0 && decide (opf ≤ 1)) ab true false true false
  | 0xA5 | 0xA6 => vec (isType t && opx == 0 && opf == 0) one true true true false
  | 0xA7 => vec ([10, 32, 33].contains t && opx == 0 && decide (opf ≤ 15)) ab true false true false
  | 0xA8 => vec ([10, 32, 33].contains t && opx == 0 && decide (opf ≤ 4)) ab true false true false
  | 0xA9 | 0xAA => vec (isType t && opx == 0 && opf % 128 == 0)
      { d := gv, a := gv, b := if ji then 0 else gv } false false false ji
  | 0xAB =>
    if opf = 1 then vec (isType t && opx == 0) { d := pm, a := gv } false false false false
    else vec (isIntType t && opx == 0 && opf == 0) ab true true true false
  | _ => none

/-- 0xC0–0xCB (R217–R248). -/
def layoutMatrix (op : Nat) (o : Ops) : Option Mask :=
  let ok := o.fn.toNat == 0
  match op, o.form with
  | 0xC0, .reg _ _ => need ok { a := gv }
  | 0xC0, .desc _ _ _ => need ok { x := allX }
  | 0xC1, .desc _ _ _ | 0xC2, .desc _ _ _ => need ok { d := ac, a := gv, b := gv, c := gv, m := cmplMask o, x := 2 ^ 44 - 1 }
  | 0xC3, .reg _ _ | 0xC7, .reg _ _ => need ok { d := ac, m := cmplMask o }
  | 0xC4, .desc _ _ _ => need ok { d := ac, a := gv, c := gv, m := cmplMask o, x := 0xFFF }
  | 0xC5, .desc _ _ _ => need ok { a := ac, b := gv, c := gv, m := cmplMask o, x := 0xFFFF7FFF }
  | 0xC6, .desc _ _ _ => need ok { a := ac, c := gv, m := cmplMask o, x := 0xFFFF1F }
  | 0xC8, .reg _ _ => need ok { d := ac, a := gv, m := cmplMask o }
  | 0xC9, .reg _ _ => need ok { a := gv, b := gv, m := cmplMask o }
  | 0xCA, .desc _ _ _ => need ok { d := ac, m := cmplMask o, x := 0xFF }
  | 0xCB, .desc _ _ _ => need ok { a := ac, b := gv, c := gv, m := cmplMask o, x := 0xFFFF }
  | _, _ => none

/-- 0xE0–0xE9 (R255–R270). -/
def layoutEngine (op : Nat) (o : Ops) : Option Mask :=
  let f := o.fn.toNat
  match op, o.form with
  | 0xE0, .reg _ _ | 0xE2, .reg _ _ => need (decide (f ≤ 3)) { a := gv, b := gv, c := gv, m := cmplMask o + 0xFC000 }
  | 0xE1, .reg _ _ => need (decide (f ≤ 3)) { a := gv, b := gv, c := 30, m := cmplMask o + 0xFC000 }
  | 0xE3, .reg _ _ => need (decide (f ≤ 3)) { m := cmplMask o + wMask }
  | 0xE4, .reg _ _ => need (f == 0) { b := gv, m := 0x3F }
  | 0xE5, .reg _ _ => need (decide (f ≤ 1)) { d := gv, m := 0x3F }
  | 0xE6, .reg _ _ => need (decide (f ≤ 1)) { a := gv, b := gv, c := gv, m := 0x3F }
  | 0xE7, .desc _ _ _ => need (f == 0) { x := 2 ^ 40 - 1 }
  | 0xE8, .reg _ _ =>
    match f with
    | 0 => some { d := gv }
    | 1 => some { d := gv, a := gv }
    | 2 => some { m := 0x1FFF }
    | _ => none
  | 0xE9, .reg _ _ => need (f == 0) { a := gv, m := 0x1FFF + wMask }
  | _, _ => none

/-- 0xF0–0xFC (R271). WATCH without `.unit` has the index 0 to 3 (R278): the field's upper bits are reserved there (R46; DESIGN CHOICE,
log entry 27). -/
def layoutSystem (op : Nat) (o : Ops) : Option Mask :=
  let f := o.fn.toNat
  match op, o.form with
  | 0xF0, .imm _ => need (f == 64) { a := gv, x := 0xFF }
  | 0xF1, .reg _ _ => need (decide (f ≤ 1)) {}
  | 0xF2, .imm _ => need (f == 64) { d := gv, x := 0xFFF }
  | 0xF3, .imm _ => need (f == 64) { a := gv, x := 0xFFF }
  | 0xF4, .reg _ _ => need (decide (f ≤ 1)) { a := gv, b := gv, m := cmplMask o }
  | 0xF5, .reg _ _ =>
    if f = 0 then some { a := gv, m := cmplMask o } else need (f == 1) { m := cmplMask o }
  | 0xF6, .reg _ _ => need (f == 0) { a := gv, m := cmplMask o }
  | 0xF7, .reg _ _ => need (f == 0) { a := gv, m := cmplMask o + wMask }
  | 0xF8, .reg _ _ => need (decide (f ≤ 7)) { a := gv, b := gv, m := if o.fnBits 2 2 = 1 then 0xF else 3 }
  | 0xF9, .imm _ => need (f == 64) { x := 0xFFFF }
  | 0xFA, .reg _ _ => need (f == 0) { a := gv, b := gv, m := cmplMask o + wMask }
  | 0xFB, .reg _ _ => need (decide (f ≤ 1)) { a := gv, b := gv, m := cmplMask o }
  | 0xFC, .reg _ _ => need (f == 0) { m := cmplMask o + 0x1C000 }
  | _, _ => none

/-- The layout of an encoding of opcode `op` (R48, R58), or `none` where the page defines no such form or
function, which traps with cause 0x01 at steps 6 to 8 of R60. `bank` and `narrow` are the state-bank and the
4-bit and 2-bit formats capabilities (R59). -/
def layout (op : Nat) (o : Ops) : Option Mask :=
  if op ≤ 0x16 then layoutInt op o
  else if op ≤ 0x1F then layoutFp op o
  else if op ≤ 0x2F then layoutControl op o
  else if op ≤ 0x5F then layoutMemory op o
  else if op ≤ 0x7F then layoutSync op o
  else if op ≤ 0xBF then layoutVector op o
  else if op ≤ 0xDF then layoutMatrix op o
  else if op ≤ 0xEF then layoutEngine op o
  else layoutSystem op o

/-- No bit of `v` lies outside `mask`. -/
def within (v mask : Nat) : Bool := v &&& mask == v

/-- The reserved-bit check of step 9 of R60. -/
def Mask.allows (l : Mask) (o : Ops) : Bool :=
  within o.d.toNat l.d && within o.a.toNat l.a && within o.b.toNat l.b && within o.form.c.toNat l.c
    && within o.form.mod.toNat l.m && within o.form.ext l.x

end Sys2Proof.Machine
end

