-- ==== Sys2Proof/Config.lean ====
section
/-! DEFINITION. What the manual leaves to the part, as constants with no body: nothing evaluates them and no
proof sees a value of them, so a statement about them holds of every value. -/
namespace Sys2Proof.Config

/-- The choice among several steps that could come next, applied to the free-value counter (R283; log
entry 2). -/
opaque pick : Nat → Nat
/-- Which piece of an access of several is performed by itself, 0 for none (R295; log entry 46), applied to the free-value counter. -/
opaque alone : Nat → Nat
/-- Nanoseconds that pass with a step, applied to the free-value counter (log entry 3). -/
opaque elapsed : Nat → Nat
/-- A value the manual leaves open, applied to the free-value counter (log entry 1). -/
opaque freeWord : Nat → Word
/-- Whether the host has written a byte of its memory since the device last used it (log entry 8), applied to the free-value counter. -/
opaque hostWrote : Nat → Bool
/-- A natural number the manual leaves open, applied to the free-value counter (log entry 1). -/
opaque freeNat : Nat → Nat

/-- The result of VRCP on an ordinary F32 input, of VRSQ, VEXP, VLOG, VTANH and VSIG (R188): `op` the opcode,
`base` the OPF variant, `fmt` the element type, and the element's bits. -/
opaque approx : (op base fmt bits : Nat) → Nat
/-- The number of this package in its view domain (R377): the manual does not say what sets it (log entry 7). -/
opaque ownPkg : Nat
/-- Whether the runtime has disabled grafting when a request reaches the proposer (R384), applied to the free-value counter. -/
opaque graftsOff : Nat → Bool
/-- Words 0, 2 and 3 of an event record (R422): the manual says what the detail of each kind holds, not where it lies. -/
opaque eventWord : (word kind : Nat) → (detail : List Nat) → Nat
/-- Whether a die's forme store makes room when a launch is loaded (R326), applied to the free-value counter. -/
opaque storeFull : Nat → Bool
/-- The index of the sample a standard microcode or a policy chooses where the manual names none. -/
opaque victim : Nat → Nat

/-- Whether the part detects tininess before rounding, which IEEE 754-2019 leaves to it (R106). -/
opaque tinyBefore : Bool
/-- Whether 0 × ∞ + quiet NaN signals invalid, which IEEE 754-2019 leaves to the part (R106). -/
opaque fmaInvalidWithNaN : Bool

/-- The byte layout of the state-window areas whose layout the manual does not give (R407): an area's fields as one
number, and back. -/
opaque winPack : (area : Nat) → (fields : List Nat) → Nat
opaque winUnpack : (area v : Nat) → List Nat

/-- The private half of the device identity key (R423, R425): 57 bytes that never leave the controller. -/
opaque identitySecret : List Byte
/-- A status byte of the management path (R431): whether the command was refused. -/
opaque i3cStatus : (refused : Bool) → Byte
/-- The firmware security version (R425). -/
opaque firmwareVersion : Nat
/-- The digests that bring-up extends MR0–MR3 with (R423): of firmware, package firmware, engine microcode, prune maps. -/
opaque bootDigest : (register : Nat) → List Byte
/-- Whether the firmware image that a bring-up stage checks passes (R423). -/
opaque bootOk : (stage : Nat) → Bool
/-- The certificate chain of the identity key (R423, R431). -/
opaque certificates : List Byte

end Sys2Proof.Config
end

