-- ==== Sys2Proof/Machine/Packets.lean ====
section
/-! DEFINITION. What travels between the parts of a package: completion targets, origins, memory locations,
messages (R360, R361), commands of the matrix regions (R205) and engine harts (R252), fault records (R394),
and the control messages of a view change (R378). A core is named by 16 × cluster + core (R34, COREID). -/
namespace Sys2Proof.Machine

/-- A node of a forme's graph (R350): a slot word or a channel of a core. -/
inductive Node where
  | slot (core fid ix : Nat)
  | chan (core ch : Nat)
  deriving DecidableEq, Repr

/-- Who caused an action: its core, its node, its route tag and its generation (R394). -/
structure Origin where
  core : Nat := 0
  node : Node := .chan 0 0
  tag : Nat := 0
  gen : Nat := 0
  /-- 0 core, 1 engine hart, 2 matrix or state command, 3 host, 4 peer package, 5 loader (R408). -/
  kind : Nat := 0
  /-- The package, when it is another one (R408). -/
  pkg : Option Nat := none
  deriving DecidableEq, Repr

/-- A completion slot: word `k` of frame `fid` of `core`, signalled with route tag `tag` (R206). -/
structure Cmpl where
  core : Nat
  fid : Nat
  k : Nat
  tag : Nat
  deriving DecidableEq, Repr

/-- The place of one byte (R153, R158, R177, R419), after translation. -/
inductive Loc where
  /-- Scratchpad of a cluster. -/
  | spad (cl off : Nat)
  /-- An ordinary virtual page: performed at the home LLC slice of the physical address. -/
  | mem (pa : Nat)
  /-- A memory-side page; `wo` when it is write-once. -/
  | side (pa : Nat) (wo : Bool)
  /-- A host page: the window, and the host address (R419, R420). -/
  | host (w a : Nat)
  /-- A peer page: station and address. -/
  | peer (st a : Nat)
  /-- A guarded page (R411): reads zero, writes nothing, raises a record. -/
  | guard (va : Nat)
  /-- Device registers: a state window (R419). -/
  | dev (pa : Nat)
  deriving DecidableEq, Repr

/-- The operation of an atomic (R175, R176). -/
inductive AtOp where
  | add | and | or | xor
  | min (signed : Bool) | max (signed : Bool)
  | swap
  /-- AMOF: operator 0 add, 1 minimum, 2 maximum on F32 or BF16. -/
  | fadd (bf16 : Bool) | fmin (bf16 : Bool) | fmax (bf16 : Bool)
  | cas
  deriving DecidableEq, Repr

/-- An atomic request: `n` bytes at `loc`; `b` the operand or the swap value, `cmp` the compare value. -/
structure AtReq where
  loc : Loc
  va : Nat
  n : Nat
  op : AtOp
  b : Nat
  cmp : Nat
  /-- Sign-extension of a 32-bit old value (R178). -/
  sx : Bool
  /-- A translation or permission cause found at execution (R155), 0 for none. -/
  fault : Nat
  /-- First result word and completion slot; `none` with NR = 1. -/
  res : Option (Nat × Cmpl)
  acq : Bool
  rel : Bool
  deriving DecidableEq, Repr

/-- A fault record (R394). -/
structure FaultRec where
  cause : Nat
  imprecise : Bool
  tval : Nat
  time : Nat
  tag : Nat
  gen : Nat
  core : Nat
  epc : Nat
  node : Node
  merged : Nat := 0
  deriving DecidableEq, Repr

/-- A node in 64 bits (R350): its forme core counts from the instance's first cluster. -/
def Node.word (first : Nat) : Node → Word
  | .slot core fid k => BitVec.ofNat 64 (core - 16 * first + k * 2 ^ 13 + fid * 2 ^ 22)
  | .chan core ch => BitVec.ofNat 64 (2 ^ 63 + (core - 16 * first) + ch * 2 ^ 13)

/-- The two payload flits of a fault record's message (R394), of an instance that begins at cluster `first`. -/
def FaultRec.words (first : Nat) (r : FaultRec) : List Word :=
  [BitVec.ofNat 64 r.tval, BitVec.ofNat 64 r.time,
   BitVec.ofNat 64 (r.tag % 8 * 2 ^ 49 + r.gen % 4096 * 2 ^ 37 + r.core % 16 * 2 ^ 33 + r.core / 16 % 512 * 2 ^ 24
     + (if r.imprecise then 2 ^ 8 else r.epc % 2 ^ 15 * 2 ^ 9) + r.cause % 2 ^ 8),
   r.node.word first, BitVec.ofNat 64 (r.merged % 2 ^ 32), 0, 0, 0]

/-- The content of a message in flight (R361). -/
inductive Body where
  /-- A slot signal; `err` 0 or a cause (R39); `aff` the context of a matrix completion (R208); `unpin` when
  the completion update ends a pin (R139). -/
  | sig (fid k err : Nat) (aff : Option Nat) (unpin : Bool)
  | sigr (fid k n : Nat)
  | slotadd (fid k n : Nat)
  | slotset (fid k : Nat) (v : Word) (keep : Bool)
  | sendf (fid k dw : Nat) (ws : List Word)
  /-- A completion that writes frame words and signals, as one update (R132). -/
  | complete (fid : Nat) (ws : List (Nat × Word)) (k err : Nat)
  | chan (ch : Nat) (payload : List Byte)
  | chblk (ch : Nat)
  | chunb (ch : Nat)
  | falloc (n w : Nat) (cmpl : Cmpl)
  | istw (loc : Loc) (va : Nat) (v : Word) (fault : Nat) (cmpl : Option Cmpl)
  | istwClr (loc : Loc) (va : Nat) (fault : Nat) (cmpl : Option Cmpl)
  | isrd (loc : Loc) (va : Nat) (fault : Nat) (w : Nat) (cmpl : Cmpl) (tries : Nat)
  | rlogPut (dva : Nat) (layer mb : Nat) (data : VReg) (cmpl : Cmpl)
  | rlogRet (dva : Nat) (layer mb : Nat) (cmpl : Cmpl)
  /-- A piece of a store (R295); `full` names the 64-byte lines that the whole access covers (R308). -/
  | store (ws : List (Loc × Byte)) (va : Nat) (full : List Nat)
  /-- A split-phase read of `sz` (a size code) or of a 64-byte block: the bytes still to be read, by their place in the
  result, and those read. -/
  | ldfar (locs : List (Nat × Loc)) (got : List (Nat × Byte)) (va sz : Nat) (blk : Bool) (fault w : Nat) (cmpl : Cmpl)
  | ldfarResp (ws : List (Nat × Word)) (err : Nat) (cmpl : Cmpl)
  | atomic (r : AtReq)
  | atomicResp (ws : List (Nat × Word)) (err : Nat) (cmpl : Cmpl)
  /-- A state-bank event: bank reference fields, event word, completion, retries so far, emitting bank. -/
  | sbevt (cl reg sl row : Nat) (ev : Word) (cmpl : Option Cmpl) (tries : Nat) (emit : Option (Nat × Nat))
  /-- An input of operation `n` of a group at a site (R375), at its fold position; a failed subtree gives no value. -/
  | contrib (grp n pos : Nat) (v : Option (List Word))
  /-- A result on its way down: to a site, or to core `dst`, which writes destination elements from `pos` on. -/
  | result (grp n : Nat) (site : Bool) (pos : Nat) (v : Option (List Word))
  /-- Every member below has reached its local-result point (`up`), or every member has (R267), with the cause of a failure. -/
  | finished (grp n pos : Nat) (up site : Bool) (err : Nat)
  | round (plate : Nat)
  /-- The error token at a node, or, with none, at every node of the core (R350). -/
  | errTok (node : Option Node)
  /-- A fault token on its way to a site (R394, R395). -/
  | fault (r : FaultRec)
  /-- A packet from outside whose KIND is not listed (R361). -/
  | unlisted (kind : Nat)
  deriving DecidableEq, Repr

/-- The number of this package (R377; log entry 7). -/
def ownPkg : Nat := Sys2Proof.Config.ownPkg % 2 ^ 14

/-- A message in flight: header fields of R360 and its content. -/
structure Pkt where
  org : Origin
  /-- Source core; for a message of a cluster site or hart the first core of its cluster. -/
  src : Nat
  /-- Destination core; for a message to a cluster the first core of the cluster. -/
  dst : Nat
  tag : Nat
  cls : Nat
  gen : Nat
  /-- Source package, and destination package when the packet crosses packages. -/
  spkg : Nat := ownPkg
  dpkg : Option Nat := none
  xfid : Nat := 0
  xver : Nat := 0
  vtag : Option Nat := none
  /-- The commit the packet belongs to and its entry's place in that buffer (R285). -/
  job : Nat := 0
  idx : Nat := 0
  /-- The completion slot of its own that the sending action names, to which a refusal by a full galley goes (R372). -/
  own : Option Cmpl := none
  /-- Which it is of the messages that carry one vector of a collective, and of how many (R360). -/
  part : Nat × Nat := (0, 1)
  /-- The whole access has passed the check of R173 at the owner's port. -/
  passed : Bool := false
  body : Body
  deriving DecidableEq, Repr

/-- The matrix and state commands (R205, R239). -/
inductive MOp where
  | mzero | mldc | mma | mmag | mstc | mque | mrel | sbcfg | sbstep | sbread
  deriving DecidableEq, Repr

/-- Where a matrix command stands: in the queue, executing, or executed with the cause of its completion. -/
inductive MPhase where
  | queued
  | running
  | done
  deriving DecidableEq, Repr

/-- A matrix or state command (R205–R239). -/
structure MCmd where
  op : MOp
  /-- The accumulator slot. -/
  sl : Nat
  /-- The issuing context. -/
  ctx : Nat
  org : Origin
  cmpl : Option Cmpl
  /-- The A or destination endpoint, the B endpoint, and the masks, as read at execution. -/
  ga : Word := 0
  gb : Word := 0
  gc : Word := 0
  desc : Nat := 0
  /-- GEOM and the sequence number of an MMAG (R223). -/
  geom : Word := 0
  seq : Nat := 0
  /-- The privilege of the issuing forme. -/
  priv : Bool := false
  phase : MPhase := .queued
  /-- The cause of a failed completion, 0 for none. -/
  err : Nat := 0
  /-- The address reported with a failure. -/
  tval : Nat := 0
  /-- Steps of an SBSTEP still to be processed, and the cause of an emitted event given up. -/
  left : Nat := 0
  evErr : Nat := 0
  /-- LATE of the bank when the command started. -/
  late0 : Nat := 0
  /-- TIME at which a group command was accepted. -/
  since : Nat := 0
  /-- The commit it issued in and its place there (R171). -/
  job : Nat := 0
  idx : Nat := 0
  /-- Stores of its core to the own scratchpad that issued before it and are not performed: commit and place (R216). -/
  behind : List (Nat × Nat) := []
  /-- Overwritten bytes of its cluster's scratchpad that its reads see past (R216): those after this many. -/
  past : Nat := 0
  /-- It claimed a FREE slot (R241). -/
  claimed : Bool := false
  /-- The context of its slot's tag (R208). -/
  tagCtx : Nat := 0
  /-- Its slot was marked for orphaning while it waited or ran (R211). -/
  marked : Bool := false
  /-- Pieces still to be written, by row: each byte's place, value and mask of bits (R229). -/
  todo : List (Nat × List (Loc × Nat × Nat)) := []
  /-- The cause of poisoned or uncorrectable weights (R245, R402). -/
  bad : Nat := 0
  deriving DecidableEq, Repr

/-- An event armed by CEVT (R267): slots of the source-reusable, local-result and all-finished events. -/
structure CevtArm where
  grp : Nat
  src : Option Cmpl
  loc : Option Cmpl
  fin : Option Cmpl
  deriving DecidableEq, Repr

/-- An engine command (R252): w0–w6, its hart and its completion. -/
structure ECmd where
  w : List Word
  hart : Nat
  org : Origin
  cmpl : Option Cmpl
  priv : Bool := false
  /-- A CRED: group, operation number, and whether its source is the collective queue (R266). -/
  cred : Option (Nat × Nat × Bool) := none
  /-- A CKICK that joined a group: it completes by its slot (R259). -/
  kick : Bool := false
  /-- Elements of a CRED's destination shape, once read. -/
  dims : List (Nat × Int) := []
  arm : Option CevtArm := none
  /-- The commit it issued in and its place there (R171, R256). -/
  job : Nat := 0
  idx : Nat := 0
  /-- The cause of a CRED that has failed at its own member and takes part in its operation with no elements. -/
  failed : Nat := 0
  deriving DecidableEq, Repr

/-- A group report of an ACCEPT, or an entry of the group table of a COMMIT (R381): the highest operation of
the group whose final result has been placed, and the lowest package that placed it. -/
structure GroupReport where
  fid : Nat
  ver : Nat
  grp : Nat
  high : Option Nat
  holder : Nat
  deriving DecidableEq, Repr

/-- A message of the membership protocol (R378, R384). -/
inductive ViewMsg where
  | heartbeat (src : Nat)
  | suspect (src v : Nat) (pkgs : List Nat)
  | propose (proposer v : Nat) (members : List Nat)
  | accept (src v : Nat) (reports : List GroupReport) (unanswered : List Nat)
  | reject (src v : Nat) (suspects : List Nat) (proposer : Nat)
  | commit (v : Nat) (members : List Nat) (t : Nat) (table : List GroupReport)
  /-- A graft request of a package through a member, and its refusal; of no one member when the join itself fails (R270, R384). -/
  | graft (pkg : Nat) (via : Option Nat)
  | graftRefused (pkg : Nat) (via : Option Nat)
  /-- TIME of the rank-0 package (R377). -/
  | time (t : Nat)
  | resent (fid ver grp n : Nat) (v : Option (List Word))
  deriving DecidableEq, Repr

/-- An error of the environment, before anything has met it (R179, R397–R401): in a context's registers, buffers or latches; in the inbox
payload held for an activation; in a word of a frame SRAM or scratchpad, a plate, an L1 line or an HBM4 line; the next result of a vector
lane, or of a PE of an array, whose two firings will disagree, and whether a spare settles it. -/
inductive Upset where
  | context (core x : Nat)
  | inbox (core act : Nat)
  | frame (core word : Nat)
  | plate (core p : Nat)
  | l1 (core line : Nat)
  | spad (cl word : Nat)
  | hbm (line : Nat)
  | lane (core lane : Nat) (settled : Bool)
  | pe (cl col row : Nat) (settled : Bool)
  deriving DecidableEq, Repr

/-- What comes from outside the package, with its data: packets, messages of other members, host requests, commands of
the management path, samples and errors. -/
inductive Input where
  | none
  /-- An error that nothing has met yet. -/
  | upset (u : Upset)
  /-- A packet at a station. -/
  | pkt (st : Nat) (p : Pkt)
  | view (m : ViewMsg)
  /-- A number: a package, die, station, register, policy bit, address, cap, or kind of reset. -/
  | num (n : Nat)
  | bytes (i : Nat) (bs : List Byte)
  /-- Requests of a station's UALink peer (R389): a read of `n` bytes, a write, and an atomic (0 FetchAdd, 1 Swap, 2 CAS). -/
  | peerRead (st a n : Nat)
  | peerWrite (st a : Nat) (bs : List Byte)
  | peerAtomic (st a n op b cmp : Nat)
  /-- The runtime's settings through the management path: an entry of the next-hop table (R462), a station's peer and mode (R387), and a
  mark of the guard bitmap (R302). -/
  | hop (pkg : Nat) (v : Word)
  | link (st : Nat) (peer : Option Nat) (ualink : Bool)
  | guardMark (cl granule : Nat) (on : Bool)
  /-- A privileged allocation of `n` groups of a scratchpad, and the return of the one that begins at a group (R300). -/
  | spadAlloc (cl n : Nat)
  | spadFree (cl first : Nat)
  /-- A stop of a set of clusters at a TIME, or with `go` its resume (R403). -/
  | gang (go : Bool) (first last at_ : Nat)
  | token (port : Nat) (w : List Word)
  /-- A privileged access to the state window of a cluster. -/
  | window (wr : Bool) (cl off : Nat) (bytes : List Byte)
  /-- A write of register `num` of core, cluster or die `at_`. -/
  | reg (num at_ : Nat) (v : Word)
  | hwrite (bar off : Nat) (bytes : List Byte)
  /-- A read of a BAR, or, as bar 8, of the configuration space. -/
  | hread (bar off n tag : Nat)
  /-- An AtomicOp: 0 FetchAdd, 1 Swap, 2 CAS. -/
  | hatomic (off n op b cmp tag : Nat)
  | power (watts : Nat) (hot temps : List Nat)
  /-- A correctable error found by scrub: macro kind, cluster, core, row. -/
  | scrub (kind cl core row : Nat)
  deriving DecidableEq, Repr

end Sys2Proof.Machine
end

