-- ==== Sys2Proof/Syntax.lean ====
section
/-! DEFINITION. The steps of the SX512: one constructor per row of the opcode table. The first 176 are the
Decat instructions, with their operand fields as decoding reads them (R45, R47); the others are the steps the
hardware takes of itself (spec/95), with what identifies the step: the message that arrives, or the unit. What comes
from outside the package stands in State as a queue of inputs; its steps take the first of them. -/
namespace Sys2Proof

open Machine

inductive Instr where
  /-- R97: Integer add of A and Bop, wrapping, or clamped with .ss or .us. -/
  | add (o : Ops)
  /-- R97: Integer subtract of Bop from A, wrapping, or clamped with .ss or .us. -/
  | sub (o : Ops)
  /-- R97: Low 64 bits of the product of A and Bop. -/
  | mul (o : Ops)
  /-- R97: High 64 bits of the exact 128-bit product, signed, unsigned or mixed. -/
  | mulh (o : Ops)
  /-- R98: Integer quotient truncated toward zero; division by zero gives all ones and never traps. -/
  | div (o : Ops)
  /-- R98: Integer remainder with the sign of A; remainder by zero gives A. -/
  | rem (o : Ops)
  /-- R97: Bitwise and, with Bop inverted first under .n. -/
  | and (o : Ops)
  /-- R97: Bitwise or, with Bop inverted first under .n. -/
  | or (o : Ops)
  /-- R97: Bitwise exclusive or, with Bop inverted first under .n. -/
  | xor (o : Ops)
  /-- R99: Shift left with zeros in, or rotate left with .rot. -/
  | shl (o : Ops)
  /-- R99: Logical shift right, or rotate right with .rot. -/
  | shr (o : Ops)
  /-- R99: Arithmetic shift right with copies of bit 63. -/
  | sar (o : Ops)
  /-- R97: Lesser of A and Bop, signed or unsigned. -/
  | min (o : Ops)
  /-- R97: Greater of A and Bop, signed or unsigned. -/
  | max (o : Ops)
  /-- R100: Count of leading zero bits of A over 64 or 32 bits. -/
  | clz (o : Ops)
  /-- R100: Count of one bits of A over 64 or 32 bits. -/
  | popc (o : Ops)
  /-- R101: Extract a bit field of A, zero- or sign-extended. -/
  | ext (o : Ops)
  /-- R101: Deposit the low bits of A into a field of the destination. -/
  | dep (o : Ops)
  /-- R102: Compute an address without touching memory or translation. -/
  | lea (o : Ops)
  /-- R103: Integer compare into a predicate, optionally combined by and or or. -/
  | pcmp (o : Ops)
  /-- R104: Combine two predicates by a four-bit truth table. -/
  | plog (o : Ops)
  /-- R105: Copy a register or an immediate into a general register. -/
  | mov (o : Ops)
  /-- R105: Move a zero-extended 28-bit immediate. -/
  | movZ (o : Ops)
  /-- R105: Move a predicate into a general register as 0 or 1. -/
  | movPg (o : Ops)
  /-- R105: Set a predicate to whether a general register is non-zero. -/
  | movGp (o : Ops)
  /-- R105: Select A or Bop by a predicate. -/
  | sel (o : Ops)
  /-- R107: F32 add or subtract, correctly rounded. -/
  | fadd (o : Ops)
  /-- R107: F32 multiply, correctly rounded. -/
  | fmul (o : Ops)
  /-- R107: F32 fused multiply-add with one rounding and four sign variants. -/
  | ffma (o : Ops)
  /-- R107: F32 divide with IEEE special results and flags. -/
  | fdiv (o : Ops)
  /-- R107: F32 square root. -/
  | fsqrt (o : Ops)
  /-- R107: F32 minimum, plain or .num. -/
  | fmin (o : Ops)
  /-- R107: F32 maximum, plain or .num. -/
  | fmax (o : Ops)
  /-- R108: F32 compare into a predicate with NaN rules and flags. -/
  | fcmp (o : Ops)
  /-- R109: Scalar conversion between an operand format and a wide scalar type under a rounding mode. -/
  | fcvt (o : Ops)
  /-- R111: Branch to a plate-relative offset. -/
  | br (o : Ops)
  /-- R111: Jump to the plate and offset held in a register. -/
  | jmp (o : Ops)
  /-- R112: Register jump that also pushes a return address on the link stack. -/
  | jmpCall (o : Ops)
  /-- R112: Push the return address on the link stack and branch. -/
  | call (o : Ops)
  /-- R112: Pop the link stack and branch to the popped address. -/
  | ret (o : Ops)
  /-- R113: Open a hardware loop level with an immediate count. -/
  | loop (o : Ops)
  /-- R113: Open a hardware loop level with a 32-bit immediate count. -/
  | loopX (o : Ops)
  /-- R113: Open a hardware loop level with a count taken from a register. -/
  | loopr (o : Ops)
  /-- R116: Open a hardware loop level with a count taken from a mailbox. -/
  | loopm (o : Ops)
  /-- R117: No operation. -/
  | nop (o : Ops)
  /-- R118: Commit both buffers and free the context. -/
  | exit (o : Ops)
  /-- R119: Commit and queue the same activation again at the tail of its level. -/
  | exits (o : Ops)
  /-- R120: Discard both buffers and end the activation without requeue. -/
  | abort (o : Ops)
  /-- R120: Discard both buffers and queue the activation again unchanged. -/
  | abortRetry (o : Ops)
  /-- R157: Synchronous scalar load from the own frame, own scratchpad or L1. -/
  | ld (o : Ops)
  /-- R158: Scalar store buffered as a frame-write or outbound entry until Commit. -/
  | st (o : Ops)
  /-- R157: Load from the read-only inbox. -/
  | ldi (o : Ops)
  /-- R162: Masked contiguous vector load. -/
  | ldv (o : Ops)
  /-- R163: Masked contiguous vector store buffered until Commit. -/
  | stv (o : Ops)
  /-- R162: Masked strided vector load. -/
  | ldvs (o : Ops)
  /-- R162: Masked indexed vector gather. -/
  | ldvx (o : Ops)
  /-- R163: Masked indexed vector scatter, one outbound entry per line touched. -/
  | stvx (o : Ops)
  /-- R167: Split-phase load of a word or 64-byte block into own-frame words with a completion slot. -/
  | ldfar (o : Ops)
  /-- R170: Prefetch a line into the L1 or the LLC without an entry or a trap. -/
  | pref (o : Ops)
  /-- R171: Perform AcquireInvalidate of the L1 now. -/
  | fenceAcq (o : Ops)
  /-- R171: Mark the outbound buffer so later entries wait until earlier ones are performed. -/
  | fenceRel (o : Ops)
  /-- R171: Acquire and release fence together. -/
  | fenceAcqrel (o : Ops)
  /-- R174: Make a scratchpad window of the own cluster valid as read-only or read-write. -/
  | win (o : Ops)
  /-- R174: Make a scratchpad window of the own cluster invalid. -/
  | winOff (o : Ops)
  /-- R175: Integer atomic read-modify-write at the place of its address. -/
  | amo (o : Ops)
  /-- R175: Floating-point atomic add, minimum or maximum on F32 or BF16. -/
  | amof (o : Ops)
  /-- R175: Compare-and-swap of 32, 64 or 128 bits. -/
  | cas (o : Ops)
  /-- R175: Compare-and-swap of 32 bytes from vector lanes. -/
  | casw (o : Ops)
  /-- R126: Buffered signal that counts down one slot copy at its target. -/
  | sig (o : Ops)
  /-- R126: Buffered indivisible decrement of a slot by n. -/
  | sigr (o : Ops)
  /-- R128: One signal per active lane of a vector of frame references. -/
  | sigv (o : Ops)
  /-- R131: Send own-frame words as a message to a channel. -/
  | send (o : Ops)
  /-- R131: Write own-frame words into a target frame and signal a slot there. -/
  | sendf (o : Ops)
  /-- R136: Request a frame of n granules on the own core with a completion slot. -/
  | falloc (o : Ops)
  /-- R138: Request release of a frame of the own core at Commit. -/
  | ffree (o : Ops)
  /-- R126: Write a whole slot word at the target. -/
  | slotset (o : Ops)
  /-- R126: Write a slot word keeping COUNT and the hardware flags. -/
  | slotsetKeep (o : Ops)
  /-- R126: Raise a slot's COUNT by n without firing. -/
  | slotadd (o : Ops)
  /-- R134: Set the blocked bit of a channel at the target core. -/
  | chblk (o : Ops)
  /-- R134: Clear the blocked bit of a channel and release its held messages. -/
  | chunb (o : Ops)
  /-- R135: Forward the inbox payload as a new channel message. -/
  | route (o : Ops)
  /-- R124: Write the reference of the activation's own frame. -/
  | routeRef (o : Ops)
  /-- R145: Write-once store to a structure-memory word, optionally signalling a slot. -/
  | istw (o : Ops)
  /-- R145: Return a full write-once word to empty. -/
  | istwClr (o : Ops)
  /-- R145: Split-phase read of a write-once word that defers until the word is full. -/
  | isrd (o : Ops)
  /-- R150: Put a 128-byte entry into a routing-log ring position. -/
  | rlogPut (o : Ops)
  /-- R150: Retire a routing-log ring position. -/
  | rlogRet (o : Ops)
  /-- R151: Read the package time into a register. -/
  | time (o : Ops)
  /-- R151: Arm a timer that signals a slot at a given time. -/
  | timeAt (o : Ops)
  /-- R186: Elementwise vector add. -/
  | vadd (o : Ops)
  /-- R186: Elementwise vector subtract. -/
  | vsub (o : Ops)
  /-- R186: Elementwise vector multiply. -/
  | vmul (o : Ops)
  /-- R186: Elementwise vector fused multiply-add. -/
  | vfma (o : Ops)
  /-- R186: Elementwise vector divide. -/
  | vdiv (o : Ops)
  /-- R186: Elementwise vector minimum. -/
  | vmin (o : Ops)
  /-- R186: Elementwise vector maximum. -/
  | vmax (o : Ops)
  /-- R186: Elementwise absolute value. -/
  | vabs (o : Ops)
  /-- R186: Elementwise bitwise and. -/
  | vand (o : Ops)
  /-- R186: Elementwise bitwise or. -/
  | vor (o : Ops)
  /-- R186: Elementwise bitwise exclusive or. -/
  | vxor (o : Ops)
  /-- R186: Elementwise shift left. -/
  | vshl (o : Ops)
  /-- R186: Elementwise logical shift right. -/
  | vshr (o : Ops)
  /-- R186: Elementwise arithmetic shift right. -/
  | vsar (o : Ops)
  /-- R186: Elementwise correctly rounded square root. -/
  | vsqrt (o : Ops)
  /-- R188: Elementwise reciprocal square root approximation. -/
  | vrsq (o : Ops)
  /-- R188: Elementwise exponential approximation, base 2 or e. -/
  | vexp (o : Ops)
  /-- R188: Elementwise logarithm approximation, base 2 or e. -/
  | vlog (o : Ops)
  /-- R188: Elementwise reciprocal approximation. -/
  | vrcp (o : Ops)
  /-- R188: Elementwise hyperbolic tangent approximation. -/
  | vtanh (o : Ops)
  /-- R188: Elementwise logistic sigmoid approximation. -/
  | vsig (o : Ops)
  /-- R189: Piecewise-linear table interpolation from own scratchpad. -/
  | vtbl (o : Ops)
  /-- R191: Vector conversion between packed operand formats and lane types. -/
  | vcvt (o : Ops)
  /-- R193: Elementwise compare into a mask register. -/
  | vcmp (o : Ops)
  /-- R194: Bitwise and of two mask registers. -/
  | mand (o : Ops)
  /-- R194: Bitwise or of two mask registers. -/
  | mor (o : Ops)
  /-- R194: Bitwise exclusive or of two mask registers. -/
  | mxor (o : Ops)
  /-- R194: Bitwise not of a mask register. -/
  | mnot (o : Ops)
  /-- R194: Count set mask elements or find the first one. -/
  | mpop (o : Ops)
  /-- R195: Permute elements from two registers by indices. -/
  | vperm (o : Ops)
  /-- R195: Slide elements up or down by J. -/
  | vslide (o : Ops)
  /-- R195: Broadcast a scalar or one lane to every element. -/
  | vbcst (o : Ops)
  /-- R195: Copy active vector elements. -/
  | vmov (o : Ops)
  /-- R195: Select elements from two registers by mask. -/
  | vsel (o : Ops)
  /-- R196: Reduce active elements into a general register. -/
  | vred (o : Ops)
  /-- R197: Inclusive scan of a vector register. -/
  | vscan (o : Ops)
  /-- R198: Dot product of two vectors into a general register. -/
  | vdot (o : Ops)
  /-- R195: Compress active elements to the low positions. -/
  | vcmpr (o : Ops)
  /-- R195: Expand low elements into the active positions. -/
  | vexpd (o : Ops)
  /-- R200: Offer a row of candidates to one min-heap of capacity k. -/
  | hsift (o : Ops)
  /-- R201: Offer one token to one heap per expert column. -/
  | hsiftC (o : Ops)
  /-- R195: Insert a general register into element J. -/
  | vins (o : Ops)
  /-- R195: Extract element J into a general register. -/
  | vget (o : Ops)
  /-- R195: Write an index sequence, or a prefix mask with .m. -/
  | vidx (o : Ops)
  /-- R222: Check and set the cooperative matrix geometry GEOM. -/
  | mgeo (o : Ops)
  /-- R217: Matrix multiply-accumulate of A and B panels into an accumulator slot. -/
  | mma (o : Ops)
  /-- R223: Member command of a cooperative group matrix multiply. -/
  | mmag (o : Ops)
  /-- R226: Set every element of an accumulator slot to +0. -/
  | mzero (o : Ops)
  /-- R227: Load an accumulator slot from a scratchpad or stream panel. -/
  | mldc (o : Ops)
  /-- R229: Store an accumulator slot converted into a format to memory. -/
  | mstc (o : Ops)
  /-- R231: Copy an accumulator slot into the cluster's collective queue. -/
  | mque (o : Ops)
  /-- R233: Release an accumulator slot to FREE with zero contents. -/
  | mrel (o : Ops)
  /-- R241: Configure an accumulator slot as a state bank from a descriptor. -/
  | sbcfg (o : Ops)
  /-- R242: Send an event to a state bank's event queue. -/
  | sbevt (o : Ops)
  /-- R244: Advance a state bank over n time steps. -/
  | sbstep (o : Ops)
  /-- R248: Read state-bank or slot elements out to an endpoint. -/
  | sbread (o : Ops)
  /-- R255: Engine command for a same-shape copy. -/
  | copy (o : Ops)
  /-- R255: Engine command for a two-shape copy. -/
  | copys (o : Ops)
  /-- R255: Engine command for a multicast copy to stream branches. -/
  | copym (o : Ops)
  /-- R255: Engine command built from seven own-frame words. -/
  | ckick (o : Ops)
  /-- R263: Contribute a value to a combining-network group operation. -/
  | ccon (o : Ops)
  /-- R265: Read, and without .peek remove, the oldest result of a group. -/
  | cext (o : Ops)
  /-- R266: Bulk reduction through the collective hart. -/
  | cred (o : Ops)
  /-- R267: Arm completion events for the next CCON or CRED of a group. -/
  | cevt (o : Ops)
  /-- R269: Read the current view number. -/
  | cview (o : Ops)
  /-- R269: Read 64 bits of the member bitmap. -/
  | cviewBm (o : Ops)
  /-- R269: Arm a slot signal for the next view installation. -/
  | cviewArm (o : Ops)
  /-- R270: Request a graft of this package into the view. -/
  | cjoin (o : Ops)
  /-- R272: Raise a trap with a given cause. -/
  | trap (o : Ops)
  /-- R273: Commit the handler and requeue the trapped activation. -/
  | tret (o : Ops)
  /-- R273: Commit the handler and raise the trap's fault record. -/
  | tretDrop (o : Ops)
  /-- R274: Read a special register. -/
  | mfs (o : Ops)
  /-- R274: Write a special register, at once or at Commit. -/
  | mts (o : Ops)
  /-- R275: Write back dirty LLC lines of a virtual range. -/
  | flushWb (o : Ops)
  /-- R275: Write back and invalidate a virtual range in LLC and L1s. -/
  | flushInv (o : Ops)
  /-- R276: Remove cached translations of one page package-wide. -/
  | tlbinvPage (o : Ops)
  /-- R276: Remove every cached translation. -/
  | tlbinvAll (o : Ops)
  /-- R277: Send the end-of-round token naming the next active plate. -/
  | round (o : Ops)
  /-- R277: Count packets of a generation still in the package. -/
  | probe (o : Ops)
  /-- R278: Set or clear one of the core's watchpoints. -/
  | watch (o : Ops)
  /-- R278: Arm a die watch unit on a physical range. -/
  | watchUnit (o : Ops)
  /-- R272: Raise a breakpoint trap. -/
  | bkpt (o : Ops)
  /-- R279: Send a service request to the instance's service channel. -/
  | ecall (o : Ops)
  /-- R280: Schedule a gang stop of a cluster set at a time stamp. -/
  | gstop (o : Ops)
  /-- R280: Schedule resumption of a stopped cluster set. -/
  | gstopGo (o : Ops)
  /-- R281: Move the package to another operating point. -/
  | opstep (o : Ops)
  /-- R33: An outbound entry issues from the core once a lane place or release condition allows. -/
  | outboundEntryIssue (core ctx : Nat)
  /-- R347: The core dispatches the highest-priority dispatchable ready entry onto a context with an acquire. -/
  | activationDispatch (core : Nat)
  /-- R348: A ready entry that waited STARVW cycles moves to the next level. -/
  | starvationLift (core : Nat)
  /-- R115: An activation that runs WDOG core cycles traps with cause 0x0F. -/
  | watchdog (core ctx : Nat)
  /-- R38: A signal arrives at a frame port and performs SignalSlot, firing the slot at zero. -/
  | slotSignal (p : Pkt)
  /-- R126: A SIGR arrives and performs SignalSlotN. -/
  | sigrArrival (p : Pkt)
  /-- R126: A SLOTADD arrives and performs AddSlot. -/
  | slotaddArrival (p : Pkt)
  /-- R126: A SLOTSET arrives and writes the chosen slot word. -/
  | slotsetArrival (p : Pkt)
  /-- R132: A SENDF writes payload words and signals a slot indivisibly. -/
  | sendfArrival (p : Pkt)
  /-- R133: A channel message is queued, held or sent to the galley by its channel state. -/
  | channelMessage (p : Pkt)
  /-- R134: A CHBLK sets BLK of the target task entry. -/
  | chblkArrival (p : Pkt)
  /-- R134: A CHUNB clears BLK and queues held messages in arrival order. -/
  | chunbArrival (p : Pkt)
  /-- R137: A FALLOC request is served resident, spilled or refused, with its completion. -/
  | fallocServe (p : Pkt)
  /-- R22: A frame with FREQ set, PIN zero and no RP is released. -/
  | frameRelease (core fid : Nat)
  /-- R23: A spilled frame with RLD set reloads once contiguous granules are free and its activation is queued. -/
  | frameReload (core fid : Nat)
  /-- R146: An ISTW arrives at a write-once word, fills it and answers deferred readers. -/
  | istwArrival (p : Pkt)
  /-- R146: An ISTW.CLR arrives and empties a full word. -/
  | istwClrArrival (p : Pkt)
  /-- R146: An ISRD arrives and is answered, deferred or refused. -/
  | isrdArrival (p : Pkt)
  /-- R147: A refused ISRD is retried 256 core cycles later, failing after the 17th refusal. -/
  | isrdRetry (p : Pkt)
  /-- R150: A put at the descriptor's slice writes an entry or waits for its position. -/
  | rlogPutArrival (p : Pkt)
  /-- R150: A retire at the slice clears an occupancy bit and signals. -/
  | rlogRetireArrival (p : Pkt)
  /-- R150: A waiting put completes once its position has been retired. -/
  | rlogWaitingPut (die ix : Nat)
  /-- R151: An armed timer signals its slot when TIME reaches its value. -/
  | timerFire (core ix : Nat)
  /-- R158: An outbound store is performed at its bank, slice, base die or portal. -/
  | storePerform (p : Pkt)
  /-- R167: A split-phase read is served at its target and its response sent. -/
  | ldfarRead (p : Pkt)
  /-- R169: A read response writes own-frame words and signals the slot, or writes the error word. -/
  | ldfarCompletion (p : Pkt)
  /-- R176: An atomic runs indivisibly at its bank, base die, slice or portal. -/
  | atomicAtTarget (p : Pkt)
  /-- R178: The old value is written to the own frame and the slot signalled. -/
  | atomicCompletion (p : Pkt)
  /-- R165: Line fills arrive and, at the last one, the aborted activation is queued. -/
  | l1Fill (core line : Nat)
  /-- R413: A page-table walk completes and fills the TLB or hands its fault to waiting accesses. -/
  | tlbWalk (cl page : Nat)
  /-- R209: A matrix command enters its region queue and is accepted or refused by the slot state. -/
  | matrixCommandAccept (core : Nat)
  /-- R212: A queued matrix command starts once earlier commands on its slot have completed. -/
  | matrixCommandStart (core ix : Nat)
  /-- R207: A matrix command completes, updates slot state and signals its completion slot. -/
  | matrixCommandComplete (core ix : Nat)
  /-- R225: A group command not assembled within 2^20 arithmetic cycles fails at every member. -/
  | groupCommandTimeout (core ix : Nat)
  /-- R399: A quarantined column or lane is remapped to a spare at the next boundary. -/
  | quarantineRemap (cl u : Nat)
  /-- R242: An event arrives at a cluster's event queue and is accepted, discarded or refused. -/
  | eventQueueArrival (p : Pkt)
  /-- R243: An event refused for a full queue is retried 256 core cycles later, given up after 16 retries. -/
  | eventRetry (p : Pkt)
  /-- R244: One state-bank step leaks, integrates, compares, resets and emits. -/
  | sbStep (core ix : Nat)
  /-- R256: An engine command enters its hart's queue. -/
  | engineKickArrival (core ix : Nat)
  /-- R257: A hart checks a command, reads its shapes and runs its microcode. -/
  | engineCommandStart (cl h : Nat)
  /-- R259: A hart command completes with a store-release signal or fails with the mailbox error word. -/
  | engineCommandComplete (cl h : Nat)
  /-- R261: A hart command that runs WDOG core cycles fails with cause 0x0F. -/
  | engineWatchdog (cl h : Nat)
  /-- R375: A contribution or partial arrives at a site, which folds and passes on when complete. -/
  | combiningContribution (p : Pkt)
  /-- R265: A result reaches a core's result queue and fires CEVT events or wakes a CEXT. -/
  | combiningResult (p : Pkt)
  /-- R370: Stream bytes arrive at a consumer under credit flow control. -/
  | streamData (gen port branch : Nat)
  /-- R368: Every WINDOW core cycles an injection bucket gains FILL flits. -/
  | tokenBucketRefill (cl cls : Nat)
  /-- R377: 800 microseconds without a heartbeat makes a member suspect its neighbour. -/
  | heartbeatTimeout (pkg : Nat)
  /-- R378: A child that has not answered within 5 ms is reported as a suspect. -/
  | childReplyTimeout (pkg : Nat)
  /-- R333: An input token is delivered as a channel message in SEQ order. -/
  | inputToken (port : Nat)
  /-- R332: A ready launch with free clusters is checked, loaded and started. -/
  | launchStart (port : Nat)
  /-- R334: A quiescent instance writes its completion record and is unloaded. -/
  | instanceUnload (gen : Nat)
  /-- R337: A frozen instance not quiescent after 10 ms is reclaimed. -/
  | reclaim (gen : Nat)
  /-- R339: The loader probes a retiring generation every 10 microseconds until it is free. -/
  | generationProbe (gen : Nat)
  /-- R344: A ROUND token passes a core and swaps plates by the schedule. -/
  | roundToken (p : Pkt)
  /-- R343: A plate prefetch finishes and the plate becomes prefetched or active. -/
  | platePrefetch (core plate : Nat)
  /-- R395: A fault record arrives at a site and is held or merged. -/
  | faultRecordArrival (cl : Nat) (r : FaultRec)
  /-- R395: A held record is passed to the parent 64 core cycles after arrival. -/
  | siteRecordForward (cl : Nat)
  /-- R395: 4,096 core cycles after the first record the loader issues the error token. -/
  | errorTokenIssue (gen : Nat)
  /-- R351: The error token reaches a node and cancels its slot word or channel. -/
  | errorToken (p : Pkt)
  /-- R303: A guard-log entry is raised as a fault record at the earliest trigger. -/
  | guardLogRaise (cl : Nat)
  /-- R403: At the stop stamp a partition stops dispatch, aborts running work and holds messages. -/
  | gangStop (ix : Nat)
  /-- R405: When the partition has drained the stop completes and GSTOP signals. -/
  | stopComplete (ix : Nat)
  /-- R406: At the resume stamp held messages are released and dispatch resumes. -/
  | gangResume (ix : Nat)
  /-- R275: The write-back hardware finishes the range, or stops at a faulting page, and signals the FLUSH completion as a release. -/
  | flushCompletion (ix : Nat)
  /-- R276: After the translations have been removed package-wide and the accesses that used them are performed, the TLBINV completion signals its slot within 600 core cycles. -/
  | tlbinvCompletion (ix : Nat)
  /-- R51: A filler word at offset 28 modulo 32 is skipped and fetch continues at the next block. -/
  | filler
  /-- R399: Every 2^24 arithmetic cycles each non-zero suspect score falls by one. -/
  | suspectScoreDecay
  /-- R340: A cross-package packet is checked for view and forme and has its generation rewritten. -/
  | stationPacketArrival
  /-- R377: Each member sends a heartbeat every 100 microseconds to its ring neighbours. -/
  | heartbeat
  /-- R377: Loss of signal on every link to a neighbour makes it suspect at once. -/
  | lossOfSignal
  /-- R378: A SUSPECT message reaches the proposer. -/
  | suspect
  /-- R378: After 2 ms of collection the proposer sends PROPOSE. -/
  | proposerCollectionEnd
  /-- R378: A member receives PROPOSE and answers ACCEPT or REJECT. -/
  | propose
  /-- R378: ACCEPT or REJECT replies fold up the rank tree to the proposer. -/
  | accept
  /-- R378: A member receives COMMIT with the new view and installation time. -/
  | commitView
  /-- R378: A member without COMMIT 20 ms after replying suspects the proposer. -/
  | commitWaitTimeout
  /-- R379: A member installs the new view at time T, failing pending requests to departed packages. -/
  | viewInstall
  /-- R381: A survivor places a final result resent by the holder. -/
  | resentResult
  /-- R384: A graft request reaches the proposer and is refused or added to a view change. -/
  | graftRequest
  /-- R327: A launch token arrives at an ingress port and is buffered. -/
  | launchToken
  /-- R353: A placement token names a placement record for the expert placer. -/
  | placementToken
  /-- R354: Once the pool is free, the placer divides clusters among experts and loads regions. -/
  | placement
  /-- R316: Scrub finds a correctable error and adds the row to the prune map. -/
  | scrubError
  /-- R320: An operating-point step is taken up, announced and fit-checked. -/
  | opstepArrival
  /-- R321: Scratchpad slots, frames, L1 and LLC lines leave failing rows. -/
  | evacuation
  /-- R320: At the agreed time every clock changes to the clocks of the new point. -/
  | opSwitch
  /-- R320: The voltage reaches the target and OPNOW is set before the completion signals. -/
  | voltageRampDone
  /-- R407: A privileged access reads or writes a stopped cluster's state window. -/
  | stateWindowAccess
  /-- R311: A write to a format-window register reads and checks its descriptor. -/
  | fmtwinWrite
  /-- R7: A write to a register with no behaviour of its own sets its writable fields. -/
  | registerWrite
  /-- R416: An inbound posted write is performed in arrival order. -/
  | hostPostedWrite
  /-- R416: An inbound read request is performed in arrival order. -/
  | hostRead
  /-- R415: An inbound AtomicOp is performed at the home slice. -/
  | hostAtomicop
  /-- R428: Every 10 microseconds the power manager samples power and gates hot tiles. -/
  | powerSample
  /-- R429: A die at 110 C stops every partition and raises a thermal event. -/
  | thermalStop
  /-- R429: A die at 120 C removes power. -/
  | thermalPowerOff
  /-- R426: Cold reset runs bring-up stages 1 to 6. -/
  | coldReset
  /-- R427: Function Level Reset performs package reset and stages 5 and 6. -/
  | functionLevelReset
  /-- R427: A hot reset performs package reset and stages 5 and 6. -/
  | hotReset
  /-- R431: I3C command returning the identity public key and certificate chain. -/
  | getId
  /-- R431: I3C command returning a measurement register. -/
  | getMeas
  /-- R423: I3C command extending MR4 to MR7 with a digest. -/
  | extend
  /-- R425: I3C command returning a signed attestation report. -/
  | attest
  /-- R424: I3C command writing a forme-key slot until the slots lock. -/
  | setFkey
  /-- R431: I3C command setting whether forme signatures are required. -/
  | setPolicy
  /-- R431: I3C command returning telemetry and DEVSTAT. -/
  | getTelem
  /-- R428: I3C command setting the package power cap. -/
  | setPcap
  /-- R429: I3C command clearing a thermal stop when every die is below 95 C. -/
  | clrTstop
  /-- R431: I3C command requesting a cold or package reset. -/
  | reset
  /-- R388: A scale-out station receives an Ecevo beat that fails its CRC and resends it from the replay buffer. -/
  | beatCrcFailure
  /-- R389: A UALink peer fails, and its outstanding requests complete at the portal with cause 0x10. -/
  | ualinkPeerFailure
  /-- R431: The Hitripen controller takes a dynamic I3C address through the ENTDAA procedure. -/
  | entdaa
  /-- R426: A bring-up stage completes, DEVSTAT.STAGE advances, and configuration space stops answering with retry status after stage 2. -/
  | bringUpStage
  deriving DecidableEq, Repr

end Sys2Proof
end

