-- ==== Sys2Proof/WellFormed.lean ====
section
/-! DEFINITION. The opcode map (R56), the formats of each opcode's row (R48), and the well-formed
instructions: those whose word passes steps 4 and 6 to 9 of R60. -/
namespace Sys2Proof

open Machine

/-- The six formats (R47). -/
inductive Kind where
  | reg | imm | imx | xtd | wide | desc
  deriving DecidableEq, Repr

/-- The format of the fields. -/
def Form.kind : Form → Kind
  | .reg _ _ => .reg
  | .imm _ => .imm
  | .imx _ => .imx
  | .xtd _ _ _ => .xtd
  | .wide _ _ _ => .wide
  | .desc _ _ _ => .desc

/-- The assigned opcodes (R56). -/
def assigned (op : Nat) : Bool :=
  (op ≤ 0x2A) || (0x30 ≤ op && op ≤ 0x3B) || (0x50 ≤ op && op ≤ 0x53) || (0x60 ≤ op && op ≤ 0x6F) || (0x80 ≤ op && op ≤ 0xAB)
    || (0xC0 ≤ op && op ≤ 0xCB) || (0xE0 ≤ op && op ≤ 0xE9) || (0xF0 ≤ op && op ≤ 0xFC)

/-- The format that the opcode's row of R48 gives at length code `len`, with `f6` = FN[6] choosing between REG and
IMM where the row allows both. -/
def kindAt (op len f6 : Nat) : Option Kind :=
  -- the 64-bit forms of the row
  let both := op ≤ 0x16 || (0x24 ≤ op && op ≤ 0x26) || (0x30 ≤ op && op ≤ 0x39)
    || (0x60 ≤ op && op ≤ 0x6F) || 0xF0 ≤ op
  match len with
  | 0 =>
    if op = 0x20 || op = 0x22 then some .imm
    else if op = 0x3B then none
    else if both then (if f6 = 1 then some .imm else some .reg)
    else some .reg
  | 1 =>
    if both && f6 = 1 then none
    else if op ≤ 0x16 || (0x30 ≤ op && op ≤ 0x39) then some .imx
    else if (0x24 ≤ op && op ≤ 0x27) || (0x50 ≤ op && op ≤ 0xAB) then some .xtd
    else none
  | 2 =>
    if both && f6 = 1 then none
    else if op ≤ 0x1F then some .wide
    else if op = 0x27 || op = 0x3B || (0x60 ≤ op && op ≤ 0xEF) then some .desc
    else none
  | _ => none

/-- The instruction of an opcode with its fields; FN picks the row of the table where one opcode has several. -/
def ofCode (op : Nat) (o : Ops) : Option Instr :=
  match op with
  | 0x00 => some (.add o)
  | 0x01 => some (.sub o)
  | 0x02 => some (.mul o)
  | 0x03 => some (.mulh o)
  | 0x04 => some (.div o)
  | 0x05 => some (.rem o)
  | 0x06 => some (.and o)
  | 0x07 => some (.or o)
  | 0x08 => some (.xor o)
  | 0x09 => some (.shl o)
  | 0x0A => some (.shr o)
  | 0x0B => some (.sar o)
  | 0x0C => some (.min o)
  | 0x0D => some (.max o)
  | 0x0E => some (.clz o)
  | 0x0F => some (.popc o)
  | 0x10 => some (.ext o)
  | 0x11 => some (.dep o)
  | 0x12 => some (.lea o)
  | 0x13 => some (.pcmp o)
  | 0x14 => some (.plog o)
  | 0x15 => if o.fn == 2 then some (.movPg o) else if o.fn == 3 then some (.movGp o) else if o.fn == 65 then some (.movZ o) else some (.mov o)
  | 0x16 => some (.sel o)
  | 0x17 => some (.fadd o)
  | 0x18 => some (.fmul o)
  | 0x19 => some (.ffma o)
  | 0x1A => some (.fdiv o)
  | 0x1B => some (.fsqrt o)
  | 0x1C => some (.fmin o)
  | 0x1D => some (.fmax o)
  | 0x1E => some (.fcmp o)
  | 0x1F => some (.fcvt o)
  | 0x20 => some (.br o)
  | 0x21 => if o.fn == 1 then some (.jmpCall o) else some (.jmp o)
  | 0x22 => some (.call o)
  | 0x23 => some (.ret o)
  | 0x24 => if o.fn == 64 then some (.loop o) else some (.loopX o)
  | 0x25 => some (.loopr o)
  | 0x26 => some (.loopm o)
  | 0x27 => some (.nop o)
  | 0x28 => some (.exit o)
  | 0x29 => some (.exits o)
  | 0x2A => if o.fn == 1 then some (.abortRetry o) else some (.abort o)
  | 0x30 => some (.ld o)
  | 0x31 => some (.st o)
  | 0x32 => some (.ldi o)
  | 0x33 => some (.ldv o)
  | 0x34 => some (.stv o)
  | 0x35 => some (.ldvs o)
  | 0x36 => some (.ldvx o)
  | 0x37 => some (.stvx o)
  | 0x38 => some (.ldfar o)
  | 0x39 => some (.pref o)
  | 0x3A => if o.fn == 1 then some (.fenceRel o) else if o.fn == 2 then some (.fenceAcqrel o) else some (.fenceAcq o)
  | 0x3B => if o.fn == 2 then some (.winOff o) else some (.win o)
  | 0x50 => some (.amo o)
  | 0x51 => some (.amof o)
  | 0x52 => some (.cas o)
  | 0x53 => some (.casw o)
  | 0x60 => some (.sig o)
  | 0x61 => some (.sigr o)
  | 0x62 => some (.sigv o)
  | 0x63 => some (.send o)
  | 0x64 => some (.sendf o)
  | 0x65 => some (.falloc o)
  | 0x66 => some (.ffree o)
  | 0x67 => if o.fn == 1 then some (.slotsetKeep o) else some (.slotset o)
  | 0x68 => some (.slotadd o)
  | 0x69 => some (.chblk o)
  | 0x6A => some (.chunb o)
  | 0x6B => if o.fn == 1 then some (.routeRef o) else some (.route o)
  | 0x6C => if o.fn == 1 then some (.istwClr o) else some (.istw o)
  | 0x6D => some (.isrd o)
  | 0x6E => if o.fn == 1 then some (.rlogRet o) else some (.rlogPut o)
  | 0x6F => if o.fn == 1 then some (.timeAt o) else some (.time o)
  | 0x80 => some (.vadd o)
  | 0x81 => some (.vsub o)
  | 0x82 => some (.vmul o)
  | 0x83 => some (.vfma o)
  | 0x84 => some (.vdiv o)
  | 0x85 => some (.vmin o)
  | 0x86 => some (.vmax o)
  | 0x87 => some (.vabs o)
  | 0x88 => some (.vand o)
  | 0x89 => some (.vor o)
  | 0x8A => some (.vxor o)
  | 0x8B => some (.vshl o)
  | 0x8C => some (.vshr o)
  | 0x8D => some (.vsar o)
  | 0x8E => some (.vsqrt o)
  | 0x8F => some (.vrsq o)
  | 0x90 => some (.vexp o)
  | 0x91 => some (.vlog o)
  | 0x92 => some (.vrcp o)
  | 0x93 => some (.vtanh o)
  | 0x94 => some (.vsig o)
  | 0x95 => some (.vtbl o)
  | 0x96 => some (.vcvt o)
  | 0x97 => some (.vcmp o)
  | 0x98 => some (.mand o)
  | 0x99 => some (.mor o)
  | 0x9A => some (.mxor o)
  | 0x9B => some (.mnot o)
  | 0x9C => some (.mpop o)
  | 0x9D => some (.vperm o)
  | 0x9E => some (.vslide o)
  | 0x9F => some (.vbcst o)
  | 0xA0 => some (.vmov o)
  | 0xA1 => some (.vsel o)
  | 0xA2 => some (.vred o)
  | 0xA3 => some (.vscan o)
  | 0xA4 => some (.vdot o)
  | 0xA5 => some (.vcmpr o)
  | 0xA6 => some (.vexpd o)
  | 0xA7 => some (.hsift o)
  | 0xA8 => some (.hsiftC o)
  | 0xA9 => some (.vins o)
  | 0xAA => some (.vget o)
  | 0xAB => some (.vidx o)
  | 0xC0 => some (.mgeo o)
  | 0xC1 => some (.mma o)
  | 0xC2 => some (.mmag o)
  | 0xC3 => some (.mzero o)
  | 0xC4 => some (.mldc o)
  | 0xC5 => some (.mstc o)
  | 0xC6 => some (.mque o)
  | 0xC7 => some (.mrel o)
  | 0xC8 => some (.sbcfg o)
  | 0xC9 => some (.sbevt o)
  | 0xCA => some (.sbstep o)
  | 0xCB => some (.sbread o)
  | 0xE0 => some (.copy o)
  | 0xE1 => some (.copys o)
  | 0xE2 => some (.copym o)
  | 0xE3 => some (.ckick o)
  | 0xE4 => some (.ccon o)
  | 0xE5 => some (.cext o)
  | 0xE6 => some (.cred o)
  | 0xE7 => some (.cevt o)
  | 0xE8 => if o.fn == 1 then some (.cviewBm o) else if o.fn == 2 then some (.cviewArm o) else some (.cview o)
  | 0xE9 => some (.cjoin o)
  | 0xF0 => some (.trap o)
  | 0xF1 => if o.fn == 1 then some (.tretDrop o) else some (.tret o)
  | 0xF2 => some (.mfs o)
  | 0xF3 => some (.mts o)
  | 0xF4 => if o.fn == 1 then some (.flushInv o) else some (.flushWb o)
  | 0xF5 => if o.fn == 1 then some (.tlbinvAll o) else some (.tlbinvPage o)
  | 0xF6 => some (.round o)
  | 0xF7 => some (.probe o)
  | 0xF8 => if o.fn.getLsbD 2 then some (.watchUnit o) else some (.watch o)
  | 0xF9 => some (.bkpt o)
  | 0xFA => some (.ecall o)
  | 0xFB => if o.fn == 1 then some (.gstopGo o) else some (.gstop o)
  | 0xFC => some (.opstep o)
  | _ => none

/-- The opcode and the fields of an instruction; `none` for the filler and for the steps of the hardware. -/
def codeOf : Instr → Option (Nat × Ops)
  | .add o => some (0x00, o)
  | .sub o => some (0x01, o)
  | .mul o => some (0x02, o)
  | .mulh o => some (0x03, o)
  | .div o => some (0x04, o)
  | .rem o => some (0x05, o)
  | .and o => some (0x06, o)
  | .or o => some (0x07, o)
  | .xor o => some (0x08, o)
  | .shl o => some (0x09, o)
  | .shr o => some (0x0A, o)
  | .sar o => some (0x0B, o)
  | .min o => some (0x0C, o)
  | .max o => some (0x0D, o)
  | .clz o => some (0x0E, o)
  | .popc o => some (0x0F, o)
  | .ext o => some (0x10, o)
  | .dep o => some (0x11, o)
  | .lea o => some (0x12, o)
  | .pcmp o => some (0x13, o)
  | .plog o => some (0x14, o)
  | .movPg o => some (0x15, o)
  | .movGp o => some (0x15, o)
  | .movZ o => some (0x15, o)
  | .mov o => some (0x15, o)
  | .sel o => some (0x16, o)
  | .fadd o => some (0x17, o)
  | .fmul o => some (0x18, o)
  | .ffma o => some (0x19, o)
  | .fdiv o => some (0x1A, o)
  | .fsqrt o => some (0x1B, o)
  | .fmin o => some (0x1C, o)
  | .fmax o => some (0x1D, o)
  | .fcmp o => some (0x1E, o)
  | .fcvt o => some (0x1F, o)
  | .br o => some (0x20, o)
  | .jmpCall o => some (0x21, o)
  | .jmp o => some (0x21, o)
  | .call o => some (0x22, o)
  | .ret o => some (0x23, o)
  | .loop o => some (0x24, o)
  | .loopX o => some (0x24, o)
  | .loopr o => some (0x25, o)
  | .loopm o => some (0x26, o)
  | .nop o => some (0x27, o)
  | .exit o => some (0x28, o)
  | .exits o => some (0x29, o)
  | .abortRetry o => some (0x2A, o)
  | .abort o => some (0x2A, o)
  | .ld o => some (0x30, o)
  | .st o => some (0x31, o)
  | .ldi o => some (0x32, o)
  | .ldv o => some (0x33, o)
  | .stv o => some (0x34, o)
  | .ldvs o => some (0x35, o)
  | .ldvx o => some (0x36, o)
  | .stvx o => some (0x37, o)
  | .ldfar o => some (0x38, o)
  | .pref o => some (0x39, o)
  | .fenceRel o => some (0x3A, o)
  | .fenceAcqrel o => some (0x3A, o)
  | .fenceAcq o => some (0x3A, o)
  | .winOff o => some (0x3B, o)
  | .win o => some (0x3B, o)
  | .amo o => some (0x50, o)
  | .amof o => some (0x51, o)
  | .cas o => some (0x52, o)
  | .casw o => some (0x53, o)
  | .sig o => some (0x60, o)
  | .sigr o => some (0x61, o)
  | .sigv o => some (0x62, o)
  | .send o => some (0x63, o)
  | .sendf o => some (0x64, o)
  | .falloc o => some (0x65, o)
  | .ffree o => some (0x66, o)
  | .slotsetKeep o => some (0x67, o)
  | .slotset o => some (0x67, o)
  | .slotadd o => some (0x68, o)
  | .chblk o => some (0x69, o)
  | .chunb o => some (0x6A, o)
  | .routeRef o => some (0x6B, o)
  | .route o => some (0x6B, o)
  | .istwClr o => some (0x6C, o)
  | .istw o => some (0x6C, o)
  | .isrd o => some (0x6D, o)
  | .rlogRet o => some (0x6E, o)
  | .rlogPut o => some (0x6E, o)
  | .timeAt o => some (0x6F, o)
  | .time o => some (0x6F, o)
  | .vadd o => some (0x80, o)
  | .vsub o => some (0x81, o)
  | .vmul o => some (0x82, o)
  | .vfma o => some (0x83, o)
  | .vdiv o => some (0x84, o)
  | .vmin o => some (0x85, o)
  | .vmax o => some (0x86, o)
  | .vabs o => some (0x87, o)
  | .vand o => some (0x88, o)
  | .vor o => some (0x89, o)
  | .vxor o => some (0x8A, o)
  | .vshl o => some (0x8B, o)
  | .vshr o => some (0x8C, o)
  | .vsar o => some (0x8D, o)
  | .vsqrt o => some (0x8E, o)
  | .vrsq o => some (0x8F, o)
  | .vexp o => some (0x90, o)
  | .vlog o => some (0x91, o)
  | .vrcp o => some (0x92, o)
  | .vtanh o => some (0x93, o)
  | .vsig o => some (0x94, o)
  | .vtbl o => some (0x95, o)
  | .vcvt o => some (0x96, o)
  | .vcmp o => some (0x97, o)
  | .mand o => some (0x98, o)
  | .mor o => some (0x99, o)
  | .mxor o => some (0x9A, o)
  | .mnot o => some (0x9B, o)
  | .mpop o => some (0x9C, o)
  | .vperm o => some (0x9D, o)
  | .vslide o => some (0x9E, o)
  | .vbcst o => some (0x9F, o)
  | .vmov o => some (0xA0, o)
  | .vsel o => some (0xA1, o)
  | .vred o => some (0xA2, o)
  | .vscan o => some (0xA3, o)
  | .vdot o => some (0xA4, o)
  | .vcmpr o => some (0xA5, o)
  | .vexpd o => some (0xA6, o)
  | .hsift o => some (0xA7, o)
  | .hsiftC o => some (0xA8, o)
  | .vins o => some (0xA9, o)
  | .vget o => some (0xAA, o)
  | .vidx o => some (0xAB, o)
  | .mgeo o => some (0xC0, o)
  | .mma o => some (0xC1, o)
  | .mmag o => some (0xC2, o)
  | .mzero o => some (0xC3, o)
  | .mldc o => some (0xC4, o)
  | .mstc o => some (0xC5, o)
  | .mque o => some (0xC6, o)
  | .mrel o => some (0xC7, o)
  | .sbcfg o => some (0xC8, o)
  | .sbevt o => some (0xC9, o)
  | .sbstep o => some (0xCA, o)
  | .sbread o => some (0xCB, o)
  | .copy o => some (0xE0, o)
  | .copys o => some (0xE1, o)
  | .copym o => some (0xE2, o)
  | .ckick o => some (0xE3, o)
  | .ccon o => some (0xE4, o)
  | .cext o => some (0xE5, o)
  | .cred o => some (0xE6, o)
  | .cevt o => some (0xE7, o)
  | .cviewBm o => some (0xE8, o)
  | .cviewArm o => some (0xE8, o)
  | .cview o => some (0xE8, o)
  | .cjoin o => some (0xE9, o)
  | .trap o => some (0xF0, o)
  | .tretDrop o => some (0xF1, o)
  | .tret o => some (0xF1, o)
  | .mfs o => some (0xF2, o)
  | .mts o => some (0xF3, o)
  | .flushInv o => some (0xF4, o)
  | .flushWb o => some (0xF4, o)
  | .tlbinvAll o => some (0xF5, o)
  | .tlbinvPage o => some (0xF5, o)
  | .round o => some (0xF6, o)
  | .probe o => some (0xF7, o)
  | .watchUnit o => some (0xF8, o)
  | .watch o => some (0xF8, o)
  | .bkpt o => some (0xF9, o)
  | .ecall o => some (0xFA, o)
  | .gstopGo o => some (0xFB, o)
  | .gstop o => some (0xFB, o)
  | .opstep o => some (0xFC, o)
  | .filler => none
  | .outboundEntryIssue _ _ => none
  | .activationDispatch _ => none
  | .starvationLift _ => none
  | .watchdog _ _ => none
  | .slotSignal _ => none
  | .sigrArrival _ => none
  | .slotaddArrival _ => none
  | .slotsetArrival _ => none
  | .sendfArrival _ => none
  | .channelMessage _ => none
  | .chblkArrival _ => none
  | .chunbArrival _ => none
  | .fallocServe _ => none
  | .frameRelease _ _ => none
  | .frameReload _ _ => none
  | .istwArrival _ => none
  | .istwClrArrival _ => none
  | .isrdArrival _ => none
  | .isrdRetry _ => none
  | .rlogPutArrival _ => none
  | .rlogRetireArrival _ => none
  | .rlogWaitingPut _ _ => none
  | .timerFire _ _ => none
  | .storePerform _ => none
  | .ldfarRead _ => none
  | .ldfarCompletion _ => none
  | .atomicAtTarget _ => none
  | .atomicCompletion _ => none
  | .l1Fill _ _ => none
  | .tlbWalk _ _ => none
  | .matrixCommandAccept _ => none
  | .matrixCommandStart _ _ => none
  | .matrixCommandComplete _ _ => none
  | .groupCommandTimeout _ _ => none
  | .suspectScoreDecay => none
  | .quarantineRemap _ _ => none
  | .eventQueueArrival _ => none
  | .eventRetry _ => none
  | .sbStep _ _ => none
  | .engineKickArrival _ _ => none
  | .engineCommandStart _ _ => none
  | .engineCommandComplete _ _ => none
  | .engineWatchdog _ _ => none
  | .combiningContribution _ => none
  | .combiningResult _ => none
  | .streamData _ _ _ => none
  | .tokenBucketRefill _ _ => none
  | .stationPacketArrival => none
  | .heartbeat => none
  | .heartbeatTimeout _ => none
  | .lossOfSignal => none
  | .suspect => none
  | .proposerCollectionEnd => none
  | .propose => none
  | .accept => none
  | .childReplyTimeout _ => none
  | .commitView => none
  | .commitWaitTimeout => none
  | .viewInstall => none
  | .resentResult => none
  | .graftRequest => none
  | .launchToken => none
  | .inputToken _ => none
  | .placementToken => none
  | .launchStart _ => none
  | .placement => none
  | .instanceUnload _ => none
  | .reclaim _ => none
  | .generationProbe _ => none
  | .roundToken _ => none
  | .platePrefetch _ _ => none
  | .faultRecordArrival _ _ => none
  | .siteRecordForward _ => none
  | .errorTokenIssue _ => none
  | .errorToken _ => none
  | .guardLogRaise _ => none
  | .scrubError => none
  | .opstepArrival => none
  | .evacuation => none
  | .opSwitch => none
  | .voltageRampDone => none
  | .gangStop _ => none
  | .stopComplete _ => none
  | .gangResume _ => none
  | .stateWindowAccess => none
  | .fmtwinWrite => none
  | .registerWrite => none
  | .hostPostedWrite => none
  | .hostRead => none
  | .hostAtomicop => none
  | .powerSample => none
  | .thermalStop => none
  | .thermalPowerOff => none
  | .coldReset => none
  | .functionLevelReset => none
  | .hotReset => none
  | .getId => none
  | .getMeas => none
  | .extend => none
  | .attest => none
  | .setFkey => none
  | .setPolicy => none
  | .getTelem => none
  | .setPcap => none
  | .clrTstop => none
  | .reset => none
  | .flushCompletion _ => none
  | .tlbinvCompletion _ => none
  | .beatCrcFailure => none
  | .ualinkPeerFailure => none
  | .entdaa => none
  | .bringUpStage => none

/-- The length code of a format. -/
def Form.lenCode (f : Form) : Nat :=
  match f.kind with
  | .reg | .imm => 0
  | .imx | .xtd => 1
  | .wide | .desc => 2

/-- The opcode's row of R48 gives the format of the fields at its length (step 7 of R60). -/
def formatOk (op : Nat) (o : Ops) : Bool :=
  kindAt op o.form.lenCode (o.fn.toNat / 64) == some o.form.kind

/-- The page defines the form and the function (steps 7 and 8). -/
def functionOk (op : Nat) (o : Ops) : Bool := (layout op o).isSome

/-- Reserved and unused bits are zero (step 9). -/
def reservedOk (op : Nat) (o : Ops) : Bool :=
  match layout op o with
  | some l => l.allows o
  | none => false

/-- The fields belong to this row of the table. -/
def rowOk (op : Nat) (o : Ops) (i : Instr) : Bool := ofCode op o == some i

/-- The instruction has a word that decodes to it. A step of the hardware has none. -/
def WellFormed (i : Instr) : Bool :=
  match codeOf i with
  | some (op, o) => assigned op && formatOk op o && functionOk op o && reservedOk op o && rowOk op o i
  | none => i == .filler

end Sys2Proof
end

