-- ==== Sys2Proof/Decode.lean ====
section
/-! DEFINITION. Decoding (R44–R60): a number whose bit 0 is bit 0 of the first byte, at most 128 bits wide, to an
instruction or to the check of R60 that it fails. After it, the encoder, written from the same tables. -/
namespace Sys2Proof

open Machine

/-- The checks of R60 that depend on the word alone, by the step of R60 that fails. -/
inductive DecodeError where
  /-- Step 4: LEN is 0b11. -/
  | lenReserved
  /-- Step 6: the opcode is unassigned (R56). -/
  | unassigned
  /-- Step 7: the opcode's row has no format at this length (R48). -/
  | noFormat
  /-- Steps 7 and 8: the page defines no such form or function (R58). -/
  | undefinedFunction
  /-- Step 9: a reserved or unused bit is set (R46, R47). -/
  | reservedBit
  deriving DecidableEq, Repr

/-- The cause each check traps with (R60). -/
def DecodeError.cause : DecodeError → Nat
  | .reservedBit => 0x02
  | .lenReserved | .unassigned | .noFormat | .undefinedFunction => 0x01

/-- Bits `hi:lo` of a number. -/
def bitsOf (w hi lo : Nat) : Nat := w / 2 ^ lo % 2 ^ (hi + 1 - lo)

/-- The fields above FN in a format (R47). -/
def formOf (k : Kind) (w : Nat) : Form :=
  let m : BitVec 23 := BitVec.ofNat 23 (w / 2 ^ 41)
  let c : BitVec 5 := BitVec.ofNat 5 (w / 2 ^ 36)
  match k with
  | .reg => .reg m c
  | .imm => .imm (BitVec.ofNat 28 (w / 2 ^ 36))
  | .imx => .imx (BitVec.ofNat 60 (w / 2 ^ 36))
  | .xtd => .xtd m c (BitVec.ofNat 32 (w / 2 ^ 64))
  | .wide => .wide m c (BitVec.ofNat 64 (w / 2 ^ 64))
  | .desc => .desc m c (BitVec.ofNat 64 (w / 2 ^ 64))

/-- The header fields of R45 and the fields of format `k`. -/
def opsOf (k : Kind) (w : Nat) : Ops where
  pg := BitVec.ofNat 3 (w / 2 ^ 10)
  pn := BitVec.ofNat 1 (w / 2 ^ 13)
  d := BitVec.ofNat 5 (w / 2 ^ 14)
  a := BitVec.ofNat 5 (w / 2 ^ 19)
  b := BitVec.ofNat 5 (w / 2 ^ 24)
  fn := BitVec.ofNat 7 (w / 2 ^ 29)
  form := formOf k w

/-- The length in bytes that LEN names (R44), 0 for 0b11. -/
def lenBytes (w : Nat) : Nat :=
  match w % 4 with
  | 0 => 8
  | 1 => 12
  | 2 => 16
  | _ => 0

/-- Steps 6 to 9 of R60 on an opcode and its fields. -/
def check (op : Nat) (o : Ops) : Except DecodeError Instr :=
  match layout op o with
  | none => .error .undefinedFunction
  | some l =>
    if l.allows o then
      match ofCode op o with
      | some i => .ok i
      | none => .error .unassigned
    else .error .reservedBit

/-- Decoding of a word (steps 4 and 6 to 9 of R60). Bits beyond the instruction's length are not looked at. -/
def decodeWord (w : Nat) : Except DecodeError Instr :=
  if w % 4 = 3 then .error .lenReserved
  else
    let op := bitsOf w 9 2
    if assigned op then
      match kindAt op (w % 4) (bitsOf w 35 35) with
      | none => .error .noFormat
      | some k => check op (opsOf k w)
    else .error .unassigned

/-- The number the bytes stand for, the first byte lowest (R4). -/
def wordOfBytes : List Byte → Nat
  | [] => 0
  | b :: t => b.toNat + 256 * wordOfBytes t

/-- The low `n` bytes of a number, the lowest first (R4). -/
def bytesOfWord : Nat → Nat → List Byte
  | 0, _ => []
  | n + 1, w => BitVec.ofNat 8 w :: bytesOfWord n (w / 256)

/-- Decoding of the bytes at a fetch offset, with the bytes that follow: `none` when too few are left. The filler is
recognised by the fetch, not here, for it depends on the offset (R51). -/
def decode (bs : List Byte) : Option (Except DecodeError (Instr × List Byte)) :=
  if bs.length < 8 then none
  else
    let w := wordOfBytes (bs.take 16)
    let n := lenBytes w
    if n = 0 then some (.error .lenReserved)
    else if bs.length < n then none
    else
      match decodeWord (w % 2 ^ (8 * n)) with
      | .error e => some (.error e)
      | .ok i => some (.ok (i, bs.drop n))

/-- The host's question: the instruction whose bits are `w`, in `nbits` bits. A word of 32 ones is the filler. -/
def decodeTableWord (nbits w : Nat) : Option Instr :=
  if nbits = 32 && w = 0xFFFFFFFF then some .filler
  else
    match decode (bytesOfWord 16 (w % 2 ^ nbits)) with
    | some (.ok (i, _)) => some i
    | _ => none

/-! The encoder. -/

/-- LEN of a format (R44, R47). -/
def Kind.len : Kind → Nat
  | .reg | .imm => 0
  | .imx | .xtd => 1
  | .wide | .desc => 2

/-- The bits above FN, as a number to be added at bit 36 (R47). -/
def Form.word : Form → Nat
  | .reg m c => c.toNat + m.toNat * 2 ^ 5
  | .imm i => i.toNat
  | .imx i => i.toNat
  | .xtd m c e => c.toNat + m.toNat * 2 ^ 5 + e.toNat * 2 ^ 28
  | .wide m c i => c.toNat + m.toNat * 2 ^ 5 + i.toNat * 2 ^ 28
  | .desc m c e => c.toNat + m.toNat * 2 ^ 5 + e.toNat * 2 ^ 28

/-- The word of opcode `op` with fields `o` (R45, R47). -/
def encodeOps (op : Nat) (o : Ops) : Nat :=
  o.form.kind.len + op * 2 ^ 2 + o.pg.toNat * 2 ^ 10 + o.pn.toNat * 2 ^ 13 + o.d.toNat * 2 ^ 14
    + o.a.toNat * 2 ^ 19 + o.b.toNat * 2 ^ 24 + o.fn.toNat * 2 ^ 29 + o.form.word * 2 ^ 36

/-- The word of an instruction; a step of the hardware has none. -/
def encodeWord (i : Instr) : Option Nat :=
  match codeOf i with
  | some (op, o) => some (encodeOps op o)
  | none => if i = .filler then some 0xFFFFFFFF else none

/-- The bytes of an instruction, in the order a plate holds them (R44). -/
def encode (i : Instr) : List Byte :=
  match codeOf i with
  | some (op, o) => bytesOfWord o.form.bytes (encodeOps op o)
  | none => if i = .filler then bytesOfWord 4 0xFFFFFFFF else []

end Sys2Proof
end

