-- ==== Sys2Proof/Machine/Formats.lean ====
section
/-! DEFINITION. The number formats (R70–R82): exact values, decoding of every format into them, and rounding
from them into every format under the modes of R85 with the flags of R86. -/
namespace Sys2Proof.Machine

/-- An exact value. `fin neg m e st` is ±m·2^e, or, with `st`, a real strictly between that and ±(m+1)·2^e.
Void (R72) is a quiet NaN. -/
inductive Val where
  | nan (sig : Bool)
  | inf (neg : Bool)
  | fin (neg : Bool) (m : Nat) (e : Int) (st : Bool)
  deriving DecidableEq, Repr

/-- The exceptions of FPCTL (R37). -/
structure FFlags where
  nv : Bool := false
  dz : Bool := false
  of : Bool := false
  uf : Bool := false
  nx : Bool := false
  deriving DecidableEq, Repr

/-- Either set of exceptions. -/
def FFlags.or (a b : FFlags) : FFlags :=
  { nv := a.nv || b.nv, dz := a.dz || b.dz, of := a.of || b.of, uf := a.uf || b.uf, nx := a.nx || b.nx }

/-- +0. -/
def Val.zero : Val := .fin false 0 0 false
/-- The value of an integer. -/
def Val.ofInt (i : Int) : Val := .fin (decide (i < 0)) i.natAbs 0 false
/-- Any NaN or void. -/
def Val.isNan : Val → Bool
  | .nan _ => true
  | _ => false
/-- A signalling NaN. -/
def Val.isSig : Val → Bool
  | .nan s => s
  | _ => false
/-- A zero of either sign. -/
def Val.isZero : Val → Bool
  | .fin _ m _ st => m == 0 && !st
  | _ => false
/-- An infinity. -/
def Val.isInf : Val → Bool
  | .inf _ => true
  | _ => false
/-- The sign bit; false for a NaN. -/
def Val.neg? : Val → Bool
  | .nan _ => false
  | .inf n => n
  | .fin n _ _ _ => n
/-- The value with its sign inverted. -/
def Val.negate : Val → Val
  | .nan s => .nan s
  | .inf n => .inf (!n)
  | .fin n m e st => .fin (!n) m e st

/-- 2^k for k ≥ 0, and 1 below. -/
def pow2 (k : Int) : Nat := 2 ^ k.toNat

/-- The exact value as an integer multiple of 2^e, for e at most its own exponent. -/
def scaled (neg : Bool) (m : Nat) (e0 e : Int) : Int :=
  let k : Int := (m * pow2 (e0 - e) : Nat)
  if neg then -k else k

/-- The exact sum, with the invalid operation ∞ − ∞ (R88). An exact zero of opposite signs is +0. -/
def Val.add (a b : Val) : Val × Bool :=
  match a, b with
  | .nan _, _ | _, .nan _ => (.nan false, a.isSig || b.isSig)
  | .inf x, .inf y => if x = y then (.inf x, false) else (.nan false, true)
  | .inf x, _ | _, .inf x => (.inf x, false)
  | .fin n m e _, .fin n' m' e' _ =>
    let lo := min e e'
    let t := scaled n m e lo + scaled n' m' e' lo
    if t = 0 then (.fin (n && n') 0 0 false, false) else (.fin (decide (t < 0)) t.natAbs lo false, false)

/-- The exact product, with the invalid operation 0 × ∞. A zero product of operands of opposite signs is −0 in every format, the
integers among them (R89; DESIGN CHOICE, log entry 29). -/
def Val.mul (a b : Val) : Val × Bool :=
  match a, b with
  | .nan _, _ | _, .nan _ => (.nan false, a.isSig || b.isSig)
  | .inf x, .inf y => (.inf (x != y), false)
  | .inf x, .fin n m _ _ | .fin n m _ _, .inf x => if m = 0 then (.nan false, true) else (.inf (x != n), false)
  | .fin n m e _, .fin n' m' e' _ => (.fin (n != n') (m * m') (e + e') false, false)

/-- Whether a < b, for values that are no NaN. Zeros are equal. -/
def Val.lt (a b : Val) : Bool :=
  match a, b with
  | .nan _, _ | _, .nan _ => false
  | .inf x, .inf y => x && !y
  | .inf x, _ => x
  | _, .inf y => !y
  | .fin n m e _, .fin n' m' e' _ =>
    let lo := min e e'
    decide (scaled n m e lo < scaled n' m' e' lo)

/-- Whether two values that are no NaN are equal. Zeros are equal. -/
def Val.eq (a b : Val) : Bool := !a.isNan && !b.isNan && !a.lt b && !b.lt a

/-! Binary floating point (R79). -/

/-- A binary format: exponent and fraction bits, bias, and what its all-ones exponent holds: 2 infinities and NaN,
1 the F8E4 scheme, 0 ordinary values. -/
structure BinFmt where
  eb : Nat
  fb : Nat
  bias : Nat
  special : Nat
  deriving DecidableEq, Repr

def f40 : BinFmt := ⟨8, 31, 127, 2⟩
def f32 : BinFmt := ⟨8, 23, 127, 2⟩
def f19 : BinFmt := ⟨8, 10, 127, 2⟩
def bf16 : BinFmt := ⟨8, 7, 127, 2⟩
def f16 : BinFmt := ⟨5, 10, 15, 2⟩
def f8e5 : BinFmt := ⟨5, 2, 15, 2⟩
def f8e4 : BinFmt := ⟨4, 3, 7, 1⟩
def f6e3 : BinFmt := ⟨3, 2, 3, 0⟩
def f6e2 : BinFmt := ⟨2, 3, 1, 0⟩
def f4e2 : BinFmt := ⟨2, 1, 1, 0⟩

/-- The exponent of the format's last place among its subnormals. -/
def BinFmt.ulp (f : BinFmt) : Int := 1 - f.bias - f.fb

/-- The code of the largest finite magnitude. -/
def BinFmt.maxCode (f : BinFmt) : Nat :=
  match f.special with
  | 2 => (2 ^ f.eb - 1) * 2 ^ f.fb - 1
  | 1 => 2 ^ (f.eb + f.fb) - 2
  | _ => 2 ^ (f.eb + f.fb) - 1

/-- The magnitude of a finite code, as m · 2^e. -/
def BinFmt.mag (f : BinFmt) (code : Nat) : Nat × Int :=
  let ex := code / 2 ^ f.fb
  let fr := code % 2 ^ f.fb
  if ex = 0 then (fr, f.ulp) else (2 ^ f.fb + fr, f.ulp + (ex - 1 : Nat))

/-- The value of a code of the format (R79). -/
def BinFmt.decode (f : BinFmt) (bits : Nat) : Val :=
  let neg := decide (bits / 2 ^ (f.eb + f.fb) % 2 = 1)
  let code := bits % 2 ^ (f.eb + f.fb)
  let fr := code % 2 ^ f.fb
  if f.special = 2 && code / 2 ^ f.fb == 2 ^ f.eb - 1 then
    if fr = 0 then .inf neg else .nan (decide (fr < 2 ^ (f.fb - 1)))
  else if f.special = 1 && code == 2 ^ (f.eb + f.fb) - 1 then .nan false
  else
    let (m, e) := f.mag code
    .fin neg m e false

/-- The canonical NaN (R79); +0 where the format has none. -/
def BinFmt.nanCode (f : BinFmt) : Nat :=
  match f.special with
  | 2 => (2 ^ f.eb - 1) * 2 ^ f.fb + 2 ^ (f.fb - 1)
  | 1 => 2 ^ (f.eb + f.fb) - 1
  | _ => 0

/-- The code of ±∞. -/
def BinFmt.infCode (f : BinFmt) (neg : Bool) : Nat :=
  (2 ^ f.eb - 1) * 2 ^ f.fb + (if neg then 2 ^ (f.eb + f.fb) else 0)

/-- A magnitude m·2^e (with `st`, just above it) rounded under mode `rm` to an integer multiple of 2^u, with whether it
changed. Modes 0 to 4 as R85 numbers them. -/
def roundAt (rm : Nat) (neg : Bool) (m : Nat) (e : Int) (st : Bool) (u : Int) : Nat × Bool :=
  let q := if u ≤ e then m * pow2 (e - u) else m / pow2 (u - e)
  let r := if u ≤ e then 0 else m % pow2 (u - e)
  let inexact := st || r != 0
  -- 2r against the unit: 0 below half, 1 half, 2 above; with u ≤ e, `st` alone is below half
  let two := 2 * r
  let unit := if u ≤ e then 1 else pow2 (u - e)
  let aboveHalf := decide (unit < two) || (two == unit && st && !decide (u ≤ e))
  let isHalf := two == unit && !st && !decide (u ≤ e)
  let up : Bool :=
    match rm with
    | 0 => aboveHalf || (isHalf && q % 2 == 1)
    | 1 => false
    | 2 => neg && inexact
    | 3 => !neg && inexact
    | _ => aboveHalf || isHalf
  (if up then q + 1 else q, inexact)

/-- The exponent of the last of `p` significant bits of m·2^e. -/
def lastPlace (m : Nat) (e : Int) (p : Nat) : Int := e + (Nat.log2 m : Nat) - (p - 1 : Nat)

/-- Rounding of a value into a binary format (R86), with its flags. `arith` selects the tininess rule of IEEE 754 for
arithmetic (R106) in place of the one R86 gives conversions; signalling inputs are the caller's. -/
def BinFmt.encode (f : BinFmt) (rm : Nat) (arith : Bool) (v : Val) : Nat × FFlags :=
  let sign (neg : Bool) : Nat := if neg then 2 ^ (f.eb + f.fb) else 0
  match v with
  | .nan s => if f.special = 0 then (0, { nv := true }) else (f.nanCode, { nv := s })
  | .inf neg =>
    if f.special = 2 then (f.infCode neg, {}) else (f.maxCode + sign neg, { of := true, nx := true })
  | .fin neg m e st =>
    if m = 0 && !st then (sign neg, {})
    else
      let (mm, me) := f.mag f.maxCode
      -- rounded to the destination's precision with an unbounded exponent range
      let u0 := lastPlace m e (f.fb + 1)
      let (q0, _) := if m = 0 then (0, st) else roundAt rm neg m e st u0
      let beyond := decide (scaled false mm me (min me u0) < scaled false q0 u0 (min me u0))
      if beyond then
        let toInf := f.special == 2 && (match rm with
          | 0 | 4 => true
          | 1 => false
          | 2 => neg
          | _ => !neg)
        (if toInf then f.infCode neg else f.maxCode + sign neg, { of := true, nx := true })
      else
        let u := if u0 ≤ f.ulp then f.ulp else u0
        let (q, inexact) := roundAt rm neg m e st u
        -- q·2^u with q below 2^(fb+1), or equal to it, which carries into the next exponent
        let code := if u = f.ulp then q else q + ((u - f.ulp).toNat) * 2 ^ f.fb
        let tiny := decide (code < 2 ^ f.fb)
        -- the exact value lies below the least normal number though its rounding is that number
        let window := arith && !tiny && code == 2 ^ f.fb && u == f.ulp
          && decide (scaled false m e (min e f.ulp) < scaled false (2 ^ f.fb) f.ulp (min e f.ulp))
        let early := decide (scaled false q0 u0 (min u0 f.ulp) < scaled false (2 ^ f.fb) f.ulp (min u0 f.ulp))
        (code + sign neg,
          { uf := inexact && (tiny || (window && (early || Config.tinyBefore))), nx := inexact })

/-! The Sprig family (R71–R77). -/

/-- `width` of R71. -/
def sprigWidth (j b : Nat) (cutB : Bool) (cap : Nat) : Nat :=
  let t := b - 1 - j
  if cutB then (if j = 0 then min 2 t else min (min (j + 2) t) (cap + 1))
  else if j = 0 then min 1 t else min (min (j + 1) t) cap

/-- `cap` of R71. -/
def sprigCap (n : Nat) : Nat := if n ≤ 8 then 3 else if n = 10 then 4 else 5

/-- P and N of R71 before band `k`. -/
def sprigPN (b : Nat) (cutB : Bool) (cap : Nat) : Nat → Nat × Nat
  | 0 | 1 => (1, 2 ^ sprigWidth 0 b cutB cap)
  | k + 2 =>
    let (p, n) := sprigPN b cutB cap (k + 1)
    let h := 2 ^ (sprigWidth (k + 1) b cutB cap - 1)
    (p + h, n + h)

/-- The exponent and fraction of a non-zero body: (E, F, f) (R71). -/
def sprigBody (n : Nat) (cutB : Bool) (body : Nat) : Int × Nat × Nat :=
  let b := n - 1
  let cap := sprigCap n
  let k := b - 1 - Nat.log2 body
  let t := b - 1 - k
  let w := sprigWidth k b cutB cap
  let f := t - w
  let tail := body % 2 ^ t
  let ex := tail / 2 ^ f
  let fr := tail % 2 ^ f
  let (p, nn) := sprigPN b cutB cap k
  let e : Int :=
    if k = 0 then -(ex : Int)
    else if w = 0 then p
    else if ex / 2 ^ (w - 1) = 0 then ((p + ex : Nat) : Int)
    else -((nn + ex % 2 ^ (w - 1) : Nat) : Int)
  (e, fr, f)

/-- DecodeSprig (R71). -/
def decodeSprig (n : Nat) (cutB : Bool) (c : Int) (bits : Nat) : Val :=
  let b := n - 1
  let body := bits % 2 ^ b
  let neg := decide (bits / 2 ^ b % 2 = 1)
  if body = 0 then (if neg then .nan false else .zero)
  else
    let (e, fr, f) := sprigBody n cutB body
    .fin neg (2 ^ f + fr) (e + c - (f : Int)) false

/-- The band whose exponents include `e`: the body with fraction 0, and the fraction's width. Bands are tried from `k`
upwards. -/
def sprigFind (n : Nat) (cutB : Bool) (e : Int) : (fuel k : Nat) → Option (Nat × Nat)
  | 0, _ => none
  | fuel + 1, k =>
    let b := n - 1
    let cap := sprigCap n
    let t := b - 1 - k
    let w := sprigWidth k b cutB cap
    let f := t - w
    let (p, nn) := sprigPN b cutB cap k
    let half := 2 ^ (w - 1)
    if k = 0 then
      if e ≤ 0 && decide (-e < (2 ^ w : Nat)) then some (2 ^ t + (-e).toNat * 2 ^ f, f)
      else sprigFind n cutB e fuel (k + 1)
    else if w = 0 then if e = (p : Int) then some (2 ^ t, 0) else sprigFind n cutB e fuel (k + 1)
    else if (p : Int) ≤ e && e < ((p + half : Nat) : Int) then some (2 ^ t + (e - p).toNat * 2 ^ f, f)
    else if (nn : Int) ≤ -e && -e < ((nn + half : Nat) : Int) then
      some (2 ^ t + (half + (-e - nn).toNat) * 2 ^ f, f)
    else sprigFind n cutB e fuel (k + 1)

/-- The body of the largest and of the smallest magnitude (R76): Emax is the last band's exponent. -/
def sprigEmax (n : Nat) (cutB : Bool) : Nat := (sprigPN (n - 1) cutB (sprigCap n) (n - 2)).1
/-- The least exponent: the one whose successor downwards has no band. -/
def sprigEmin (n : Nat) (cutB : Bool) : Int :=
  -(((sprigPN (n - 1) cutB (sprigCap n) (n - 2)).2 : Nat) : Int) + 1

/-- EncodeSprig under a rounding mode (R77, R86). -/
def encodeSprig (n : Nat) (cutB : Bool) (rm : Nat) (c : Int) (v : Val) : Nat × FFlags :=
  let sb (neg : Bool) : Nat := if neg then 2 ^ (n - 1) else 0
  match v with
  | .nan s => (2 ^ (n - 1), { nv := s })
  | .inf neg => (1 + sb neg, { of := true, nx := true })
  | .fin neg m e st =>
    if m = 0 && !st then (0, {})
    else
      let emax := (sprigEmax n cutB : Int) + c
      let emin := sprigEmin n cutB + c
      let l := e + (Nat.log2 m : Nat)
      let big := decide (emax < l) || (decide (l = emax) && (st || m != 2 ^ Nat.log2 m))
      if big then (1 + sb neg, { of := true, nx := true })
      else if m = 0 || l < emin then
        -- between +0 and the smallest magnitude, the value 2^emin
        let small := (match sprigFind n cutB (sprigEmin n cutB) n 0 with
          | some (b, _) => b
          | none => 0)
        let d := emin - 1
        -- against half of it
        let cmp := if m = 0 then Ordering.lt else
          if l < d then .lt else if m == 2 ^ Nat.log2 m && !st then .eq else .gt
        let up : Bool := match rm with
          | 0 => cmp == .gt
          | 1 => false
          | 2 => neg
          | 3 => !neg
          | _ => cmp != .lt
        if up then (small + sb neg, { nx := true }) else (0, { uf := true, nx := true })
      else
        match sprigFind n cutB (l - c) n 0 with
        | none => (0, {})
        | some (base, f) =>
          let u := l - (f : Int)
          let q := if u ≤ e then m * pow2 (e - u) else m / pow2 (u - e)
          let r := if u ≤ e then 0 else m % pow2 (u - e)
          let unit := if u ≤ e then 1 else pow2 (u - e)
          let inexact := st || r != 0
          let low := base + (q - 2 ^ f)
          let high := if q + 1 = 2 ^ (f + 1) then
              (match sprigFind n cutB (l + 1 - c) n 0 with
                | some (b, _) => b
                | none => low)
            else low + 1
          -- the upper neighbour of the last code of an exponent is twice 2^l, so the halfway point is that of the unit
          let above := !decide (u ≤ e) && (decide (unit < 2 * r) || (2 * r == unit && st))
          let half := !decide (u ≤ e) && 2 * r == unit && !st
          let up : Bool := match rm with
            | 0 => above || (half && low % 2 == 1 && high % 2 == 0)
            | 1 => false
            | 2 => neg && inexact
            | 3 => !neg && inexact
            | _ => above || half
          ((if up then high else low) + sb neg, { nx := inexact })

/-! Every operand format by its code (R82). -/

/-- Bits of an element of the format; F19 in its 32-bit container (R70, R80). -/
def fmtBits (fmt : Nat) : Nat :=
  match fmt with
  | 0x00 | 0x01 | 0x08 => 2
  | 0x02 | 0x03 | 0x12 | 0x14 | 0x15 => 4
  | 0x04 | 0x05 | 0x0E | 0x0F | 0x13 | 0x18 | 0x19 => 8
  | 0x06 | 0x07 | 0x0C | 0x0D | 0x1E | 0x1F => 16
  | 0x09 => 1
  | 0x0A | 0x0B => 32
  | 0x10 | 0x11 | 0x16 | 0x17 => 6
  | 0x1A | 0x1B => 10
  | _ => 12

/-- The formats of the 4-bit and 2-bit formats capability (R82). -/
def fmtNarrow (fmt : Nat) : Bool := [0x00, 0x01, 0x02, 0x03, 0x08, 0x09, 0x12, 0x14, 0x15].contains fmt

/-- A Sprig format. -/
def fmtSprig (fmt : Nat) : Bool := decide (0x14 ≤ fmt)
/-- Cut B of a Sprig code. -/
def sprigCutB (fmt : Nat) : Bool := fmt % 2 == 1

/-- The binary format of a code, if it is one. -/
def fmtBin (fmt : Nat) : Option BinFmt :=
  match fmt with
  | 0x0A => some f32
  | 0x0B => some f19
  | 0x0C => some bf16
  | 0x0D => some f16
  | 0x0E => some f8e5
  | 0x0F => some f8e4
  | 0x10 => some f6e3
  | 0x11 => some f6e2
  | 0x12 => some f4e2
  | _ => none

/-- The integer range of a format, if it is an integer format. -/
def fmtRange (fmt : Nat) : Option (Int × Int) :=
  let b := fmtBits fmt
  match fmt with
  | 0x00 | 0x02 | 0x04 | 0x06 => some (-(2 ^ (b - 1) : Nat), (2 ^ (b - 1) : Nat) - 1)
  | 0x01 | 0x03 | 0x05 | 0x07 => some (0, (2 ^ b : Nat) - 1)
  | _ => none

/-- A two's-complement number of `n` bits. -/
def toSigned (n bits : Nat) : Int :=
  if bits % 2 ^ n < 2 ^ (n - 1) then (bits % 2 ^ n : Nat) else (bits % 2 ^ n : Nat) - (2 ^ n : Nat)

/-- The low `n` bits of an integer. -/
def ofSigned (n : Nat) (i : Int) : Nat := (i % (2 ^ n : Nat)).toNat

/-- A centre byte read as signed (R73). -/
def centreOf (byte : Nat) : Int := toSigned 8 byte
/-- The centres that decode (R73). -/
def centreOk (c : Int) : Bool := decide (-64 ≤ c) && decide (c ≤ 63)

/-- The value of an element of format `fmt` with centre `c` (R71–R81). -/
def fmtDecode (fmt : Nat) (c : Int) (bits0 : Nat) : Val :=
  let b := fmtBits fmt
  let bits := bits0 % 2 ^ b
  if fmtSprig fmt then (if centreOk c then decodeSprig b (sprigCutB fmt) c bits else .nan false)
  else
    match fmt with
    | 0x08 => if bits = 1 then .ofInt 1 else if bits = 3 then .ofInt (-1) else .zero
    | 0x09 => if bits = 0 then .ofInt 1 else .ofInt (-1)
    | 0x0B => f19.decode (bits / 2 ^ 13)
    | 0x13 => if bits = 0xFF then .nan false else .fin false 1 ((bits : Int) - 127) false
    | 0x00 | 0x02 | 0x04 | 0x06 => .ofInt (toSigned b bits)
    | 0x01 | 0x03 | 0x05 | 0x07 => .ofInt bits
    | _ => match fmtBin fmt with
      | some f => f.decode bits
      | none => .nan false

/-- Rounding of a value to an integer under a mode, with whether it changed. -/
def roundInt (rm : Nat) (v : Val) : Int × Bool :=
  match v with
  | .fin neg m e st =>
    let (q, x) := roundAt rm neg m e st 0
    (if neg then -(q : Int) else q, x)
  | _ => (0, false)

/-- Conversion into an integer range (R86). -/
def encodeRange (lo hi : Int) (rm : Nat) (v : Val) : Int × FFlags :=
  match v with
  | .nan _ => (0, { nv := true })
  | .inf n => (if n then lo else hi, { nv := true })
  | .fin _ _ _ _ =>
    let (i, x) := roundInt rm v
    if i < lo then (lo, { nv := true }) else if hi < i then (hi, { nv := true }) else (i, { nx := x })

/-- Conversion into X8 (R81, R86). -/
def encodeX8 (rm : Nat) (v : Val) : Nat × FFlags :=
  match v with
  | .nan s => (0xFF, { nv := s })
  | .inf _ => (0xFE, { of := true, nx := true })
  | .fin neg m e st =>
    if m = 0 then (0, { nx := true })
    else
      let l := e + (Nat.log2 m : Nat)
      let exact := m == 2 ^ Nat.log2 m && !st
      -- |x| between 2^l and 2^(l+1): the midpoint is 1.5·2^l; the code with bit 0 = 0 wins a tie
      let twice := 2 * m
      let mid := 3 * 2 ^ Nat.log2 m
      let up : Bool := match rm with
        | 0 => decide (mid < twice) || (twice == mid && st) || (twice == mid && !st && (l + 127) % 2 == 1)
        | 1 | 2 => false
        | 3 => !exact
        | _ => decide (mid ≤ twice)
      let l' := if exact then l else if up then l + 1 else l
      if 127 < l' then (0xFE, { of := true, nx := true })
      else if l' < -127 then (0, { nx := true })
      else ((l' + 127).toNat, { nx := !exact || neg })

/-- Conversion of a value into format `fmt` with centre `c` (R86). A centre that does not decode gives void with NV
(R109). -/
def fmtEncode (fmt rm : Nat) (c : Int) (v : Val) : Nat × FFlags :=
  let b := fmtBits fmt
  if fmtSprig fmt then
    if centreOk c then encodeSprig b (sprigCutB fmt) rm c v else (2 ^ (b - 1), { nv := true })
  else
    match fmt with
    | 0x08 =>
      let (i, f) := encodeRange (-1) 1 rm v
      (ofSigned 2 i, f)
    | 0x09 =>
      match v with
      | .nan _ => (0, { nv := true })
      | _ => (if v.neg? then 1 else 0, { nx := !v.eq (.ofInt (if v.neg? then -1 else 1)) })
    | 0x0B =>
      let (x, f) := f19.encode rm false v
      (x * 2 ^ 13, f)
    | 0x13 => encodeX8 rm v
    | _ =>
      match fmtBin fmt, fmtRange fmt with
      | some f, _ => f.encode rm false v
      | _, some (lo, hi) =>
        let (i, fl) := encodeRange lo hi rm v
        (ofSigned b i, fl)
      | _, _ => (0, {})

/-- The code a format writes for a NaN. -/
def fmtNan (fmt : Nat) : Nat := (fmtEncode fmt 0 0 (.nan false)).1

/-- RoundNE into a binary format (R38), canonical NaN included. -/
def roundNE (f : BinFmt) (v : Val) : Nat := (f.encode 0 true v).1

/-! Arithmetic of R106 on a binary format. Each takes and gives codes, with the flags of IEEE 754-2019. -/

/-- The result of an exact operation rounded once, NaN canonical (R84). -/
def BinFmt.arith (f : BinFmt) (r : Val × Bool) : Nat × FFlags :=
  match r with
  | (.nan _, bad) => (f.nanCode, { nv := bad })
  | (v, _) => f.encode 0 true v

/-- Whether a finite code is a non-zero subnormal. -/
def BinFmt.isSub (f : BinFmt) (bits : Nat) : Bool :=
  let code := bits % 2 ^ (f.eb + f.fb)
  decide (0 < code) && decide (code < 2 ^ f.fb)

/-- FTZ on an input: a subnormal reads as zero of its sign (R83). -/
def BinFmt.flushIn (f : BinFmt) (ftz : Bool) (bits : Nat) : Nat :=
  if ftz && f.isSub bits then bits / 2 ^ (f.eb + f.fb) % 2 * 2 ^ (f.eb + f.fb) else bits

/-- FTZ on a result: a subnormal becomes zero of its sign and sets UF and NX (R83). -/
def BinFmt.flushOut (f : BinFmt) (ftz : Bool) (r : Nat × FFlags) : Nat × FFlags :=
  if ftz && f.isSub r.1 then
    (r.1 / 2 ^ (f.eb + f.fb) % 2 * 2 ^ (f.eb + f.fb), { r.2 with uf := true, nx := true })
  else r

/-- The exact quotient to `p` bits and a sticky rest. -/
def divMag (m m' p : Nat) : Nat × Nat × Bool :=
  let k := p + Nat.log2 m' + 1
  let n := m * 2 ^ k
  (n / m', k, n % m' != 0)

/-- A / B with its exceptions. -/
def Val.div (a b : Val) : Val × FFlags :=
  match a, b with
  | .nan _, _ | _, .nan _ => (.nan false, { nv := a.isSig || b.isSig })
  | .inf _, .inf _ => (.nan false, { nv := true })
  | .inf x, .fin n _ _ _ => (.inf (x != n), {})
  | .fin n _ _ _, .inf y => (.fin (n != y) 0 0 false, {})
  | .fin n m e _, .fin n' m' e' _ =>
    if m' = 0 then (if m = 0 then (.nan false, { nv := true }) else (.inf (n != n'), { dz := true }))
    else if m = 0 then (.fin (n != n') 0 0 false, {})
    else
      let (q, k, st) := divMag m m' 64
      (.fin (n != n') q (e - e' - (k : Int)) st, {})

/-- Integer square root by bits, from bit `k` down. -/
def isqrtFrom (n : Nat) : (k acc : Nat) → Nat
  | 0, acc => if (acc + 1) * (acc + 1) ≤ n then acc + 1 else acc
  | k + 1, acc =>
    let t := acc + 2 ^ (k + 1)
    isqrtFrom n k (if t * t ≤ n then t else acc)

/-- √A with its exceptions. -/
def Val.sqrt (a : Val) : Val × FFlags :=
  match a with
  | .nan s => (.nan false, { nv := s })
  | .inf n => if n then (.nan false, { nv := true }) else (.inf false, {})
  | .fin n m e _ =>
    if m = 0 then (a, {})
    else if n then (.nan false, { nv := true })
    else
      -- an even exponent, and enough bits for the result
      let k : Nat := 80 + (if (e - 80) % 2 = 0 then 0 else 1)
      let mm := m * 2 ^ k
      let ee := e - (k : Int)
      let r := isqrtFrom mm (Nat.log2 mm / 2 + 1) 0
      (.fin false r (ee / 2) (r * r != mm), {})

/-- The lesser (`isMin`) or greater of two codes with −0 < +0 (R107). -/
def BinFmt.minMax (f : BinFmt) (isMin num : Bool) (a b : Nat) : Nat × FFlags :=
  let va := f.decode a
  let vb := f.decode b
  let nv : FFlags := { nv := va.isSig || vb.isSig }
  if va.isNan || vb.isNan then
    if num && !va.isNan then (a, nv) else if num && !vb.isNan then (b, nv) else (f.nanCode, nv)
  else
    let less := va.lt vb || (va.eq vb && va.neg? && !vb.neg?)
    (if less == isMin then a else b, nv)

end Sys2Proof.Machine
end

