-- ==== Sys2Proof/Machine/State.lean ====
section
/-! DEFINITION. The state of one package, as plain data (R3, R14–R43): contexts, cores, clusters, dies, the
package; and the state after package reset (R42). Arrays are sparse maps; an unlisted entry reads as its
reset value. -/
namespace Sys2Proof.Machine

open Sys2Proof

/-! Contexts (R14). -/

/-- An activation (R38, R40, R346): what a fire or a message queues. -/
structure Act where
  /-- The frame; `none` in a channel activation (R30). -/
  fid : Option Nat := none
  plate : Nat := 0
  /-- Entry offset in units of 8 bytes. -/
  off8 : Nat := 0
  /-- The fired slot copy, or the channel. -/
  ix : Nat := 0
  tag : Nat := 0
  /-- The level it stands at, and the one at which it was first queued (R348). -/
  level : Nat := 0
  first : Nat := 0
  /-- TIME at which it joined its level (R348). -/
  since : Nat := 0
  err : Bool := false
  ecls : Nat := 0
  cancel : Bool := false
  inbox : List Byte := []
  /-- The core that sent the message (R401). -/
  sender : Nat := 0
  /-- The context a matrix completion binds it to (R208). -/
  aff : Option Nat := none
  /-- Identity within the core: its pins and its replay-buffer lines name it (R165). -/
  id : Nat := 0
  /-- Aborted within its trap handler: the cause, TVAL and EPC with which the handler starts again (R393). -/
  hand : Option (Nat × Nat × Nat) := none
  /-- Requeues for uncorrectable data (R401), unresolved lane mismatches seen (R398). -/
  redel : Nat := 0
  vmis : Nat := 0
  /-- An uncorrectable error lies in the inbox payload held for it (R401). -/
  bad : Bool := false
  /-- A cancelled activation that has started and is counted (R338). -/
  counted : Bool := false
  deriving DecidableEq, Repr

/-- A loop level (R114). -/
structure LoopLevel where
  start : Nat
  stop : Nat
  count : Nat
  lsd : Nat
  deriving DecidableEq, Repr

/-- A frame-write entry: bytes of one aligned 32-byte block of the own frame (R16), by frame offset. -/
abbrev FwEnt := List (Nat × Byte)

/-- What an outbound entry does when it issues (R16). -/
inductive OAct where
  /-- Packets of one entry: one for a message, the pieces of R295 for a store. -/
  | send (ps : List Pkt)
  | mts (num : Nat) (v : Word)
  | win (j : Nat) (v : Word)
  | ffree (fid : Nat) (ref : Word)
  | timer (at_ : Nat) (cmpl : Cmpl)
  | matrix (c : MCmd)
  | kick (c : ECmd)
  /-- A CCON (R263): the value of gB, and the events armed for it (R267). -/
  | ccon (grp : Nat) (v : Word) (arm : Option CevtArm)
  | cviewArm (cmpl : Cmpl)
  | cjoin (peer : Nat) (cmpl : Cmpl) (w : Nat)
  | watch (i mode : Nat) (base len : Nat)
  | watchUnit (i : Nat) (pa len : Nat) (die : Nat)
  | flush (inv : Bool) (va len : Nat) (priv : Bool) (cmpl : Option Cmpl)
  | tlbinv (va : Option Nat) (cmpl : Option Cmpl)
  | round (plate : Nat) (cmpl : Option Cmpl)
  | probe (gen fid w : Nat) (cmpl : Option Cmpl)
  /-- An ECALL's four words (R279). -/
  | ecall (ws : List Word)
  | gstop (go : Bool) (first last at_ : Nat) (cmpl : Option Cmpl)
  | opstep (k : Nat) (cmpl : Option Cmpl)
  deriving DecidableEq, Repr

/-- An outbound-buffer entry. `bytes` are the bytes a buffered store will write, for forwarding (R159). -/
structure OutEnt where
  act : OAct
  /-- A signalling entry (R285). -/
  signal : Bool := false
  /-- `.rel` and `.acq` of an atomic; `rel` also of an engine kick (R180, R256). -/
  rel : Bool := false
  acq : Bool := false
  bytes : List (Loc × Byte) := []
  /-- The frame pinned from its issue until its completion (R139). -/
  pins : Option Nat := none
  deriving DecidableEq, Repr

/-- What a context is doing (R42, R130). -/
inductive Phase where
  | idle
  | running
  /-- In Commit: frame writes applied, outbound entries still to issue. -/
  | committing
  deriving DecidableEq, Repr

/-- The context of the activation a trap handler stands for, and the record it would raise (R393). -/
structure Trapped where
  act : Act
  cause : Nat
  tval : Nat
  epc : Nat
  deriving DecidableEq, Repr

/-- A hardware context (R14), or the context of an engine hart (R251). -/
structure Ctx where
  g : SMap Word := []
  v : SMap VReg := []
  /-- p1–p7; p0 reads 1. -/
  p : SMap Bool := []
  m : SMap MReg := []
  /-- Link stack, top first: plate and byte offset. -/
  links : List (Nat × Nat) := []
  /-- Loop levels, innermost first. -/
  loops : List LoopLevel := []
  out : List OutEnt := []
  fw : List FwEnt := []
  /-- FENCE.REL marks: places in the outbound buffer (R171). -/
  marks : List Nat := []
  plate : Nat := 0
  off : Nat := 0
  phase : Phase := .idle
  act : Act := {}
  /-- STATUS.PRIV of the activation (R35). -/
  priv : Bool := false
  /-- Generation of the instance. -/
  gen : Nat := 0
  cause : Word := 0
  tval : Word := 0
  epc : Word := 0
  geom : Word := 0
  fpctl : Word := 0
  /-- The trapped activation, while a handler entered through TVEC runs (R393). -/
  trap : Option Trapped := none
  /-- CEVT arms executed by the activation and not yet taken by a CCON or CRED (R267). -/
  arms : List CevtArm := []
  /-- Results read by CEXT and removed at Commit (R265): group and operation. -/
  taken : List (Nat × Nat) := []
  /-- An uncorrectable error lies in the registers, a buffer or a latch (R401). -/
  bad : Bool := false
  /-- Instructions issued by this attempt (R115; log entry 4). -/
  ran : Nat := 0
  /-- Which piece of the access now executing is performed by itself, 0 for all that is left, and what is performed of it: the instruction's
  count, the element's address and the bytes read (R295). -/
  alone : Nat := 0
  part : List (Nat × Nat × List Byte) := []
  /-- Entries already issued of the buffer being committed, and the commit's number. -/
  issued : Nat := 0
  job : Nat := 0
  /-- The commit requeues the activation (EXITS) or the trapped one (TRET). -/
  after : Option Act := none
  deriving DecidableEq, Repr

/-! Cores. -/

/-- Where a frame goes: granules from `g`, or spill home `h` (R320). -/
inductive FrameDest where
  | granules (g : Nat)
  | home (h : Nat)
  deriving DecidableEq, Repr

/-- A frame-table entry (R21) with the frame's slot map (R23). -/
structure FEnt where
  v : Bool := false
  res : Bool := false
  freq : Bool := false
  rld : Bool := false
  len : Nat := 0
  pin : Nat := 0
  home : Nat := 0
  gran : Nat := 0
  slots : BitVec 512 := 0
  /-- Held from dispatch while its move waits, and where the fit check has placed it (R320, R321). -/
  held : Bool := false
  dest : Option FrameDest := none
  deriving DecidableEq, Repr

/-- States of an accumulator slot (R18). -/
inductive SlotState where
  | free | busy | held | orphaned | state
  deriving DecidableEq, Repr

/-- State-bank parameters of a slot in STATE (R236, R241): configured descriptor, next step, counters, per-column
parameters by column. -/
structure Bank where
  nxt : Nat := 0
  late : Nat := 0
  dropped : Nat := 0
  fired : Nat := 0
  /-- The scratchpad offset of the descriptor, and its words as checked (R241). -/
  off : Nat := 0
  desc : List Word := []
  alpha : SMap Word := []
  theta : SMap Word := []
  deriving DecidableEq, Repr

/-- An accumulator slot (R18). Elements are F40 codes, or F32 codes in the low 32 bits. -/
structure ASlot where
  st : SlotState := .free
  ctx : Nat := 0
  acc : SMap (BitVec 40) := []
  orphan : Bool := false
  /-- Commands accepted and not completed. -/
  busy : Nat := 0
  /-- An MREL accepted in STATE has not completed, and the context of a command accepted behind it (R209). -/
  rel : Bool := false
  next : Option Nat := none
  /-- The tag that waits behind that MREL is marked for orphaning (R211). -/
  nextOrphan : Bool := false
  bank : Bank := {}
  deriving DecidableEq, Repr

/-- States of a plate (R31). -/
inductive PlateState where
  | invalid | active | prefetching | prefetched | draining
  deriving DecidableEq, Repr

/-- A plate: its state and its 8 KiB. -/
structure Plate where
  st : PlateState := .invalid
  bytes : SMap Byte := []
  /-- The round it was filled for, the plate it retires when it becomes active, and whether its ROUND token has passed (R344). -/
  round : Nat := 0
  retires : Option Nat := none
  swap : Bool := false
  deriving DecidableEq, Repr

/-- A plate-schedule entry of rounds from 1 upwards (R342). -/
structure Sched where
  round : Nat
  plate : Nat
  retire : Option Nat
  image : List Byte
  /-- Its ROUND token has passed before its fill began. -/
  passed : Bool := false
  deriving DecidableEq, Repr

/-- A line of an L1 or of a replay buffer (R164–R166): its bytes, a valid bit per word, and the activations that pin
it. -/
structure L1Line where
  data : List Byte
  valid : Nat
  pins : List Nat := []
  /-- Poison carried by the fill (R179). -/
  poison : Bool := false
  deriving DecidableEq, Repr

/-- An activation aborted by a miss, with the lines and page walks it still waits for (R165, R413). -/
structure MissWait where
  act : Act
  lines : List Nat
  pages : List Nat
  /-- It waits for the replay buffer itself (R166). -/
  forBuf : Bool := false
  deriving DecidableEq, Repr

/-- A walk's fault handed to an activation that waited for it (R414). -/
structure WalkFault where
  act : Nat
  page : Nat
  cause : Nat
  deriving DecidableEq, Repr

/-- What is held at a frame port (R346, R321). -/
inductive PortItem where
  | pkt (p : Pkt)
  | act (a : Act)
  /-- The frame writes of the Commit of context `x` (R26). -/
  | fw (x fid : Nat) (org : Origin) (es : List FwEnt)
  deriving DecidableEq, Repr

/-- An entry held in the network interface (R285, R171, R180): its packets or kick, and what it waits for. -/
structure NiEnt where
  job : Nat
  idx : Nat
  ent : OutEnt
  /-- Who issued it. -/
  org : Origin
  /-- Every memory access of the job before this place must be performed first. -/
  before : Nat
  /-- The last FENCE.REL mark before it: matrix commands of the job before that place must have completed (R171, R213). -/
  mark : Nat
  /-- Places of the `.acq` atomics before it (R180). -/
  acqs : List Nat
  deriving DecidableEq, Repr

/-- An armed timer (R151). -/
structure Timer where
  at_ : Nat
  cmpl : Cmpl
  gen : Nat
  deriving DecidableEq, Repr

/-- A watchpoint (R278). -/
structure Watch where
  mode : Nat := 0
  base : Nat := 0
  len : Nat := 0
  deriving DecidableEq, Repr

/-- A result in a core's result queue (R265). -/
structure CResult where
  grp : Nat
  n : Nat
  v : Word
  deriving DecidableEq, Repr

/-- A cached translation (R410–R412): virtual page base and size, physical base and attributes. -/
structure Tlb where
  gen : Nat
  va : Nat
  size : Nat
  pa : Nat
  /-- Attribute bits [11:4] of the first entry: P G C WO MS X W R. -/
  attr : Nat
  deriving DecidableEq, Repr

/-- A core (R3, R20–R31). -/
structure Core where
  ctxs : SMap Ctx := []
  /-- Frame SRAM, 64 KiB, and its poisoned 8-byte words (R402). -/
  fsram : SMap Byte := []
  fpoison : SMap Bool := []
  /-- Latent uncorrectable errors: words of frame SRAM, plates, L1 lines (R401); results of the lanes to come that will
  disagree: lane, and whether a spare settles it (R398). -/
  fbad : SMap Bool := []
  pbad : SMap Bool := []
  l1bad : SMap Bool := []
  vmism : List (Nat × Bool) := []
  ftab : SMap FEnt := []
  slots : SMap ASlot := []
  /-- Task-table words (R27). -/
  tasks : SMap Word := []
  plates : SMap Plate := []
  sched : List Sched := []
  rounds : Nat := 0
  ready : List Act := []
  portQ : List PortItem := []
  /-- Fires of spilled frames, waiting for the reload (R23). -/
  spillQ : List Act := []
  /-- Blocked-channel messages (R133), and messages the full ready queue leaves in the network interface (R346). -/
  inputQ : List Pkt := []
  niQ : List Pkt := []
  ni : List NiEnt := []
  /-- Memory accesses issued and not yet performed: commit number, place, whether it writes (R180, R285). -/
  outst : List (Nat × Nat × Bool) := []
  jobs : Nat := 0
  acts : Nat := 0
  /-- Contexts in Commit, in the order of their EXIT (R33). -/
  commits : List Nat := []
  timers : List Timer := []
  watches : SMap Watch := []
  cviewArms : List Cmpl := []
  mailbox : SMap Word := []
  starvw : Word := 0x10000
  wdog : Word := 0x100000
  l1mode : Bool := false
  tvec : Word := 0
  spillBase : Word := 0
  ftidx : Word := 0
  l1 : SMap (Option L1Line) := []
  /-- Replay buffer (R166): owner, lines. -/
  rbOwner : Option Nat := none
  rb : SMap (Option L1Line) := []
  /-- Translations that the core's micro-TLB holds and the cluster's TLB does not (R412). -/
  utlb : List Tlb := []
  misses : List MissWait := []
  walkFaults : List WalkFault := []
  regionQ : List MCmd := []
  lane : List MCmd := []
  engLane : List ECmd := []
  results : List CResult := []
  /-- Activations that wait for a result of a group (R265). -/
  cextQ : List (Nat × Act) := []
  /-- Contributions made per group (R262). -/
  ccount : SMap Nat := []
  evArms : List (Nat × CevtArm) := []
  /-- MMAG sequence numbers (R223), by group shape. -/
  mseq : SMap Nat := []
  deriving DecidableEq, Repr

/-! Clusters. -/

/-- State of a write-once word (R144). -/
inductive WoState where
  | empty | full | deferred
  deriving DecidableEq, Repr

/-- A deferred reader: its reply's frame word and completion, its packet's header (R146). -/
structure Reader where
  /-- The word: scratchpad offset, or physical address in HBM4. -/
  addr : Nat
  w : Nat
  cmpl : Cmpl
  gen : Nat
  org : Origin
  deriving DecidableEq, Repr

/-- A guard-log entry (R303). -/
structure GuardTouch where
  off : Nat
  bank : Nat
  cl : Nat
  core : Nat
  lost : Nat
  gen : Nat
  /-- TIME at which it is raised. -/
  due : Nat
  org : Origin
  deriving DecidableEq, Repr

/-- An operation at a combining site (R375). Positions: member core 0–15, child n + 1 is 16, child n + 16 is 17, child packages
18–20 (R376). -/
structure CombOp where
  grp : Nat
  n : Nat
  /-- Inputs by position; no value in the input of a failed subtree (R266). -/
  parts : List (Nat × Option (List Word)) := []
  /-- Its partial result has been passed on. -/
  sent : Bool := false
  /-- Positions that have reached their local-result point, with the causes of failed writes (R266, R267). -/
  fin : List (Nat × Nat) := []
  up : Bool := false
  deriving DecidableEq, Repr

/-- An engine hart (R251): its context, plate, queue and the command it runs. -/
structure Hart where
  ctx : Ctx := {}
  plate : SMap Byte := []
  /-- The plate holds the standard microcode. -/
  std : Bool := true
  q : List ECmd := []
  cmd : Option ECmd := none
  /-- The command runs forme code, which has started. -/
  begun : Bool := false
  /-- The shapes read at the start, elements moved, elements read by a CRED, and pieces of the element read that are still to
  be written (R257, R258). -/
  dims : List (Nat × Int) := []
  dims2 : List (Nat × Int) := []
  pos : Nat := 0
  vals : List Word := []
  left : List (List (Loc × Byte)) := []
  /-- Cause of failure found, 0 for none; the address reported. -/
  err : Nat := 0
  tval : Nat := 0
  finished : Bool := false
  since : Nat := 0
  /-- CREDs that wait for their result. -/
  waiting : List ECmd := []
  deriving DecidableEq, Repr

/-- A suspect-score entry (R400). -/
structure Suspect where
  quar : Bool := false
  map : Nat := 0
  /-- The cores whose regions have not come to a command boundary since the unit was mapped, and the unit that serves there until then (R399). -/
  left : List Nat := []
  was : Nat := 0
  mism : Nat := 0
  unres : Nat := 0
  score : Nat := 0
  deriving DecidableEq, Repr

/-- A queued event of a state bank (R242). -/
structure BankEvent where
  core : Nat
  slot : Nat
  row : Nat
  ev : Word
  deriving DecidableEq, Repr

/-- A held fault record with the TIME at which it is passed on (R395). -/
structure HeldRec where
  r : FaultRec
  due : Nat
  deriving DecidableEq, Repr

/-- An entry of the collective queue (R231): tag, issuing core, masks, format, and the elements. -/
structure CqEntry where
  tag : Nat
  core : Nat
  masks : Word
  fmt : Nat
  els : List Nat
  deriving DecidableEq, Repr

/-- A scratchpad byte overwritten while a matrix command of the cluster is pending: its offset, what it held, and who wrote (R216). -/
structure PastByte where
  off : Nat
  old : Byte
  core : Nat
  kind : Nat
  deriving DecidableEq, Repr

/-- A run of groups of a scratchpad: its owner's generation, none for a privileged allocation, its first group and its length (R300). -/
structure GroupRun where
  owner : Option Nat
  first : Nat
  n : Nat
  deriving DecidableEq, Repr

/-- A cluster. -/
structure Cluster where
  spad : SMap Byte := []
  spoison : SMap Bool := []
  /-- Latent uncorrectable errors of scratchpad words (R401); matrix positions to come that will disagree: column, row,
  and whether a spare settles it (R398). -/
  sbad : SMap Bool := []
  pmism : List (Nat × Nat × Bool) := []
  /-- Bytes overwritten while matrix commands are pending, oldest first (R216). -/
  past : List PastByte := []
  wo : SMap WoState := []
  readers : List Reader := []
  loaded : Bool := false
  gen : Nat := 0
  win : SMap Word := []
  region : SMap Word := []
  hashkey : Word := 0
  /-- QWT0–7 as set; an unlisted one holds its reset weight (R367). -/
  qwt : SMap (Option Word) := []
  tbk : SMap Word := []
  /-- Token-bucket levels (R368). -/
  bucket : SMap Nat := []
  ptroot : Word := 0
  esp : SMap Word := []
  vdrop : Nat := 0
  gdrop : Nat := 0
  galley : List Pkt := []
  /-- Messages of a vector of a collective whose others are still awaited (R360). -/
  pieces : List Pkt := []
  /-- Messages that a token bucket holds (R368). -/
  held : List Pkt := []
  evq : List BankEvent := []
  colq : List CqEntry := []
  harts : SMap Hart := []
  comb : List CombOp := []
  /-- Oldest operation of a group whose result its site has not passed down (R375). -/
  cbase : SMap Nat := []
  guard : SMap Bool := []
  glog : List GuardTouch := []
  /-- Whole groups that the loader has given to an instance or, on the runtime's request, to a privileged owner (R300). -/
  runs : List GroupRun := []
  /-- Usable groups and the remap table: slot to spare (R319). -/
  ug : Nat := 2048
  remap : SMap (Option Nat) := []
  seidx : Word := 0
  sethr : Word := 64
  suspects : SMap Suspect := []
  stopped : Bool := false
  /-- TIME of the stop: starvation counts hold from it (R403). -/
  stopAt : Nat := 0
  tlb : List Tlb := []
  site : List HeldRec := []
  deriving DecidableEq, Repr

/-! Dies. -/

/-- A checked window descriptor (R312). -/
structure WinDesc where
  dbase : Nat
  dsize : Nat
  sbase : Nat
  scale : Nat
  deriving DecidableEq, Repr

/-- A format window (R311). -/
structure FmtWin where
  reg : Word := 0
  desc : Option WinDesc := none
  deriving DecidableEq, Repr

/-- A waiting RLOG put (R150): the ring's descriptor, position and data. -/
structure RlogWait where
  pkt : Pkt
  desc : Nat
  pos : Nat
  /-- The half of the entry still to be written, of a put that has taken its position (R295). -/
  half : Option Nat := none
  deriving DecidableEq, Repr

/-- A walk (R413): the cluster that asked first, the generation, the 64 KiB of virtual address, the other clusters that wait for it, and once
one of the die's walkers serves it, the levels left and the table to be read. -/
structure Walk where
  cl : Nat
  gen : Nat
  page : Nat
  more : List Nat := []
  left : Nat := 4
  base : Option Nat := none
  deriving DecidableEq, Repr

/-- A forme in a die's store, or a partial forme in its cache (R326, R355). -/
structure Stored where
  fid : Nat
  ver : Nat
  image : List Byte
  partial_ : Bool
  used : Nat
  deriving DecidableEq, Repr

/-- A die. -/
structure Die where
  fmtwin : SMap FmtWin := []
  wunit : SMap Word := []
  wmon : Word := 0
  /-- Reports of the watch units lost since the last one sent (R408). -/
  lostReports : Nat := 0
  rlog : List RlogWait := []
  walks : List Walk := []
  store : List Stored := []
  poweredOff : Bool := false
  deriving DecidableEq, Repr

/-! The package. -/

/-- A line of an LLC slice (R305, R94): its bytes, whether it is dirty, and for an alias line its storage: format,
decoded format, storage bit address and centres of its elements. -/
structure LlcLine where
  data : List Byte
  dirty : Bool
  poison : Bool := false
  alias_ : Option (Nat × Nat × Nat × List Int) := none
  deriving DecidableEq, Repr

/-- The state of an instance (R336). -/
inductive InstState where
  | loading | running | frozen | draining | unloaded
  deriving DecidableEq, Repr

/-- A forme instance (R332–R338). -/
structure Inst where
  gen : Nat
  st : InstState := .loading
  lid : Nat := 0
  first : Nat := 0
  last : Nat := 0
  fid : Nat := 0
  ver : Nat := 0
  priv : Bool := false
  floor : Nat := 0
  port : Option Nat := none
  iCh : Nat := 0
  iCore : Nat := 0
  ntok : Nat := 0
  nextSeq : Nat := 0
  done : Option (Nat × Nat × Nat) := none
  cpl : Nat := 0
  service : Option (Nat × Nat) := none
  /-- Edge table; `none` when the image has no edge section (R350). -/
  edges : Option (List (Node × Node)) := none
  /-- Portal operator declarations: kind, index, mask (R325). -/
  portal : List (Nat × Nat × Nat) := []
  firstFault : Option FaultRec := none
  merged : Nat := 0
  tokenSent : Bool := false
  canc : Nat := 0
  cancd : Nat := 0
  drop : Nat := 0
  tstart : Nat := 0
  rcl : Bool := false
  /-- Nodes the error token has reached (R350, R351). -/
  reached : List Node := []
  deriving DecidableEq, Repr

/-- A stream route of a loaded instance (R369–R371): a port's branch. Kinds: 0 a hart, 1 a region; `flight` are the bytes
pushed and not yet delivered, `here` those present at the consumer. -/
structure Stream where
  gen : Nat
  port : Nat
  branch : Nat
  cls : Nat
  sfmt : Nat
  dfmt : Nat
  conv : Bool
  pkind : Nat
  pcl : Nat
  punit : Nat
  ckind : Nat
  ccl : Nat
  cunit : Nat
  centres : List Int
  /-- The converter's cluster, when the route converts. -/
  node : Nat := 0
  flight : List Byte := []
  here : List Byte := []
  /-- Bytes that the consumer's waiting command needs. -/
  want : Nat := 0
  /-- Bits of the last element not yet whole at the converter and behind it, and elements converted. -/
  inBits : List Bool := []
  outBits : List Bool := []
  count : Nat := 0
  deriving DecidableEq, Repr

/-- An ingress port (R327). Of a launch or placement token it holds the record that the token names, as read when the token
arrived. -/
structure Port where
  tokens : List (List Word × List Word) := []
  stream : Option Nat := none
  discarded : Nat := 0
  proot : Word := 0
  deriving DecidableEq, Repr

/-- A station (R387–R389, R462). -/
structure Station where
  ualink : Bool := false
  /-- The peer reached over the link, if any. -/
  peer : Option Nat := none
  up : Bool := true
  tx : List Pkt := []
  rx : List Pkt := []
  replay : List Pkt := []
  /-- UALink requests waiting for their response; data that has come for an engine hart, by its core's number and the peer's address, none
  where the peer failed; and responses to the peer's own requests (R389). -/
  pend : List Pkt := []
  answers : List (Nat × Nat × Option (List Byte)) := []
  out : List (List Byte) := []
  /-- The bytes that the peer's read now served has read so far, by their place in it (R295). -/
  readPart : List (Nat × Byte) := []
  deriving DecidableEq, Repr

/-- A gang stop or resume that is scheduled, or stopping (R280, R403). -/
structure Stop where
  go : Bool
  first : Nat
  last : Nat
  at_ : Nat
  cmpl : Option Cmpl
  org : Origin
  begun : Bool := false
  deriving DecidableEq, Repr

/-- A FLUSH or TLBINV in progress (R275, R276). -/
structure FlushOp where
  inv : Bool
  va : Nat
  len : Nat
  cl : Nat
  gen : Nat
  priv : Bool
  cmpl : Option Cmpl
  org : Origin
  /-- The commit it issued in and its place there (R171). -/
  job : Nat := 0
  idx : Nat := 0
  deriving DecidableEq, Repr

structure TlbinvOp where
  va : Option Nat
  cmpl : Option Cmpl
  org : Origin
  /-- The commit it issued in and its place there (R171). -/
  job : Nat := 0
  idx : Nat := 0
  /-- The translations are removed; the accesses that may have used them: core and address. -/
  begun : Bool := false
  waits : List (Nat × Nat) := []
  /-- The walks that it has restarted (R413): die, generation and page. -/
  walks : List (Nat × Nat × Nat) := []
  deriving DecidableEq, Repr

/-- A ROUND token on its way: the cores it has not passed (R277, R344). -/
structure RoundOp where
  gen : Nat
  plate : Nat
  left : List Nat
  cmpl : Option Cmpl
  org : Origin
  deriving DecidableEq, Repr

/-- An operating-point step (R320). -/
structure OpStep where
  k : Nat
  cmpl : Option Cmpl
  org : Origin
  deriving DecidableEq, Repr

/-- A failing row (R316): macro kind 0 scratchpad slot, 1 frame SRAM row, 2 L1 line, 3 LLC line of a die's slice; it
fails at `op` and every lower point. -/
structure PruneRow where
  kind : Nat
  cl : Nat
  core : Nat
  row : Nat
  op : Nat
  /-- Added in the field: package reset reloads the map without it (R317). -/
  field : Bool := false
  deriving DecidableEq, Repr

/-- A package's place in a proposal that travels the rank tree (R378): what it has heard from its children. -/
structure Round where
  proposer : Nat
  v : Nat
  members : List Nat
  heard : List Nat := []
  /-- A REJECT below, with the suspects and the lower proposer it names. -/
  reject : Bool := false
  suspects : List Nat := []
  lower : Option Nat := none
  reports : List GroupReport := []
  /-- Children that did not answer. -/
  unanswered : List Nat := []
  answered : Bool := false
  /-- When it reached this package. -/
  since : Nat := 0
  deriving DecidableEq, Repr

/-- A final result: generation, group, operation, the value that came down the tree, and a CRED of this package that has written it to its
destination (R381). -/
structure KeptResult where
  gen : Nat
  grp : Nat
  n : Nat
  v : Option (List Word)
  cred : Option ECmd := none
  deriving DecidableEq, Repr

/-- The view-change protocol of this member (R377–R384). -/
structure Views where
  view : Nat := 0
  /-- In ascending order. -/
  members : List Nat := [ownPkg]
  suspects : List Nat := []
  joins : List Nat := []
  collecting : Bool := false
  /-- B′ of the own proposal, and when it was made. -/
  proposal : Option (List Nat) := none
  proposedAt : Nat := 0
  round : Option Round := none
  /-- A SUSPECT or ACCEPT sent: the view, the proposer and when. -/
  replied : Option (Nat × Nat × Nat) := none
  commit : Option (Nat × List Nat × Nat × List GroupReport) := none
  lastBeat : SMap Nat := []
  /-- Messages sent to other members. -/
  tx : List (Nat × ViewMsg) := []
  /-- Final results of groups that span packages, for resending (R381). -/
  kept : List KeptResult := []
  /-- CJOINs waiting: peer, completion, word, origin (R270). -/
  grafts : List (Nat × Cmpl × Nat × Origin) := []
  deriving DecidableEq, Repr

/-- The host side (R415–R431). -/
structure HostIf where
  /-- Stage reached, READY, operating point reported, thermal stop, bus errors. -/
  stage : Nat := 0
  ready : Bool := false
  tstop : Bool := false
  berr : Nat := 0
  hmw : SMap (BitVec 128) := []
  /-- Host memory as the device last wrote or read it, by host address; the host may have written it since (log entry 8). -/
  hmem : SMap (Option Byte) := []
  evbase : Word := 0
  evlsz : Nat := 0
  evhead : Nat := 0
  evtail : Nat := 0
  evlost : Nat := 0
  msix : List Nat := []
  /-- The MSI-X table and pending-bit array, by offset in their block (R418; log entry 116). -/
  msixTable : SMap Byte := []
  /-- The bytes that the host read at the head of the inputs has read so far, by their place in it (R295). -/
  readPart : List (Nat × Byte) := []
  /-- Replies to host reads and AtomicOps: tag and bytes. -/
  replies : List (Nat × List Byte) := []
  mr : SMap (List Byte) := []
  fkeys : SMap (Option (List Byte)) := []
  fklock : Bool := false
  policy : Bool := false
  /-- The address at which the controller answers on I3C: the static one until ENTDAA (R431). -/
  i3c : Nat := 0x3A
  i3cOut : List (List Byte) := []
  /-- PCAP in watts; package power of the last 1 ms by samples, latest first; die temperatures in 1/16 °C (R428–R430). -/
  pcap : Nat := 3200
  power : List Nat := []
  temps : SMap Nat := []
  /-- Arithmetic cycles gated since reset; samples of the running 100 ms period, and those that were gated. -/
  gates : Nat := 0
  samples : Nat := 0
  gatedSamples : Nat := 0
  /-- Clusters that the thermal stop has stopped (R429). -/
  tstopped : List Nat := []
  deriving DecidableEq, Repr

/-- A dispatch on its way to another package (R385): the package and the reply slot. -/
structure Dispatched where
  pkg : Nat
  cmpl : Cmpl
  gen : Nat
  deriving DecidableEq, Repr

/-- Who executes an instruction: a context of a core, or a hart of a cluster. -/
inductive Who where
  | ctx (core x : Nat)
  | hart (cl h : Nat)
  deriving DecidableEq, Repr

/-- Who moves next: a context, a hart, or the hardware with one of its own steps. -/
inductive Actor where
  | ctx (core x : Nat)
  | hart (cl h : Nat)
  | hw (i : Instr)
  deriving DecidableEq, Repr

/-- The package. -/
structure State where
  cores : SMap Core := []
  clusters : SMap Cluster := []
  dies : SMap Die := []
  /-- HBM4, 2^40 bytes (R307), its poisoned lines, and its write-once state (R308). -/
  hbm : List Host.Cell := []
  hpoison : SMap Bool := []
  /-- Latent uncorrectable errors of HBM4 lines (R179). -/
  hbad : SMap Bool := []
  hwo : SMap WoState := []
  hreaders : List Reader := []
  llc : SMap (Option LlcLine) := []
  /-- Word ownership (R289): word address to owner, core + 1, or 8,193 + cluster when fused. -/
  owner : SMap Nat := []
  time : Nat := 0
  opnow : Nat := 1
  /-- The point whose clocks run: that of OPNOW but between the two ends of a step (R320, R322). -/
  opclock : Nat := 1
  ops : List OpStep := []
  /-- Stage of the first step of `ops`: 0 arrived; 1 announced and fits, 2 evacuated, 3 clocks switched (downward); 4 voltage rising,
  5 voltage reached (upward). -/
  opstage : Nat := 0
  prune : List PruneRow := []
  /-- Bit i: feature i of the capability list (R11, R421). -/
  caps : Nat := 0x7F
  insts : List Inst := []
  ports : SMap Port := []
  completed : List Nat := []
  views : Views := {}
  dispatch : List Dispatched := []
  nextHop : SMap Word := []
  stations : SMap Station := []
  stops : List Stop := []
  flushes : List FlushOp := []
  tlbinvs : List TlbinvOp := []
  rounds : List RoundOp := []
  /-- Group commands given up: the group's key and the sequence number (R225). -/
  mfail : List (Nat × Nat) := []
  host : HostIf := {}
  streams : List Stream := []
  net : List Pkt := []
  /-- Steps of the hardware that are due at a TIME. -/
  timed : List (Nat × Instr) := []
  /-- What has come from outside and has not been taken yet, oldest first (log entry 2). -/
  inputs : List (Instr × Input) := []
  /-- The model's own: the free-value counter, who executes, who moves next (log entries 1 and 2). -/
  freeCtr : Nat := 0
  cur : Who := .ctx 0 0
  next : Option Actor := none
  deriving DecidableEq, Repr

/-- Why the machine stops. -/
inductive Fault where
  /-- Raised by the step when every die is without power (R429): nothing moves until the package is powered again.
  Safe: the machine does nothing either. -/
  | noPower
  deriving DecidableEq, Repr

/-- Why an instruction has no meaning in the model. -/
inductive Refusal where
  /-- Raised by an arm of `exec` whose instruction has no meaning yet. Safe: nothing is said of it. -/
  | notModelled (mnemonic : String)
  deriving DecidableEq, Repr

/-- The package right after cold reset (R42, R34, R426): every register at its reset value, and the steps that recur by the clock
(R377, R399) set up. -/
def State.reset : State := { timed := [(100000, .heartbeat), (23967452, .suspectScoreDecay)] }

end Sys2Proof.Machine
end

