-- ==== Sys2Proof/Machine/Base.lean ====
section
/-! DEFINITION. Named reads and writes of the parts of the state: cores, clusters, contexts and their registers
(R14), byte memories, frames at their resident or spilled place (R20–R23), free values, clocks, instances and fault
records (R394). -/
namespace Sys2Proof.Machine

open Sys2Proof

/-! Parts of the state. -/

def State.core (s : State) (c : Nat) : Core := SMap.get {} s.cores c
def State.setCore (s : State) (c : Nat) (k : Core) : State := { s with cores := SMap.put {} s.cores c k }
def State.modCore (s : State) (c : Nat) (f : Core → Core) : State := s.setCore c (f (s.core c))
def State.cluster (s : State) (c : Nat) : Cluster := SMap.get {} s.clusters c
def State.setCluster (s : State) (c : Nat) (k : Cluster) : State := { s with clusters := SMap.put {} s.clusters c k }
def State.modCluster (s : State) (c : Nat) (f : Cluster → Cluster) : State := s.setCluster c (f (s.cluster c))
def State.die (s : State) (d : Nat) : Die := SMap.get {} s.dies d
def State.setDie (s : State) (d : Nat) (k : Die) : State := { s with dies := SMap.put {} s.dies d k }
def State.modDie (s : State) (d : Nat) (f : Die → Die) : State := s.setDie d (f (s.die d))

def Core.ctx (k : Core) (x : Nat) : Ctx := SMap.get {} k.ctxs x
def Core.setCtx (k : Core) (x : Nat) (c : Ctx) : Core := { k with ctxs := SMap.put {} k.ctxs x c }
def Core.fent (k : Core) (f : Nat) : FEnt := SMap.get {} k.ftab f
def Core.setFent (k : Core) (f : Nat) (e : FEnt) : Core := { k with ftab := SMap.put {} k.ftab f e }
def Core.aslot (k : Core) (i : Nat) : ASlot := SMap.get {} k.slots i
def Core.setAslot (k : Core) (i : Nat) (a : ASlot) : Core := { k with slots := SMap.put {} k.slots i a }
def Core.plate (k : Core) (i : Nat) : Plate := SMap.get {} k.plates i
def Core.setPlate (k : Core) (i : Nat) (p : Plate) : Core := { k with plates := SMap.put {} k.plates i p }
def Cluster.hart (k : Cluster) (h : Nat) : Hart := SMap.get {} k.harts h
def Cluster.setHart (k : Cluster) (h : Nat) (t : Hart) : Cluster := { k with harts := SMap.put {} k.harts h t }

/-- The cluster of a core (COREID, R34). -/
def clOf (core : Nat) : Nat := core / 16
/-- The die of a cluster (COREID, R34). -/
def dieOf (cl : Nat) : Nat := cl / 64

/-- Insertion at the end. -/
def snoc {α : Type} (l : List α) (a : α) : List α := l ++ [a]

/-- Insertion into a list sorted by `le`, behind its equals. -/
def insertBy {α : Type} (le : α → α → Bool) (a : α) : List α → List α
  | [] => [a]
  | x :: t => if le a x then a :: x :: t else x :: insertBy le a t
/-- A list sorted by `le`. -/
def sortBy {α : Type} (le : α → α → Bool) (l : List α) : List α := l.foldr (insertBy le) []

/-! Free values (log entry 1). -/

/-- The counter moves past a free value that was used. -/
def State.fresh (s : State) : State := { s with freeCtr := s.freeCtr + 1 }
/-- The free word at the counter. -/
def State.freeWord (s : State) : Word := Config.freeWord s.freeCtr
/-- The free number at the counter. -/
def State.freeNat (s : State) : Nat := Config.freeNat s.freeCtr

/-! The executing context. -/

/-- The context that executes: a core's, or an engine hart's (R251). -/
def State.cx (s : State) : Ctx :=
  match s.cur with
  | .ctx c x => (s.core c).ctx x
  | .hart cl h => ((s.cluster cl).hart h).ctx

/-- The executing context replaced. -/
def State.setCx (s : State) (k : Ctx) : State :=
  match s.cur with
  | .ctx c x => s.setCore c ((s.core c).setCtx x k)
  | .hart cl h => s.setCluster cl ((s.cluster cl).setHart h { (s.cluster cl).hart h with ctx := k })

def State.modCx (s : State) (f : Ctx → Ctx) : State := s.setCx (f s.cx)

/-- The core that executes; a hart counts as the first core of its cluster. -/
def Who.core : Who → Nat
  | .ctx c _ => c
  | .hart cl _ => 16 * cl
/-- The cluster that executes. -/
def Who.cl : Who → Nat
  | .ctx c _ => clOf c
  | .hart cl _ => cl
/-- The context number; 0 for a hart. -/
def Who.x : Who → Nat
  | .ctx _ x => x
  | .hart _ _ => 0
/-- Whether an engine hart executes. -/
def Who.isHart : Who → Bool
  | .ctx _ _ => false
  | .hart _ _ => true

/-! Registers (R14). -/

/-- g[n]; g0 reads 0. -/
def Ctx.rg (k : Ctx) (n : Nat) : Word := if n = 0 then 0 else SMap.get 0 k.g n
/-- g[n] := v; a write to g0 is discarded. -/
def Ctx.wg (k : Ctx) (n : Nat) (v : Word) : Ctx := if n = 0 then k else { k with g := SMap.put 0 k.g n v }
/-- p[n]; p0 reads 1. -/
def Ctx.rp (k : Ctx) (n : Nat) : Bool := if n = 0 then true else SMap.get false k.p n
/-- p[n] := b; a write to p0 is discarded. -/
def Ctx.wp (k : Ctx) (n : Nat) (b : Bool) : Ctx := if n = 0 then k else { k with p := SMap.put false k.p n b }
def Ctx.rv (k : Ctx) (n : Nat) : VReg := SMap.get 0 k.v n
def Ctx.wv (k : Ctx) (n : Nat) (x : VReg) : Ctx := { k with v := SMap.put 0 k.v n x }
def Ctx.rm (k : Ctx) (n : Nat) : MReg := SMap.get 0 k.m n
def Ctx.wm (k : Ctx) (n : Nat) (x : MReg) : Ctx := { k with m := SMap.put 0 k.m n x }

def State.rg (s : State) (n : Nat) : Word := s.cx.rg n
def State.wg (s : State) (n : Nat) (v : Word) : State := s.setCx (s.cx.wg n v)
def State.rp (s : State) (n : Nat) : Bool := s.cx.rp n
def State.wp (s : State) (n : Nat) (b : Bool) : State := s.setCx (s.cx.wp n b)
def State.rv (s : State) (n : Nat) : VReg := s.cx.rv n
def State.wv (s : State) (n : Nat) (x : VReg) : State := s.setCx (s.cx.wv n x)
def State.rm (s : State) (n : Nat) : MReg := s.cx.rm n
def State.wm (s : State) (n : Nat) (x : MReg) : State := s.setCx (s.cx.wm n x)

/-! Byte memories. -/

/-- The number in `n` bytes from address `a`, the first lowest (R4), of a memory that reads 0 where nothing is listed. -/
def loadN (m : SMap Byte) (a : Nat) : Nat → Nat
  | 0 => 0
  | n + 1 => (SMap.get 0 m a).toNat + 256 * loadN m (a + 1) n

/-- The memory with the low `n` bytes of `v` stored from address `a`. -/
def storeN (m : SMap Byte) (a : Nat) : (n v : Nat) → SMap Byte
  | 0, _ => m
  | n + 1, v => storeN (SMap.put 0 m a (BitVec.ofNat 8 v)) (a + 1) n (v / 256)

/-- Bytes of a memory. -/
def loadBytes (m : SMap Byte) (a : Nat) : Nat → List Byte
  | 0 => []
  | n + 1 => SMap.get 0 m a :: loadBytes m (a + 1) n

/-- A memory with bytes stored from an address. -/
def storeBytes (m : SMap Byte) (a : Nat) : List Byte → SMap Byte
  | [] => m
  | b :: t => storeBytes (SMap.put 0 m a b) (a + 1) t

/-- The number that bytes stand for (R4). -/
def natOfBytes : List Byte → Nat
  | [] => 0
  | b :: t => b.toNat + 256 * natOfBytes t

/-- The low `n` bytes of a number. -/
def bytesOfNat : (n v : Nat) → List Byte
  | 0, _ => []
  | n + 1, v => BitVec.ofNat 8 v :: bytesOfNat n (v / 256)

/-- Bits `hi:lo` of a number. -/
def bits (w hi lo : Nat) : Nat := w / 2 ^ lo % 2 ^ (hi + 1 - lo)
/-- Bits `hi:lo` of a word. -/
def wbits (w : Word) (hi lo : Nat) : Nat := bits w.toNat hi lo
/-- `w` with bits `hi:lo` replaced. -/
def setBits (w : Word) (hi lo v : Nat) : Word :=
  let k := 2 ^ (hi + 1 - lo)
  BitVec.ofNat 64 (w.toNat - wbits w hi lo * 2 ^ lo + (v % k) * 2 ^ lo)

/-- The words of a byte string, 8 bytes each. -/
def wordsOfBytes : (n : Nat) → List Byte → List Word
  | 0, _ => []
  | n + 1, bs => BitVec.ofNat 64 (natOfBytes (bs.take 8)) :: wordsOfBytes n (bs.drop 8)

/-- The bytes of words. -/
def bytesOfWords : List Word → List Byte
  | [] => []
  | w :: t => bytesOfNat 8 w.toNat ++ bytesOfWords t

/-- The cores of a cluster. -/
def coresOf (cl : Nat) : List Nat := (List.range 16).map (16 * cl + ·)

/-! Clocks. -/

/-- The core clock in MHz at an operating point (R315). -/
def coreMHz (op : Nat) : Nat :=
  match op with
  | 0 => 1700
  | 1 => 1400
  | 2 => 1120
  | 3 => 840
  | _ => 600

/-- Nanoseconds that `n` core cycles take, rounded up. -/
def State.cyc (s : State) (n : Nat) : Nat := (n * 1000 + coreMHz s.opclock - 1) / coreMHz s.opclock

/-- The point whose failing granules and ways are withdrawn: that of an announced downward step (R320). -/
def State.announced (s : State) : Nat :=
  match s.ops with
  | o :: _ => if 1 ≤ s.opstage && s.opnow < o.k then o.k else s.opnow
  | [] => s.opnow

/-- A step of the hardware that becomes due `ns` nanoseconds from now. -/
def State.after (s : State) (ns : Nat) (i : Instr) : State := { s with timed := snoc s.timed (s.time + ns, i) }

/-! Instances. -/

/-- The instance with a generation. -/
def State.inst? (s : State) (gen : Nat) : Option Inst := s.insts.find? (fun i => i.gen == gen)
def State.modInst (s : State) (gen : Nat) (f : Inst → Inst) : State :=
  { s with insts := s.insts.map (fun i => if i.gen == gen then f i else i) }
/-- Whether the instance is frozen (R336). -/
def State.isFrozen (s : State) (gen : Nat) : Bool :=
  match s.inst? gen with
  | some i => i.st == .frozen
  | none => false

/-! Frames (R20–R24). -/

/-- Where a byte of a frame lies: the granules of the core's SRAM when resident, its HBM4 home when spilled. -/
def State.frameByte (s : State) (core fid off : Nat) : Byte :=
  let k := s.core core
  let e := k.fent fid
  if e.res then SMap.get 0 k.fsram (256 * e.gran + off)
  else SMap.get 0 s.hbm (k.spillBase.toNat + 4096 * e.home + off)

/-- Bytes of a frame from an offset, as a number. -/
def State.frameN (s : State) (core fid off n : Nat) : Nat :=
  let k := s.core core
  let e := k.fent fid
  if e.res then loadN k.fsram (256 * e.gran + off) n
  else loadN s.hbm (k.spillBase.toNat + 4096 * e.home + off) n

/-- A frame with `n` bytes of `v` stored at an offset. -/
def State.setFrameN (s : State) (core fid off n v : Nat) : State :=
  let k := s.core core
  let e := k.fent fid
  if e.res then s.setCore core { k with fsram := storeN k.fsram (256 * e.gran + off) n v }
  else { s with hbm := storeN s.hbm (k.spillBase.toNat + 4096 * e.home + off) n v }

/-- Word `i` of a frame (SlotWord of R38). -/
def State.slotWord (s : State) (core fid i : Nat) : Word := BitVec.ofNat 64 (s.frameN core fid (8 * i) 8)
/-- Word `i` of a frame written whole; in frame SRAM its poison goes (R402). -/
def State.setSlotWord (s : State) (core fid i : Nat) (w : Word) : State :=
  let s := s.setFrameN core fid (8 * i) 8 w.toNat
  let k := s.core core
  let e := k.fent fid
  if e.res then
    s.setCore core { k with fpoison := SMap.put false k.fpoison (32 * e.gran + i) false, fbad := SMap.put false k.fbad (32 * e.gran + i) false }
  else s

/-- Length of a frame in words (R127). -/
def FEnt.words (e : FEnt) : Nat := 32 * (e.len + 1)

/-- The slot map gains a word that a slot action writes (R23). -/
def State.markSlot (s : State) (core fid i : Nat) : State :=
  s.modCore core fun k =>
    let e := k.fent fid
    k.setFent fid { e with slots := e.slots ||| (1#512 <<< i) }

def FEnt.marked (e : FEnt) (i : Nat) : Bool := e.slots.getLsbD i

/-- One pin more, or one fewer, on a frame (R139). -/
def State.pin (s : State) (core fid : Nat) : State :=
  s.modCore core fun k => k.setFent fid { k.fent fid with pin := (k.fent fid).pin + 1 }
def State.unpin (s : State) (core fid : Nat) : State :=
  s.modCore core fun k => k.setFent fid { k.fent fid with pin := (k.fent fid).pin - 1 }

/-- The reference of a frame on this package (R122). -/
def frameRef (core fid : Nat) : Word := BitVec.ofNat 64 (clOf core * 2 ^ 20 + core % 16 * 2 ^ 16 + fid)

/-- The frame-table entry as FTENT reads it (R21). -/
def FEnt.word (e : FEnt) : Word :=
  BitVec.ofNat 64 ((if e.v then 2 ^ 63 else 0) + (if e.res then 2 ^ 62 else 0) + (if e.freq then 2 ^ 61 else 0)
    + (if e.rld then 2 ^ 60 else 0) + e.len * 2 ^ 56 + e.pin % 2 ^ 16 * 2 ^ 32 + e.home * 2 ^ 16 + e.gran)

/-- One element of a list removed. -/
def removeOne {α : Type} [BEq α] (a : α) : List α → List α
  | [] => []
  | x :: t => if x == a then t else x :: removeOne a t

/-! Places. -/

/-- The place `n` bytes further on in the same page. -/
def Loc.plus : Loc → Nat → Loc
  | .spad c o, n => .spad c (o + n)
  | .mem a, n => .mem (a + n)
  | .side a w, n => .side (a + n) w
  | .host w o, n => .host w (o + n)
  | .peer t a, n => .peer t (a + n)
  | .guard v, n => .guard (v + n)
  | .dev a, n => .dev (a + n)

/-- The die on which a physical address has its home (R307, R310). -/
def homeDie (pa : Nat) : Nat := if bits pa 51 48 = 1 then bits pa 47 45 else bits pa 39 36 / 2

/-- The home slice number within the die (R305). -/
def homeSlice (pa : Nat) : Nat := Nat.xor (Nat.xor (bits pa 11 6) (bits pa 17 12)) (bits pa 23 18)

/-- The cluster at which the torus reaches a place (R364): the owner of a scratchpad, or the cluster beside the home slice. -/
def Loc.stop : Loc → Option Nat
  | .spad c _ => some c
  | .mem a | .side a _ => some (64 * homeDie a + homeSlice a)
  | _ => none

/-- The core that stands for a place as a destination: the first of that cluster. -/
def Loc.node (l : Loc) : Nat := 16 * l.stop.getD 0

/-! Messages. -/

/-- The bytes a memory access names. -/
def Pkt.locs (p : Pkt) : List Loc :=
  match p.body with
  | .store ws _ _ => ws.map (·.1)
  | .ldfar ls _ _ _ _ _ _ _ => ls.map (·.2)
  | .atomic r => (List.range r.n).map r.loc.plus
  | .istw l _ _ _ _ | .istwClr l _ _ _ | .isrd l _ _ _ _ _ => (List.range 8).map l.plus
  | _ => []

/-- A store, an atomic or an LDFAR (R180). -/
def Body.isMem : Body → Bool
  | .store _ _ _ | .ldfar _ _ _ _ _ _ _ _ | .atomic _ | .istw _ _ _ _ _ | .istwClr _ _ _ _ | .isrd _ _ _ _ _ _ => true
  | _ => false

/-- An entry whose performance later entries of its activation wait for (R171, R180, R256), and whether it writes memory (R285).
A signalling entry is never waited for. -/
def Body.waits : Body → Option Bool
  | .store _ _ _ | .atomic _ | .rlogPut _ _ _ _ _ | .rlogRet _ _ _ _ => some true
  | .ldfar _ _ _ _ _ _ _ _ | .isrd _ _ _ _ _ _ | .slotset _ _ _ _ | .slotadd _ _ _ | .chblk _ | .chunb _ | .falloc _ _ _
  | .sbevt _ _ _ _ _ _ _ _ | .contrib _ _ _ _ => some false
  | _ => none

/-- Payload bytes (R360). -/
def Body.payload : Body → Nat
  | .sendf _ _ _ ws => 8 * ws.length
  | .chan _ p => p.length
  | .store ws _ _ => ws.length
  | .atomic r => if r.op = .cas then 2 * r.n else r.n
  | .complete _ ws _ _ | .ldfarResp ws _ _ | .atomicResp ws _ _ => 8 * ws.length
  | .istw _ _ _ _ _ | .rlogRet _ _ _ _ | .slotset _ _ _ _ | .sbevt _ _ _ _ _ _ _ _ => 8
  | .rlogPut _ _ _ _ _ => 136
  | .contrib _ _ _ v | .result _ _ _ _ v => 8 * (v.getD []).length
  | .fault r => 8 * (r.words 0).length
  | _ => 0

/-- Flits (R360): a header and the payload. -/
def Pkt.flits (p : Pkt) : Nat := 1 + (p.body.payload + 31) / 32

/-- The messages that a vector of a collective takes: 28 elements fill one (R360, R376; log entry 38). -/
def Pkt.split (p : Pkt) : List Pkt :=
  let cut (l : List Word) (f : List Word → Body) : List Pkt :=
    let m := (l.length + 27) / 28
    if m ≤ 1 then [p] else (List.range m).map fun i => { p with body := f ((l.drop (28 * i)).take 28), part := (i, m) }
  match p.body with
  | .contrib g n pos (some l) => cut l fun ws => .contrib g n pos (some ws)
  | .result g n site 0 (some l) => cut l fun ws => .result g n site 0 (some ws)
  | _ => [p]

/-- Both carry parts of one vector. -/
def Body.sameVector (a b : Body) : Bool :=
  match a, b with
  | .contrib g n pos _, .contrib h m pos' _ => g == h && n == m && pos == pos'
  | .result g n site _ _, .result h m site' _ _ => g == h && n == m && site == site'
  | _, _ => false

/-- The elements that a message of a collective carries. -/
def Body.elements : Body → List Word
  | .contrib _ _ _ v | .result _ _ _ _ v => v.getD []
  | _ => []

/-- The message with the elements of all parts. -/
def Body.withElements (b : Body) (ws : List Word) : Body :=
  match b with
  | .contrib g n pos _ => .contrib g n pos (some ws)
  | .result g n site pos _ => .result g n site pos (some ws)
  | b => b

/-- The source of messages that no core sends, which R129 orders with nothing; and of what a cluster's combining site or fault site
sends, of the answers that leave a cluster, and of those of a slice to its own die. -/
def noCore : Nat := 16384
def siteSrc (cl : Nat) : Nat := noCore + 16 + cl
def answerSrc (cl : Nat) : Nat := noCore + 8192 + cl
def ringSrc (cl : Nat) : Nat := noCore + 4096 + cl

/-- An answer of a slice to its own die. -/
def Pkt.onRing (p : Pkt) : Bool := ringSrc 0 ≤ p.src && decide (p.src < ringSrc 512)

/-- The cluster at whose injection port a packet enters the torus; none where no cluster of the package sends it. -/
def Pkt.port (p : Pkt) : Option Nat :=
  if p.src < noCore then some (clOf p.src)
  else if siteSrc 0 ≤ p.src && decide (p.src < siteSrc 512) then some (p.src - siteSrc 0)
  else if answerSrc 0 ≤ p.src && decide (p.src < answerSrc 512) then some (p.src - answerSrc 0)
  else none

/-- A packet that enters the torus: to another package, to another cluster, or to memory of another die (R364). -/
def Pkt.injects (p : Pkt) (cl : Nat) : Bool :=
  match p.dpkg with
  | some d => d != ownPkg || clOf p.dst != cl
  | none =>
    if p.body.isMem && p.locs.all (fun
        | .spad _ _ => false
        | _ => true)
    then dieOf (clOf p.dst) != dieOf cl
    else clOf p.dst != cl

/-! Token buckets (R368). -/

/-- The bucket of a class lets a message of `f` flits in (R368). -/
def Cluster.bucketLets (g : Cluster) (cls f : Nat) : Bool :=
  let v := SMap.get 0 g.tbk cls
  let lvl := SMap.get 0 g.bucket cls
  wbits v 31 16 == 0 || decide (f ≤ lvl) || (lvl == wbits v 47 32 && decide (wbits v 47 32 < f))

/-- The bucket after a message of `f` flits. -/
def Cluster.bucketTake (g : Cluster) (cls f : Nat) : Cluster :=
  if wbits (SMap.get 0 g.tbk cls) 31 16 = 0 then g else { g with bucket := SMap.put 0 g.bucket cls (SMap.get 0 g.bucket cls - f) }

/-- A packet passes the injection port of its cluster (R368): behind a held message of its class, or with too little in the bucket, it
is held; otherwise `go` takes it. -/
def State.passPort (s : State) (p : Pkt) (go : State → State) : State :=
  match p.port with
  | none => go s
  | some cl =>
    let g := s.cluster cl
    if !p.injects cl then go s
    else if g.held.any (·.cls == p.cls) || !g.bucketLets p.cls p.flits then s.setCluster cl { g with held := snoc g.held p }
    else go (s.setCluster cl (g.bucketTake p.cls p.flits))

/-- A packet in the package's network. -/
def State.route (s : State) (p : Pkt) : State := { s with net := snoc s.net p }

/-- A packet sent within the package (R368). -/
def State.sendPkt (s : State) (p : Pkt) : State := s.passPort p fun s => s.route p

/-- All messages of a packet sent within the package. -/
def State.sendAll (s : State) (p : Pkt) : State := p.split.foldl State.sendPkt s

/-- A message of a collective at its cluster: with the last of those that carry one vector, the whole of it. -/
def State.gather (s : State) (p : Pkt) : Option Pkt × State :=
  if p.part.2 ≤ 1 then (some p, s)
  else
    let g := s.cluster (clOf p.dst)
    let same (q : Pkt) : Bool := q.src == p.src && q.spkg == p.spkg && q.dst == p.dst && q.body.sameVector p.body
    let parts := p :: g.pieces.filter fun q => same q && q.part.1 != p.part.1
    let rest := g.pieces.filter fun q => !same q
    if parts.length < p.part.2 then (none, s.setCluster (clOf p.dst) { g with pieces := rest ++ parts })
    else
      let ws := (sortBy (fun (a b : Pkt) => decide (a.part.1 ≤ b.part.1)) parts).flatMap (·.body.elements)
      (some { p with body := p.body.withElements ws, part := (0, 1) }, s.setCluster (clOf p.dst) { g with pieces := rest })


/-- A packet from the origin's core. -/
def Origin.pkt (org : Origin) (dst tag cls : Nat) (body : Body) : Pkt :=
  { org := org, src := org.core, dst := dst, tag := tag, cls := cls, gen := org.gen, body := body }

/-- The source of a response: none of a core (R129); of one that comes from another cluster, that cluster's injection port (R368). -/
def respSrc (from_ : Option Nat) (dst : Nat) : Nat :=
  match from_ with
  | some cl => if cl = clOf dst then noCore else answerSrc cl
  | none => noCore

/-- A response or completion: it leaves no core, and keeps no order (R129). -/
def Origin.resp (org : Origin) (dst tag : Nat) (body : Body) (from_ : Option Nat := none) : Pkt :=
  { org.pkt dst tag 2 body with src := respSrc from_ dst }

/-- The cluster from which the response to a packet enters the torus (R364, R368); none where it stays on the die of a memory. -/
def Pkt.backFrom (p : Pkt) : Option Nat :=
  let onDie : Bool := match p.body with
    | .rlogPut _ _ _ _ _ | .rlogRet _ _ _ _ => true
    | b => b.isMem && p.locs.all fun
      | .spad _ _ => false
      | _ => true
  if onDie && dieOf (clOf p.dst) == dieOf (clOf p.org.core) then none else some (clOf p.dst)

/-- A response that leaves the cluster at which the torus reaches a place (R364), unless it stays on the die of a memory. -/
def Origin.answer (org : Origin) (l : Option Loc) (dst tag cls : Nat) (body : Body) : Pkt :=
  let src := match l with
    | some (.spad c _) => answerSrc c
    | some (.mem a) | some (.side a _) =>
      (if homeDie a = dieOf (clOf dst) then ringSrc else answerSrc) (64 * homeDie a + homeSlice a)
    | _ => noCore
  { org.pkt dst tag cls body with src := src }

/-- An access of a core has been performed (R180): nothing waits for it any longer. -/
def State.noted (s : State) (p : Pkt) : State :=
  match p.body.waits with
  | none => s
  | some w =>
    if noCore ≤ p.src then s else s.modCore p.src fun k => { k with outst := removeOne (p.job, p.idx, w) k.outst }

/-! Fault records (R394, R395). -/

/-- A fault record as the class 0 message that carries it to the site of a cluster (R394, R395). -/
def FaultRec.pkt (r : FaultRec) (cl : Nat) (from_ : Option Nat := none) : Pkt :=
  { org := { core := r.core, node := r.node, tag := r.tag, gen := r.gen }, src := respSrc from_ (16 * cl), dst := 16 * cl, tag := r.tag, cls := 0
    gen := r.gen, body := .fault r }

/-- A fault record against the instance of the origin's generation; it goes to the site of the origin's cluster. -/
def State.raise (s : State) (org : Origin) (cause : Nat) (imprecise : Bool) (tval : Nat) (node : Node) (epc : Nat := 0)
    (from_ : Option Nat := none) : State :=
  s.sendPkt (FaultRec.pkt
    { cause := cause, imprecise := imprecise, tval := tval, time := s.time, tag := org.tag, gen := org.gen,
      core := org.core, epc := epc, node := node } (clOf org.core) from_)

/-- An imprecise record with the origin's own node. -/
def State.record (s : State) (org : Origin) (cause tval : Nat) : State := s.raise org cause true tval org.node

/-- The origin of what the executing context does. -/
def State.origin (s : State) : Origin :=
  let k := s.cx
  match s.cur with
  | .hart cl _ => { core := 16 * cl, node := .chan (16 * cl) 0, tag := 0, gen := (s.cluster cl).gen, kind := 1 }
  | .ctx c _ =>
    { core := c, tag := k.act.tag, gen := k.gen, kind := 0
      node := match k.act.fid with
        | some f => .slot c f k.act.ix
        | none => .chan c k.act.ix }

/-- ErrClass of R39. -/
def errClass (cause : Nat) : Nat :=
  match cause with
  | 0 => 0
  | 0x12 => 1
  | 0x19 | 0x1A => 2
  | 0x03 | 0x09 | 0x0A | 0x0C => 3
  | 0x08 => 4
  | 0x10 | 0x11 => 5
  | 0x16 => 6
  | _ => 7

/-- The error word of a failed completion (R169). -/
def errorWord (cause : Nat) : Word := BitVec.ofNat 64 (2 ^ 63 + cause % 256)

/-! Completions. -/

/-- The signal of a completion slot (R206, R207): an ordinary signal, or an ErrorSignal when `err` is a cause. -/
def State.signal (s : State) (org : Origin) (c : Cmpl) (err : Nat) (unpin : Bool) (from_ : Option Nat := none) : State :=
  s.sendPkt (org.resp c.core c.tag (.sig c.fid c.k err none unpin) from_)

/-- A completion with a slot to name, or, with none, a fault record when it failed. -/
def State.complete (s : State) (org : Origin) (c : Option Cmpl) (err tval : Nat) (unpin : Bool := false)
    (from_ : Option Nat := none) : State :=
  match c with
  | some c => s.signal org c err unpin from_
  | none => if err = 0 then s else s.record org err tval

/-- The bits of a register that a write sets (R7, R34, R37, R367, R368, R392, R400, R408, R412, R460). -/
def writable (num : Nat) : Nat :=
  match num with
  | 0x00B => 2 ^ 63 + 2 ^ 57 - 2 ^ 40 + 2 ^ 36 - 2 ^ 20 + 2 ^ 16 - 1
  | 0x102 => 2 ^ 64 - 1
  | 0x00C => 0x1F1
  | 0x800 => 0xFFFF
  | 0x801 => 2 ^ 52 - 2 ^ 20
  | 0x802 => 0xFFF
  | 0x840 => 2 ^ 63 + 2 ^ 52 - 2 ^ 14
  | 0x950 => 2 ^ 63 + 2 ^ 31 - 1
  | 0x960 => 0x3FF
  | 0x962 => 0xFF
  | _ =>
    if 0x110 ≤ num ∧ num ≤ 0x117 then 2 ^ 64 - 1
    else if 0x880 ≤ num ∧ num ≤ 0x88F then 2 ^ 64 - 2 ^ 55 + 2 ^ 52 - 1
    else if 0x820 ≤ num ∧ num ≤ 0x827 then 0xFF
    else if 0x830 ≤ num ∧ num ≤ 0x837 then 2 ^ 48 - 1
    else 0

/-- A register's value after a write of `v` (R7). -/
def regAfter (num : Nat) (old v : Word) : Word :=
  let m : Word := BitVec.ofNat 64 (writable num)
  (old &&& ~~~m) ||| (v &&& m)

end Sys2Proof.Machine
end

