-- ==== Sys2Proof/Machine/StateWindow.lean ====
section
/-! DEFINITION. The state window of a stopped cluster (R407). Areas whose byte layout the manual gives are read and
written as it lays them out; in the others the fields are those the manual lists, and the bytes that stand for them are
the part's (`Config.winPack`, log entry 21). -/
namespace Sys2Proof.Machine

open Sys2Proof

/-- One byte of a number. -/
def byteOf (v i : Nat) : Byte := BitVec.ofNat 8 (v / 2 ^ (8 * i))
/-- A number with one byte replaced. -/
def withByte (v i : Nat) (b : Byte) : Nat := v - v / 2 ^ (8 * i) % 256 * 2 ^ (8 * i) + b.toNat * 2 ^ (8 * i)

/-- The frame-table entry that a word describes (R21); slot map and held state stay. -/
def FEnt.ofWord (e : FEnt) (w : Nat) : FEnt :=
  { e with v := w.testBit 63, res := w.testBit 62, freq := w.testBit 61, rld := w.testBit 60, len := bits w 59 56,
           pin := bits w 47 32, home := bits w 23 16, gran := bits w 7 0 }

/-- The code of a slot state (R407). -/
def SlotState.code : SlotState → Nat
  | .free => 0
  | .busy => 1
  | .held => 2
  | .orphaned => 3
  | .state => 4
def SlotState.ofCode (n : Nat) : Option SlotState :=
  match n with
  | 0 => some .free
  | 1 => some .busy
  | 2 => some .held
  | 3 => some .orphaned
  | 4 => some .state
  | _ => none

/-- The word of an accumulator slot in the window (R407). -/
def ASlot.word (a : ASlot) : Nat := a.st.code + 8 * (a.ctx % 4) + (if a.orphan then 32 else 0)
def ASlot.ofWord (a : ASlot) (w : Nat) : ASlot :=
  match SlotState.ofCode (w % 8) with
  | some st => { a with st := st, ctx := w / 8 % 4, orphan := w.testBit 5 }
  | none => a

/-- Fields of a ready entry (R407). -/
def Act.fields (a : Act) : List Nat :=
  [(match a.fid with | some f => f + 1 | none => 0), a.plate, a.off8, a.level, a.tag, if a.err then 1 else 0, a.ecls, a.ix,
   a.since, (match a.aff with | some x => x + 1 | none => 0)]
def Act.ofFields (a : Act) (l : List Nat) : Act :=
  let f i := l.getD i 0
  { a with fid := if f 0 = 0 then none else some (f 0 - 1), plate := f 1, off8 := f 2, level := f 3, tag := f 4,
           err := f 5 % 2 == 1, ecls := f 6, ix := f 7, since := f 8, aff := if f 9 = 0 then none else some (f 9 - 1) }

/-- Fields of a held message: destination core, route tag, generation, and of a channel message channel and payload, of a contribution its
group, operation, position and value (R372). -/
def Pkt.fields (p : Pkt) : List Nat :=
  [p.dst, p.tag, p.gen] ++ match p.body with
    | .chan ch payload => [0, ch] ++ payload.map (·.toNat)
    | .contrib grp n pos (some v) => [1, grp, n, pos] ++ v.map (·.toNat)
    | .contrib grp n pos none => [2, grp, n, pos]
    | _ => [3]
/-- A message with these fields; what they do not name stays that of `p`. -/
def Pkt.ofFields (p : Pkt) (l : List Nat) : Pkt :=
  let f i := l.getD i 0
  { p with
    dst := f 0, tag := f 1, gen := f 2
    body := match f 3 with
      | 0 => .chan (f 4) ((l.drop 5).map (BitVec.ofNat 8))
      | 1 => .contrib (f 4) (f 5) (f 6) (some ((l.drop 7).map (BitVec.ofNat 64)))
      | 2 => .contrib (f 4) (f 5) (f 6) none
      | _ => p.body }
/-- The entry that a write makes where there was none: its sender is the runtime. -/
def Pkt.blank (gen : Nat) : Pkt :=
  { org := { core := noCore, gen := gen, kind := 5 }, src := noCore, dst := 0, tag := 0, cls := 2, gen := gen, body := .chan 0 [] }

/-- A list whose entry `i` is the one that fields describe: replaced, added at the end, or, with no fields, taken out. -/
def putEntry {α : Type} (l : List α) (i : Nat) (fs : List Nat) (a : α) : List α :=
  if fs.isEmpty then l.eraseIdx i else if i < l.length then l.set i a else snoc l a

/-- Groups of fields, each behind its length. -/
def splitGroups : (fuel : Nat) → List Nat → List (List Nat)
  | 0, _ => []
  | _, [] => []
  | fuel + 1, n :: t => t.take n :: splitGroups fuel (t.drop n)
def joinGroups (ls : List (List Nat)) : List Nat := ls.flatMap fun l => l.length :: l

def Reader.fields (r : Reader) : List Nat := [r.addr, r.w, r.cmpl.core, r.cmpl.fid, r.cmpl.k, r.cmpl.tag, r.gen]
def Reader.ofFields (old : Option Reader) (l : List Nat) : Reader :=
  let f i := l.getD i 0
  { addr := f 0, w := f 1, cmpl := ⟨f 2, f 3, f 4, f 5⟩, gen := f 6
    org := match old with
      | some r => r.org
      | none => { core := f 2, gen := f 6, kind := 5 } }

/-- Fields of a command of a hart: w0–w6 and its completion slot (R252). -/
def ECmd.fields (c : ECmd) : List Nat :=
  (List.range 7).map (fun i => (c.w.getD i 0).toNat) ++ match c.cmpl with
    | some k => [k.core, k.fid, k.k, k.tag]
    | none => []
/-- A command with these fields; what they do not name stays that of `c`. -/
def ECmd.ofFields (c : ECmd) (l : List Nat) : ECmd :=
  { c with
    w := (List.range 7).map fun i => BitVec.ofNat 64 (l.getD i 0)
    cmpl := match l.drop 7 with
      | [core, fid, k, tag] => some ⟨core, fid, k, tag⟩
      | _ => none }
/-- The command that a write adds to a hart's queue. -/
def ECmd.blank (hart cl gen : Nat) : ECmd := { w := [], hart := hart, org := { core := 16 * cl, gen := gen, kind := 5 }, cmpl := none }

/-- Registers, program counter and stacks of an engine hart, in groups (R14, R251). -/
def Ctx.groups (k : Ctx) : List (List Nat) :=
  [(List.range 32).map fun i => (k.rg i).toNat, (List.range 32).map fun i => (k.rv i).toNat,
   (List.range 8).map fun i => if k.rp i then 1 else 0, (List.range 8).map fun i => (k.rm i).toNat,
   [k.off, k.fpctl.toNat, k.geom.toNat], k.links.flatMap fun (p, o) => [p, o],
   k.loops.flatMap fun l => [l.start, l.stop, l.count, l.lsd]]
/-- A stack of entries of `n` fields. -/
def chunks : (fuel n : Nat) → List Nat → List (List Nat)
  | 0, _, _ => []
  | _, _, [] => []
  | fuel + 1, n, l => l.take n :: chunks fuel n (l.drop n)
def Ctx.ofGroups (k : Ctx) (gs : List (List Nat)) : Ctx :=
  let f (j i : Nat) : Nat := (gs.getD j []).getD i 0
  let k := (List.range 32).foldl (fun k i => (k.wg i (BitVec.ofNat 64 (f 0 i))).wv i (BitVec.ofNat 1024 (f 1 i))) k
  let k := (List.range 8).foldl (fun k i => (k.wp i (f 2 i % 2 == 1)).wm i (BitVec.ofNat 128 (f 3 i))) k
  { k with
    off := f 4 0 % 8192, fpctl := regAfter 0x00C 0 (BitVec.ofNat 64 (f 4 1)), geom := regAfter 0x00B 0 (BitVec.ofNat 64 (f 4 2))
    links := (chunks 8 2 (gs.getD 5 [])).map fun l => (l.getD 0 0 % 4, l.getD 1 0 % 2 ^ 15)
    loops := (chunks 2 4 (gs.getD 6 [])).map fun l => ⟨l.getD 0 0, l.getD 1 0, l.getD 2 0, l.getD 3 0 % 16⟩ }

/-- Fields of an engine hart: registers and stacks, plate, queued commands. -/
def Hart.fields (h : Hart) : List Nat := joinGroups (h.ctx.groups ++ [[loadN h.plate 0 8192]] ++ h.q.map ECmd.fields)
/-- Hart `j` of cluster `cl` with these fields. -/
def Hart.ofFields (h : Hart) (cl gen j : Nat) (l : List Nat) : Hart :=
  let gs := splitGroups 24 l
  { h with ctx := h.ctx.ofGroups gs, plate := storeN [] 0 8192 ((gs.getD 7 []).getD 0 0)
           q := ((gs.drop 8).take 16).mapIdx fun i fs => ((h.q[i]?).getD (ECmd.blank j cl gen)).ofFields fs }

/-- Fields of a core's area at 0x074_0000: mailboxes, registers, armed timers. -/
def Core.winFields (k : Core) : List Nat :=
  (List.range 8).map (fun i => (SMap.get 0 k.mailbox i).toNat)
    ++ [k.starvw.toNat, k.wdog.toNat, k.tvec.toNat, k.spillBase.toNat, k.ftidx.toNat]
    ++ k.timers.flatMap fun t => [t.at_, t.cmpl.fid, t.cmpl.k, t.cmpl.tag]
/-- The core with these fields; reserved fields of a register stay 0 (R8), and a timer that is added belongs to the instance `gen`. -/
def Core.ofWinFields (k : Core) (core gen : Nat) (l : List Nat) : Core :=
  let w i := BitVec.ofNat 64 (l.getD i 0)
  { k with mailbox := (List.range 8).foldl (fun m i => SMap.put 0 m i (w i)) k.mailbox
           starvw := w 8, wdog := w 9, tvec := regAfter 0x800 0 (w 10), spillBase := regAfter 0x801 0 (w 11), ftidx := regAfter 0x802 0 (w 12)
           timers := (chunks 16 4 (l.drop 13)).mapIdx fun j fs =>
             let f i := fs.getD i 0
             { (k.timers[j]?).getD { at_ := 0, cmpl := ⟨core, 0, 0, 0⟩, gen := gen } with at_ := f 0, cmpl := ⟨core, f 1, f 2, f 3⟩ } }

/-- A unit of an area whose byte layout is open: area, first offset, bytes, core, entry. -/
structure WinUnit where
  area : Nat
  base : Nat
  size : Nat
  core : Nat
  ix : Nat
  deriving DecidableEq, Repr

/-- The open unit that an offset of the window lies in (R407). -/
def openUnit (cl off : Nat) : Option WinUnit :=
  let c := 16 * cl
  if 0x580000 ≤ off && off < 0x5C0000 then
    let o := off - 0x580000
    some ⟨0, off - o % 16, 16, c + o / 16384, o % 16384 / 16⟩
  else if 0x5C0000 ≤ off && off < 0x5E0000 then
    let o := off - 0x5C0000
    some ⟨1, off - o % 8192, 8192, c + o / 8192, 0⟩
  else if 0x700000 ≤ off && off < 0x710000 then some ⟨2, off - off % 16, 16, c, (off - 0x700000) / 16⟩
  else if 0x710000 ≤ off && off < 0x714000 then some ⟨3, off - off % 256, 256, c, (off - 0x710000) / 256⟩
  else if 0x720000 ≤ off && off < 0x724000 then some ⟨4, off - off % 16, 16, c, (off - 0x720000) / 16⟩
  else if 0x730000 ≤ off && off < 0x740000 then some ⟨5, 0x730000, 0x10000, c, 0⟩
  else if 0x740000 ≤ off && off < 0x741000 then some ⟨6, off - off % 256, 256, c + (off - 0x740000) / 256, 0⟩
  else none

/-- The fields that an open unit holds. -/
def State.unitFields (s : State) (u : WinUnit) : List Nat :=
  let k := s.core u.core
  let g := s.cluster (clOf u.core)
  match u.area with
  | 0 => (k.ready[u.ix]?.map Act.fields).getD []
  | 1 => (List.range 64).map (fun i => (SMap.get 0 k.tasks i).toNat)
      ++ joinGroups (k.inputQ.map Pkt.fields)
  | 2 => (g.evq[u.ix]?.map fun e => [e.core, e.slot, e.row, e.ev.toNat]).getD []
  | 3 => (g.galley[u.ix]?.map Pkt.fields).getD []
  | 4 => (g.readers[u.ix]?.map Reader.fields).getD []
  | 5 => joinGroups ((List.range 3).map fun h => (g.hart h).fields)
  | _ => k.winFields

/-- The fields of a task-table word (R27). -/
def taskMask : Word := 0xC3CFFFFF

/-- The state with an open unit's fields replaced. -/
def State.setUnit (s : State) (u : WinUnit) (l : List Nat) : State :=
  let k := s.core u.core
  let cl := clOf u.core
  let g := s.cluster cl
  let f i := l.getD i 0
  match u.area with
  | 0 =>
    let old := (k.ready[u.ix]?).getD { id := k.acts * 8192 + u.core }
    s.setCore u.core { k with ready := putEntry k.ready u.ix l (old.ofFields l), acts := k.acts + 1 }
  | 1 =>
    let tasks := (List.range 64).foldl (fun m i => SMap.put 0 m i (BitVec.ofNat 64 (f i) &&& taskMask)) k.tasks
    s.setCore u.core { k with
      tasks := tasks
      inputQ := (splitGroups 16 (l.drop 64)).mapIdx fun i fs => ((k.inputQ[i]?).getD (Pkt.blank g.gen)).ofFields fs }
  | 2 => s.setCluster cl { g with evq := putEntry g.evq u.ix l ⟨f 0, f 1, f 2, BitVec.ofNat 64 (f 3)⟩ }
  | 3 => s.setCluster cl { g with galley := putEntry g.galley u.ix l (((g.galley[u.ix]?).getD (Pkt.blank g.gen)).ofFields l) }
  | 4 => s.setCluster cl { g with readers := putEntry g.readers u.ix l (Reader.ofFields g.readers[u.ix]? l) }
  | 5 => s.setCluster cl ((splitGroups 3 l).foldl (fun (r : Nat × Cluster) x =>
      (r.1 + 1, r.2.setHart r.1 ((r.2.hart r.1).ofFields cl g.gen r.1 x))) (0, g)).2
  | _ => s.setCore u.core (k.ofWinFields u.core g.gen l)

/-- One byte of the window. -/
def State.winByte (s : State) (cl off : Nat) : Byte :=
  let g := s.cluster cl
  if off < 0x400000 then if off < 2048 * g.ug then SMap.get 0 g.spad off else 0
  else if off < 0x500000 then
    let o := off - 0x400000
    SMap.get 0 (s.core (16 * cl + o / 65536)).fsram (o % 65536)
  else if off < 0x580000 then
    let o := off - 0x500000
    byteOf ((s.core (16 * cl + o / 32768)).fent (o % 32768 / 8)).word.toNat (o % 8)
  else if 0x600000 ≤ off && off < 0x6A0000 then
    let o := off - 0x600000
    let k := s.core (16 * cl + o / 40960)
    let r := o % 40960
    if r < 32768 then byteOf (SMap.get 0 (k.aslot (r / 8192)).acc (r % 8192 / 8)).toNat (r % 8)
    else if r < 32800 then byteOf (k.aslot ((r - 32768) / 8)).word (r % 8)
    else 0
  else match openUnit cl off with
    | some u => byteOf (Config.winPack u.area (s.unitFields u)) (off - u.base)
    | none => 0

/-- One byte of an area whose layout the manual gives written. -/
def State.putWinByte (s : State) (cl off : Nat) (b : Byte) : State :=
  let g := s.cluster cl
  if off < 0x400000 then
    if off < 2048 * g.ug then s.setCluster cl { g with spad := SMap.put 0 g.spad off b } else s
  else if off < 0x500000 then
    let o := off - 0x400000
    s.modCore (16 * cl + o / 65536) fun k => { k with fsram := SMap.put 0 k.fsram (o % 65536) b }
  else if off < 0x580000 then
    let o := off - 0x500000
    s.modCore (16 * cl + o / 32768) fun k =>
      let e := k.fent (o % 32768 / 8)
      k.setFent (o % 32768 / 8) (e.ofWord (withByte e.word.toNat (o % 8) b))
  else if 0x600000 ≤ off && off < 0x6A0000 then
    let o := off - 0x600000
    s.modCore (16 * cl + o / 40960) fun k =>
      let r := o % 40960
      if r < 32768 then
        let a := k.aslot (r / 8192)
        let i := r % 8192 / 8
        k.setAslot (r / 8192) { a with acc := SMap.put 0 a.acc i (BitVec.ofNat 40 (withByte (SMap.get 0 a.acc i).toNat (r % 8) b)) }
      else if r < 32800 then
        let j := (r - 32768) / 8
        k.setAslot j ((k.aslot j).ofWord (withByte (k.aslot j).word (r % 8) b))
      else k
  else s

/-- A write of bytes to the window: open units change as a whole, other areas byte by byte. -/
def State.winWrite (s : State) (cl off : Nat) : (fuel : Nat) → List Byte → State
  | 0, _ => s
  | _, [] => s
  | fuel + 1, b :: t =>
    match openUnit cl off with
    | none => (s.putWinByte cl off b).winWrite cl (off + 1) fuel t
    | some u =>
      let n := u.base + u.size - off
      let v := Config.winPack u.area (s.unitFields u)
      let v := (List.zip (List.range n) (b :: t)).foldl (fun v (i, x) => withByte v (off - u.base + i) x) v
      (s.setUnit u (Config.winUnpack u.area v)).winWrite cl (off + n) fuel ((b :: t).drop n)

/-- A byte of the window lies in a poisoned word of the scratchpad or of a frame SRAM (R402). -/
def State.winPoison (s : State) (cl off : Nat) : Bool :=
  if off < 0x400000 then SMap.get false (s.cluster cl).spoison (off / 8)
  else if off < 0x500000 then
    let o := off - 0x400000
    SMap.get false (s.core (16 * cl + o / 65536)).fpoison (o % 65536 / 8)
  else false

/-- A word of the window holds new data in all of its bytes and is sound (R402). -/
def State.winHeal (s : State) (cl off : Nat) : State :=
  if off < 0x400000 then
    s.modCluster cl fun g => { g with spoison := SMap.put false g.spoison (off / 8) false, sbad := SMap.put false g.sbad (off / 8) false }
  else if off < 0x500000 then
    let o := off - 0x400000
    s.modCore (16 * cl + o / 65536) fun k =>
      { k with fpoison := SMap.put false k.fpoison (o % 65536 / 8) false, fbad := SMap.put false k.fbad (o % 65536 / 8) false }
  else s

/-- Bytes of the window; none when a poisoned word is among them (R402, R407). -/
def State.winLoad (s : State) (cl off n : Nat) : Option (List Byte) :=
  if (List.range n).any fun i => s.winPoison cl (off + i) then none else some ((List.range n).map fun i => s.winByte cl (off + i))

/-- Bytes written to the window; none when they cover a poisoned word in part (R402, R407). -/
def State.winStore (s : State) (cl off : Nat) (bs : List Byte) : Option State :=
  let n := bs.length
  let words := (List.range ((off + n + 7) / 8 - off / 8)).map (off / 8 + ·)
  let covered (w : Nat) : Bool := decide (off ≤ 8 * w) && decide (8 * w + 8 ≤ off + n)
  if words.any fun w => s.winPoison cl (8 * w) && !covered w then none
  else some ((words.filter fun w => covered w).foldl (fun t w => t.winHeal cl (8 * w)) (s.winWrite cl off n bs))

/-- The cluster and window offset of a device-register address (R419). -/
def winOfPa (pa : Nat) : Nat × Nat := ((pa % 2 ^ 48) / 2 ^ 26, pa % 2 ^ 26)

end Sys2Proof.Machine
end

