-- ==== Sys2Proof/Machine/Cache.lean ====
section
/-! DEFINITION. Address spaces (R153), translation (R409–R414), the home of a byte (R158, R305–R314), the LLC, the
L1s with ownership (R164–R166, R289) and the scratchpad with its guards and windows (R173, R300–R303). -/
namespace Sys2Proof.Machine

open Sys2Proof

/-! Address spaces. -/

/-- The space an address names (R153). -/
inductive Space where
  | virt (va : Nat)
  | spad (cl off : Nat)
  | none
  deriving DecidableEq, Repr

/-- The space of an address as cluster `cl` uses it (R153). -/
def spaceOf (cl a : Nat) : Space :=
  match a / 2 ^ 60 with
  | 0 => .virt a
  | 8 =>
    if bits a 59 32 ≠ 0 then .none
    else .spad (if bits a 31 31 = 1 then cl else bits a 30 22) (bits a 21 0)
  | _ => .none

/-! HBM4 and the LLC. -/

/-- The decoded format of a window (R311) as an R82 code, and its element size in bytes. -/
def dfmtOf (d : Nat) : Option (Nat × Nat) :=
  match d with
  | 0 => some (0x0A, 4)
  | 1 => some (0x0C, 2)
  | 2 => some (0x0D, 2)
  | 3 => some (0x18, 1)
  | 4 => some (0x19, 1)
  | 5 => some (0x1E, 2)
  | 6 => some (0x1F, 2)
  | _ => none

/-- A byte of HBM4. -/
def State.hbmByte (s : State) (a : Nat) : Byte := SMap.get 0 s.hbm a

/-- Bits of the stream that starts at a byte address (R70), lowest first. -/
def State.hbmBits (s : State) (base bit n : Nat) : Nat :=
  loadN s.hbm (base + bit / 8) 5 / 2 ^ (bit % 8) % 2 ^ n

/-- The window of the die that covers an alias address: the lowest-numbered valid one (R311). -/
def State.winOf (s : State) (pa : Nat) : Option (Word × WinDesc) :=
  let d := s.die (homeDie pa)
  (List.range 16).findSome? fun i =>
    let w := SMap.get ({} : FmtWin) d.fmtwin i
    match w.desc with
    | some k => if w.reg.getLsbD 63 && decide (k.dbase ≤ pa) && decide (pa < k.dbase + k.dsize) then some (w.reg, k) else none
    | none => none

/-- A byte of an ordinary line at its home: the slice's copy, or HBM4. -/
def State.ordByte (s : State) (a : Nat) : Byte :=
  match SMap.get none s.llc (a / 64) with
  | some l => l.data.getD (a % 64) 0
  | none => s.hbmByte a

/-- The HBM4 lines that hold bits `[bit, bit + n)`. -/
def bitLines (bit n : Nat) : List Nat := (List.range ((bit + n + 511) / 512 - bit / 512)).map (bit / 512 + ·)

/-- Some HBM4 line of those that hold bits `[bit, bit + n)` is poisoned. -/
def State.bitsPoisoned (s : State) (bit n : Nat) : Bool :=
  (bitLines bit n).any (SMap.get false s.hpoison ·)

/-- The line of an LLC slice as a fill brings it (R305, R313); `none` where no window covers an alias line. A scale byte is read at its
home (R94), storage bits in HBM4 whatever an ordinary copy of their line in the slice holds (DESIGN CHOICE, log entry 100). -/
def State.fillOf (s : State) (line : Nat) : Option LlcLine :=
  let pa := 64 * line
  if bits pa 51 48 = 1 then
    match s.winOf pa with
    | none => none
    | some (reg, k) =>
      let sf := wbits reg 62 58
      match dfmtOf (wbits reg 57 55) with
      | none => none
      | some (df, dsz) =>
        let n := fmtBits sf
        let e0 := (pa - k.dbase) / dsz
        let els := List.range (64 / dsz)
        let cen (e : Nat) : Int :=
          if fmtSprig sf && k.scale != 0 then centreOf (s.ordByte (k.scale + e / 64)).toNat else 0
        let cs := els.map fun i => cen (e0 + i)
        let data := els.flatMap fun i =>
          let c := cen (e0 + i)
          let v := fmtDecode sf c (s.hbmBits k.sbase (n * (e0 + i)) n)
          bytesOfNat dsz (fmtEncode df 0 (if fmtSprig df then c else 0) v).1
        some { data := data, dirty := false, poison := s.bitsPoisoned (k.sbase * 8 + n * e0) (n * (64 / dsz)),
               alias_ := some (sf, df, k.sbase * 8 + n * e0, cs) }
  else some { data := loadBytes s.hbm pa 64, dirty := false, poison := SMap.get false s.hpoison line }

/-- Bits stored into HBM4 from a bit address, one element at a time (R314). -/
def storeElems (m : SMap Byte) (n : Nat) : (bit : Nat) → List Nat → SMap Byte
  | _, [] => m
  | bit, v :: t =>
    let a := bit / 8
    let old := loadN m a 5
    let sh := 2 ^ (bit % 8)
    let new := old - old / sh % 2 ^ n * sh + v % 2 ^ n * sh
    storeElems (storeN m a 5 new) n (bit + n) t

/-- The elements of a byte string, `sz` bytes each. -/
def elemsOf (sz : Nat) : (n : Nat) → List Byte → List Nat
  | 0, _ => []
  | n + 1, bs => natOfBytes (bs.take sz) :: elemsOf sz n (bs.drop sz)

/-- Write-back of a dirty line to HBM4 (R305), re-encoding an alias line (R93, R314), which writes nothing of a poisoned storage line
(R308; log entry 41). -/
def State.writeBack (s : State) (line : Nat) (l : LlcLine) : State :=
  if !l.dirty then s
  else
    match l.alias_ with
    | none => { s with hbm := storeBytes s.hbm (64 * line) l.data }
    | some (sf, df, bit, cs) =>
      let dsz := fmtBits df / 8
      let vs := (List.zip (elemsOf dsz (64 / dsz) l.data) cs).map fun (x, c) =>
        (fmtEncode sf 0 c (fmtDecode df (if fmtSprig df then c else 0) x)).1
      if s.bitsPoisoned bit (fmtBits sf * vs.length) then s else { s with hbm := storeElems s.hbm (fmtBits sf) bit vs }

/-- A line leaves the LLC: written back when dirty (R305). -/
def State.evictLlc (s : State) (line : Nat) : State :=
  match SMap.get none s.llc line with
  | none => s
  | some l =>
    let s := s.writeBack line l
    { s with llc := SMap.put none s.llc line none }

/-- The set of a line in its slice (PRESUMED, log entry 42: the bits above those of the slice). -/
def llcSet (line : Nat) : Nat := line / 64 % 2048

/-- Lines of the same set of the same slice. -/
def sameLlcSet (a b : Nat) : Bool :=
  homeDie (64 * a) == homeDie (64 * b) && homeSlice (64 * a) == homeSlice (64 * b) && llcSet a == llcSet b

/-- The ways of a line's set that failing rows leave enabled (R305, R320); a pruned row of a slice is line storage `16 × set + way`. -/
def State.llcWays (s : State) (line : Nat) : Nat :=
  let bad := (s.prune.filter fun r => r.kind == 3 && r.cl == homeDie (64 * line) && r.core == homeSlice (64 * line)
    && decide (r.op ≤ s.announced) && r.row / 16 == llcSet line).map (·.row)
  16 - bad.eraseDups.length

/-- The LLC holds the line: filled if absent, into a slice of 2,048 sets of 16 ways (R305). A line of a full set makes room; one may leave
a set that is not full, as the part chooses (log entry 12). -/
def State.touchLlc (s : State) (line : Nat) : State :=
  match SMap.get none s.llc line with
  | some _ => s
  | none =>
    match s.fillOf line with
    | none => s
    | some l =>
      let peers := s.llc.filter fun (j, _) => sameLlcSet j line
      let s := if peers.isEmpty then s else
        match peers[Config.victim s.freeCtr % (if peers.length < s.llcWays line then peers.length + 1 else peers.length)]? with
        | some (j, _) => (s.evictLlc j).fresh
        | none => s.fresh
      { s with llc := SMap.put none s.llc line (some l) }

/-- A line that no enabled way can hold leaves with the access that has used it (R305; log entry 12). -/
def State.leaveLlc (s : State) (line : Nat) : State := if s.llcWays line = 0 then s.evictLlc line else s

/-- The HBM4 lines that a fill of a line reads: itself, or of an alias line its storage and the scale bytes that no slice holds (R93, R94). -/
def State.behind (s : State) (line : Nat) : List Nat :=
  let pa := 64 * line
  if bits pa 51 48 = 1 then
    match SMap.get none s.llc line, s.winOf pa with
    | none, some (reg, k) =>
      (match dfmtOf (wbits reg 57 55) with
        | some (_, dsz) =>
          let n := fmtBits (wbits reg 62 58)
          let e0 := (pa - k.dbase) / dsz
          let cs := if fmtSprig (wbits reg 62 58) && k.scale != 0 then
              ((List.range (64 / dsz)).map fun i => (k.scale + (e0 + i) / 64) / 64).eraseDups else []
          bitLines (k.sbase * 8 + n * e0) (n * (64 / dsz)) ++ cs.filter fun l => (SMap.get none s.llc l).isNone
        | none => [])
    | _, _ => []
  else [line]

/-- The bytes of a line at its home: the LLC's copy, or what a fill would bring. -/
def State.homeLine (s : State) (line : Nat) : Option LlcLine :=
  match SMap.get none s.llc line with
  | some l => some l
  | none => s.fillOf line

/-- A byte at its home (R158). -/
def State.homeByte (s : State) (pa : Nat) : Byte :=
  match s.homeLine (pa / 64) with
  | some l => l.data.getD (pa % 64) 0
  | none => 0

/-- `n` bytes at their home as a number. -/
def State.homeN (s : State) (pa : Nat) : Nat → Nat
  | 0 => 0
  | n + 1 => (s.homeByte pa).toNat + 256 * s.homeN (pa + 1) n

/-! Translation. -/

/-- The physical ranges of R307, R310 and R419. -/
def inRange (pa : Nat) : Bool :=
  match pa / 2 ^ 48 with
  | 0 => decide (pa < 2 ^ 40)
  | 1 | 2 | 3 => true
  | 0xF => decide (pa - 0xF * 2 ^ 48 < 512 * 2 ^ 26)
  | _ => false

/-- Entry bits a leaf may set (R409). -/
def leafReserved (e : Nat) : Bool := bits e 63 52 != 0 || bits e 15 12 != 0 || bits e 3 2 != 0
/-- Entry bits a table entry may set. -/
def tableReserved (e : Nat) : Bool := bits e 63 52 != 0 || bits e 13 2 != 0

/-- A leaf with C = 1. -/
def isRunLeaf (e : Nat) : Bool := bits e 1 0 == 2 && bits e 9 9 == 1

/-- The entries of a run at `level` (R410). -/
def runLen : Nat → Nat
  | 3 => 32
  | 2 => 8
  | _ => 2

/-- What is wrong with the line that a walk reads: its cause, 0 for nothing (R414). -/
def State.entryBad (s : State) (a : Nat) : Nat :=
  match s.homeLine (a / 64) with
  | none => 0x08
  | some l => if (s.behind (a / 64)).any (SMap.get false s.hbad ·) then 0x10 else if l.poison then 0x11 else 0

/-- A leaf of a walk at `level`: entry `i` of the table at `base` (R410, R411). -/
def State.walkLeaf (s : State) (gen va level base i e : Nat) : Except Nat Tlb :=
  let run := runLen level
  let size := match level with
    | 3 => 2 ^ 21
    | 2 => 2 ^ 30
    | _ => 2 ^ 39
  let first := s.homeN (base + 8 * (i - i % run)) 8
  if leafReserved e || level = 0 then .error 0x08
  else if bits e 9 9 = 0 then
    if level ≠ 3 || isRunLeaf first then .error 0x08
    else if bits e 8 8 = 1 && bits e 7 7 = 0 then .error 0x08
    else
      let pa := bits e 51 16 * 2 ^ 16
      if !inRange pa then .error 0x08
      else .ok { gen := gen, va := va / 2 ^ 16 * 2 ^ 16, size := 2 ^ 16, pa := pa, attr := e % 2 ^ 12 }
  else
    let pa := bits first 51 16 * 2 ^ 16
    if !isRunLeaf first || leafReserved first || pa % size ≠ 0 then .error 0x08
    else if bits first 8 8 = 1 && bits first 7 7 = 0 then .error 0x08
    else if !inRange (pa + va % size) then .error 0x08
    else .ok { gen := gen, va := va / size * size, size := size, pa := pa, attr := first % 2 ^ 12 }

/-- What reading one entry of a walk gives: the next table, the translation, or a fault. -/
inductive WalkRead where
  | table (base : Nat)
  | leaf (t : Tlb)
  | fault (cause : Nat)

/-- The entry read with `n` levels left, of the table at `base` (R409, R411, R413, R414). -/
def State.walkRead (s : State) (gen va n base : Nat) : WalkRead :=
  if n = 0 then .fault 0x08
  else
    let level := 4 - n
    let i := va / 2 ^ (49 - 11 * level) % 2048
    let a := base + 8 * i
    if s.entryBad a ≠ 0 then .fault (s.entryBad a)
    else
      let e := s.homeN a 8
      match bits e 1 0 with
      | 1 => if level = 3 || tableReserved e then .fault 0x08 else .table (bits e 51 14 * 2 ^ 14)
      | 2 =>
        -- the first entry of the run is read too (R410)
        let first := s.entryBad (base + 8 * (i - i % runLen level))
        if first ≠ 0 then .fault first
        else
          match s.walkLeaf gen va level base i e with
          | .ok t => .leaf t
          | .error c => .fault c
      | _ => .fault 0x08

/-- A walk from the table at `base`, with `n` levels left (R409, R411, R414). -/
def State.walkFrom (s : State) (gen va : Nat) : (n base : Nat) → Except Nat Tlb
  | 0, _ => .error 0x08
  | n + 1, base =>
    match s.walkRead gen va (n + 1) base with
    | .table b => s.walkFrom gen va n b
    | .leaf t => .ok t
    | .fault c => .error c

/-- The level-0 table of a cluster (R412). -/
def Cluster.root (g : Cluster) : Option Nat := if g.ptroot.getLsbD 63 then some (wbits g.ptroot 51 14 * 2 ^ 14) else none

/-- The walk of a virtual address for a cluster (R412, R413). -/
def State.walk (s : State) (cl va : Nat) : Except Nat Tlb :=
  match (s.cluster cl).root with
  | some r => s.walkFrom (s.cluster cl).gen va 4 r
  | none => .error 0x08

/-- Whether a translation covers an address. -/
def Tlb.covers (t : Tlb) (gen va : Nat) : Bool := t.gen == gen && decide (t.va ≤ va) && decide (va < t.va + t.size)

/-- What an access does (R411). -/
inductive Acc where
  | read | write | atomic
  deriving DecidableEq, Repr

/-- The place of a translated address, or the cause (R307, R411, R419, R310); on a guarded page the access is otherwise as normal. -/
def State.pageLoc (s : State) (t : Tlb) (priv : Bool) (acc : Acc) (va : Nat) : Except Nat Loc :=
  let r := t.attr.testBit 4
  let w := t.attr.testBit 5
  let pa := t.pa + (va - t.va)
  let denied := (t.attr.testBit 11 && !priv) || (match acc with
    | .read => !r
    | .write => !w || (t.attr.testBit 6 && !priv)
    | .atomic => !r || !w || (t.attr.testBit 6 && !priv))
  let ms := t.attr.testBit 7
  if denied then .error 0x09
  else if !inRange pa then .error 0x08
  else
    (fun r => if t.attr.testBit 10 then r.map fun _ => .guard va else r) <| match pa / 2 ^ 48 with
    | 0 => .ok (if ms then .side pa (t.attr.testBit 8) else .mem pa)
    | 1 => if ms then .error 0x09 else if (s.winOf pa).isNone then .error 0x08 else .ok (.mem pa)
    | 2 =>
      let h := SMap.get 0 s.host.hmw (bits pa 47 44)
      if h.getLsbD 127 && decide (bits pa 43 0 < 2 ^ (h.toNat / 2 ^ 112 % 64)) then
        .ok (.host (bits pa 47 44) (h.toNat / 2 ^ 12 % 2 ^ 52 * 2 ^ 12 + bits pa 43 0))
      else .error 0x08
    | 3 => if (SMap.get ({} : Station) s.stations (bits pa 47 43)).ualink then .ok (.peer (bits pa 47 43) (bits pa 42 0)) else .error 0x08
    | _ => if priv then .ok (.dev pa) else .error 0x09

/-- The outcome of a translation. -/
inductive Xl where
  | at_ (l : Loc)
  | fault (cause : Nat)
  | miss
  deriving DecidableEq, Repr

/-- A translation of the executing context: the cluster's TLB, and what the core's micro-TLB still holds (R155, R412; log entry 97). -/
def State.tlbAt (s : State) (va : Nat) : Option Tlb :=
  match (s.cluster s.cur.cl).tlb.find? (·.covers s.cx.gen va) with
  | some t => some t
  | none => if s.cur.isHart then none else (s.core s.cur.core).utlb.find? (·.covers s.cx.gen va)

/-- A synchronous load reaches a page: an ordinary one or device registers, without the memory-side attribute (R157). -/
def State.loadable (s : State) (va : Nat) : Bool :=
  match s.tlbAt va with
  | some t => !t.attr.testBit 7 && [0, 1, 0xF].contains ((t.pa + (va - t.va)) / 2 ^ 48)
  | none => true

/-- Translation through the cluster's TLB (R155, R412). -/
def State.xlate (s : State) (cl gen : Nat) (priv : Bool) (acc : Acc) (va : Nat) : Xl :=
  if !((s.cluster cl).ptroot.getLsbD 63) then .fault 0x08
  else
    match (s.cluster cl).tlb.find? (·.covers gen va) with
    | none => .miss
    | some t =>
      match s.pageLoc t priv acc va with
      | .ok l => .at_ l
      | .error c => .fault c

/-! L1 (R164–R166). -/

/-- The core whose L1 slice holds a line for `core` (R164). -/
def State.l1Core (s : State) (core line : Nat) : Nat :=
  if (s.core core).l1mode then clOf core * 16 + line % 16 else core

/-- The set of a line in its slice (R164). -/
def l1Set (fused : Bool) (line : Nat) : Nat := if fused then line / 16 % 64 else line % 64

/-- The copy of a line that `core` reads, in the L1 or, for the buffer's owner, in its replay buffer (R166). -/
def State.l1Line (s : State) (core act line : Nat) : Option L1Line :=
  match SMap.get none (s.core (s.l1Core core line)).l1 line with
  | some l => some l
  | none =>
    let k := s.core core
    if k.rbOwner = some act then SMap.get none k.rb line else none

/-- Whether the word that holds `pa` is present for the core and activation. -/
def State.l1Has (s : State) (core act pa : Nat) : Bool :=
  match s.l1Line core act (pa / 64) with
  | some l => l.valid.testBit (pa % 64 / 8)
  | none => false

/-- The ways of a set that failing rows leave enabled (R304); a pruned row of the L1 macro is line storage
`8 × set + way`. -/
def State.l1Ways (s : State) (core set : Nat) : Nat :=
  8 - ((s.prune.filter fun r => r.kind == 2 && r.cl == clOf core && r.core == core % 16 && decide (r.op ≤ s.announced)
    && r.row / 8 == set).map (·.row)).eraseDups.length

/-- Word `i` of a line no longer valid; an unpinned line with no valid word leaves. -/
def L1Line.drop (l : L1Line) (i : Nat) : L1Line := if l.valid.testBit i then { l with valid := l.valid - 2 ^ i } else l

/-- The word of `pa` leaves the L1 slice and the replay buffer of a core (R289); pinned lines and those of the buffer keep their places (R165). -/
def State.dropWord (s : State) (core pa : Nat) : State :=
  let line := pa / 64
  let f (keep : Bool) (m : SMap (Option L1Line)) : SMap (Option L1Line) :=
    match SMap.get none m line with
    | none => m
    | some l =>
      let l := l.drop (pa % 64 / 8)
      SMap.put none m line (if l.valid = 0 && l.pins.isEmpty && !keep then none else some l)
  s.modCore core fun k => { k with l1 := f false k.l1, rb := f true k.rb }

/-- The owner code of a core's store (R289): the core, or its cluster when the L1 is fused. -/
def State.ownerCode (s : State) (core : Nat) : Nat :=
  if (s.core core).l1mode then 8193 + clOf core else core + 1

/-- The cores whose L1 and replay buffer an owner code stands for. -/
def ownerCores (code : Nat) : List Nat :=
  if code = 0 then [] else if code ≤ 8192 then [code - 1] else (List.range 16).map ((code - 8193) * 16 + ·)

/-- Ownership of the word at `pa` is revoked unless `keep` holds it (R289). -/
def State.revoke (s : State) (pa keep : Nat) : State :=
  let w := pa / 8
  let o := SMap.get 0 s.owner w
  if o = 0 || o = keep then s
  else
    let s := (ownerCores o).foldl (fun t c => t.dropWord c pa) s
    { s with owner := SMap.put 0 s.owner w 0 }

/-- A line leaves an L1 slice, and its words their ownership (R289). -/
def State.evictL1 (s : State) (core line : Nat) : State :=
  let code := s.ownerCode core
  let s := s.modCore core fun k => { k with l1 := SMap.put none k.l1 line none, l1bad := SMap.put false k.l1bad line false }
  { s with owner := s.owner.filter fun (w, o) => !(o == code && w / 8 == line) }

/-- A line leaves every L1; where it is pinned, or held in a replay buffer, its words become invalid (R165, R177). -/
def State.dropCopies (s : State) (line : Nat) : State :=
  let l1 (m : SMap (Option L1Line)) : SMap (Option L1Line) :=
    match SMap.get none m line with
    | some l => SMap.put none m line (if l.pins.isEmpty then none else some { l with valid := 0 })
    | none => m
  let rb (m : SMap (Option L1Line)) : SMap (Option L1Line) :=
    match SMap.get none m line with
    | some l => SMap.put none m line (some { l with valid := 0 })
    | none => m
  { s with cores := s.cores.map fun (c, k) => (c, { k with l1 := l1 k.l1, rb := rb k.rb }) }

/-- The words of a line lose their ownership (R289). -/
def State.disown (s : State) (line : Nat) : State := { s with owner := s.owner.filter fun (w, _) => w / 8 != line }

/-- AcquireInvalidate of a core (R38, R290): every word that is not owned leaves, but for pinned lines and the replay
buffer (R286). -/
def State.acquire (s : State) (core : Nat) : State :=
  let one (s : State) (c : Nat) : State :=
    let code := s.ownerCode c
    s.modCore c fun k =>
      { k with l1 := k.l1.filterMap fun (line, e) =>
          match e with
          | none => none
          | some l =>
            if !l.pins.isEmpty then some (line, some l)
            else
              let keep := (List.range 8).foldl (fun n i =>
                if l.valid.testBit i && SMap.get 0 s.owner (8 * line + i) == code then n + 2 ^ i else n) 0
              if keep = 0 then none else some (line, some { l with valid := keep }) }
  if (s.core core).l1mode then (List.range 16).foldl (fun t j => one t (clOf core * 16 + j)) s else one s core

/-! Scratchpad (R299–R303). -/

/-- The bank of a row (R299). -/
def bankOf (r key : Nat) : Nat :=
  let u := r / 32
  let f := Nat.xor (Nat.xor (u % 32) (u / 32 % 32)) (u / 1024 % 2)
  let parity (n : Nat) : Nat := (List.range 11).foldl (fun a i => (a + (n / 2 ^ i) % 2) % 2) 0
  let km (m : Nat) : Nat := (key / 2 ^ (6 * m) + key * 2 ^ (32 - 6 * m)) % 2 ^ 32 % 2 ^ 11
  let g := (List.range 5).foldl (fun a m => a + parity (Nat.land u (km m)) * 2 ^ m) 0
  Nat.xor (Nat.xor (r % 32) f) g

/-- Whether an offset lies in a guarded granule (R302). -/
def Cluster.guarded (k : Cluster) (off : Nat) : Bool := SMap.get false k.guard (off / 256)

/-- Whether offsets lie below the usable groups (R300). -/
def Cluster.usable (k : Cluster) (off n : Nat) : Bool := decide (off + n ≤ 2048 * k.ug)

/-- A touch of furniture enters the cluster's guard log (R303); its raise falls due 2^16 core cycles later. -/
def State.logGuard (s : State) (cl off : Nat) (org : Origin) : State :=
  let k := s.cluster cl
  if k.glog.length < 8 then
    let t : GuardTouch :=
      { off := off, bank := bankOf (off / 64) k.hashkey.toNat, cl := clOf org.core,
        core := if org.kind = 0 then org.core % 16 else 15, lost := 0, gen := org.gen, due := s.time + s.cyc 65536, org := org }
    (s.setCluster cl { k with glog := snoc k.glog t }).after (s.cyc 65536) (.guardLogRaise cl)
  else
    s.setCluster cl { k with glog := k.glog.mapIdx fun i t => if i = 7 then { t with lost := t.lost + 1 } else t }

/-- A trigger point of R303 for the touches that an instance made at a cluster: they are raised now. -/
def State.guardDue (s : State) (gen cl : Nat) : State :=
  let k := s.cluster cl
  if k.glog.any (·.gen == gen) then
    (s.setCluster cl { k with glog := k.glog.map fun t => if t.gen == gen then { t with due := s.time } else t }).after 0 (.guardLogRaise cl)
  else s

/-- The offsets of `n` bytes from `off` that touch furniture: the first of them. -/
def Cluster.firstGuarded (k : Cluster) (off : Nat) : Nat → Option Nat
  | 0 => none
  | n + 1 => if k.guarded off then some off else k.firstGuarded (off + 1) n

/-- Bytes of the scratchpad as an access reads them: furniture reads zero and is logged (R302, R303). -/
def State.readSpad (s : State) (cl off n : Nat) (org : Origin) : List Byte × State :=
  let k := s.cluster cl
  let bs := (List.range n).map fun i => if k.guarded (off + i) then 0 else SMap.get 0 k.spad (off + i)
  (bs, match k.firstGuarded off n with
    | some o => s.logGuard cl o org
    | none => s)

/-- Whether a word that an access touches is poisoned (R402). -/
def anyPoison (m : SMap Bool) (off n : Nat) : Bool :=
  (List.range ((off + n + 7) / 8 - off / 8)).any fun i => SMap.get false m (off / 8 + i)

/-- A window of the owner's scratchpad includes the requester and the bytes (R173, R301). -/
def windowAllows (w : Word) (cl off n : Nat) (write : Bool) : Bool :=
  let row := wbits w 33 18
  let rows := wbits w 49 34 + 1
  w.getLsbD 63 && (!write || w.getLsbD 62) && decide (wbits w 8 0 ≤ cl) && decide (cl ≤ wbits w 17 9)
    && decide (64 * row ≤ off) && decide (off + n ≤ 64 * (row + rows))

/-- The check of R173 at the owner's port, of all bytes of one access; accesses from the own cluster are never checked. -/
def State.windowsOk (s : State) (from_ : Nat) (ls : List Loc) (write : Bool) : Bool :=
  match ls with
  | .spad owner _ :: _ =>
    owner == from_ || (List.range 16).any fun j =>
      let w := SMap.get 0 (s.cluster owner).win j
      ls.all fun
        | .spad c o => c == owner && windowAllows w from_ o 1 write
        | _ => true
  | _ => true

/-- The check of R173 for `n` bytes from an offset. -/
def State.windowOk (s : State) (owner from_ off n : Nat) (write : Bool) : Bool :=
  owner == from_ || (List.range 16).any fun j => windowAllows (SMap.get 0 (s.cluster owner).win j) from_ off n write

/-- A matrix command of the core has issued and not completed. -/
def Core.matrixPending (k : Core) : Bool :=
  !k.lane.isEmpty || !k.regionQ.isEmpty || k.ni.any fun e =>
    match e.ent.act with
    | .matrix _ => true
    | _ => false

/-- A matrix command of the cluster has issued and not completed. -/
def State.matrixPending (s : State) (cl : Nat) : Bool := (List.range 16).any fun i => (s.core (16 * cl + i)).matrixPending

/-- The overwritten bytes that pending commands see past (R216) once `n` bytes from an offset are written. -/
def State.pastAfter (s : State) (cl off n : Nat) (org : Origin) : List PastByte :=
  let k := s.cluster cl
  if s.matrixPending cl then
    k.past ++ (List.range n).map fun i => { off := off + i, old := SMap.get 0 k.spad (off + i), core := org.core, kind := org.kind }
  else []

/-- A byte of the scratchpad as a command of `core` reads it that issued after the first `n` overwritten bytes (R216): what other writers than
its core have overwritten since its last own write. -/
def Cluster.pastByte (k : Cluster) (core n off : Nat) : Option Byte :=
  ((k.past.drop n).filter (·.off == off)).foldl (fun r e => if e.core = core ∧ e.kind < 3 then none else r <|> some e.old) none
def Cluster.cmdByte (k : Cluster) (core n off : Nat) : Byte := (k.pastByte core n off).getD (SMap.get 0 k.spad off)

/-- Bytes written to the scratchpad, furniture excepted (R302). -/
def State.writeSpad (s : State) (cl off : Nat) (bs : List Byte) (org : Origin) : State :=
  let k := s.cluster cl
  let spad := (List.zip (List.range bs.length) bs).foldl
    (fun m (i, b) => if k.guarded (off + i) then m else SMap.put 0 m (off + i) b) k.spad
  let t := s.setCluster cl { k with spad := spad, past := s.pastAfter cl off bs.length org }
  match k.firstGuarded off bs.length with
  | some o => t.logGuard cl o org
  | none => t

/-! Single-copy atomicity (R294, R295). -/

/-- The unit of the path between a cluster and a place (R294). -/
def unitOf (cl : Nat) : Loc → Nat
  | .spad c _ => if c = cl then 64 else 32
  | .mem a | .side a _ => if homeDie a = dieOf cl then 64 else 32
  | .host _ _ => 8
  | .peer _ _ => 64
  | .guard _ => 64
  | .dev _ => 8

/-- The block of a place in units of `u`: bytes with the same block belong to one piece (R295). -/
def blockOf (u : Nat) : Loc → Nat × Nat
  | .spad c o => (c, o / u)
  | .mem a => (512, a / u)
  | .side a _ => (513, a / u)
  | .host w o => (514 + w, o / u)
  | .peer t a => (530 + t, a / u)
  | .guard v => (562, v / u)
  | .dev a => (563, a / u)

/-- The bytes of an access as pieces, in ascending order of first byte. -/
def pieces {α : Type} (cl : Nat) (locOf : α → Loc) : List α → List (List α)
  | [] => []
  | x :: t =>
    let key (y : α) := blockOf (unitOf cl (locOf y)) (locOf y)
    match pieces cl locOf t with
    | [] => [[x]]
    | g :: gs =>
      match g with
      | y :: _ => if key y == key x then (x :: g) :: gs else [x] :: g :: gs
      | [] => [x] :: gs

/-! Stores at their home. -/

/-- The source of the reports of a die's watch units. -/
def watchSrc (die : Nat) : Nat := noCore + 1 + die

/-- The watch units of the home die report a write at a home slice (R408). Reports not yet delivered are the queue of the
die. -/
def State.watchReport (s : State) (pa n : Nat) (first8 : Word) (org : Origin) : State :=
  let d := homeDie pa
  let k := s.die d
  let hit := (List.range 16).any fun i =>
    let w := SMap.get 0 k.wunit i
    let len := 2 ^ wbits w 56 52
    w.getLsbD 63 && decide (pa < wbits w 51 0 + len) && decide (wbits w 51 0 < pa + n)
  if !hit then s
  else
    match s.inst? (wbits k.wmon 30 19) with
    | none => s.setDie d { k with lostReports := k.lostReports + 1 }
    | some i =>
      if !(k.wmon.getLsbD 63) || 16 ≤ (s.net.filter (·.src == watchSrc d)).length then
        s.setDie d { k with lostReports := k.lostReports + 1 }
      else
        let w1 : Word := BitVec.ofNat 64 (n + org.kind * 2 ^ 8 + clOf org.core * 2 ^ 12 + org.core % 16 * 2 ^ 21
          + org.gen * 2 ^ 25 + org.pkg.getD ownPkg * 2 ^ 37 + k.lostReports % 2 ^ 13 * 2 ^ 51)
        let ws : List Word := [BitVec.ofNat 64 pa, w1, BitVec.ofNat 64 s.time, first8]
        let p := org.pkt (16 * i.first + wbits k.wmon 18 6) 0 2 (.chan (wbits k.wmon 5 0) (bytesOfWords ws))
        (s.setDie d { k with lostReports := 0 }).sendPkt { p with src := watchSrc d, gen := i.gen }

/-- One byte written at its home slice: the LLC line, and the storing core's L1 copy (R158). -/
def State.writeHome (s : State) (pa : Nat) (b : Byte) : State :=
  let s := s.touchLlc (pa / 64)
  match SMap.get none s.llc (pa / 64) with
  | none => s
  | some l => { s with llc := SMap.put none s.llc (pa / 64) (some { l with data := l.data.set (pa % 64) b, dirty := true }) }

/-- The cores whose replay buffers hold copies beside a slice: those of the cluster with a fused L1. -/
def State.sharers (s : State) (core : Nat) : List Nat :=
  if (s.core core).l1mode then (List.range 16).map (clOf core * 16 + ·) else [core]

/-- A copy of the word of `pa` brought up to its home: an owned word holds the value of the last write performed there (R290). -/
def refresh (home : List Byte) (pa : Nat) (m : SMap (Option L1Line)) : SMap (Option L1Line) :=
  match SMap.get none m (pa / 64) with
  | some l =>
    let w := pa % 64 / 8 * 8
    SMap.put none m (pa / 64)
      (some { l with data := (List.range 8).foldl (fun d i => d.set (w + i) (home.getD (w + i) 0)) l.data })
  | none => m

/-- The word of `pa` in the copies of a storing core updated from its home, where present (R158, R290). -/
def State.updL1 (s : State) (core pa : Nat) : State :=
  match SMap.get none s.llc (pa / 64) with
  | none => s
  | some h =>
    let s := s.modCore (s.l1Core core (pa / 64)) fun k => { k with l1 := refresh h.data pa k.l1 }
    (s.sharers core).foldl (fun t c => t.modCore c fun k => { k with rb := refresh h.data pa k.rb }) s

/-- The copies of a core brought up to the home of a word that it has read there: a later load of the core returns nothing older (R292). -/
def State.sawHome (s : State) (core pa : Nat) : State :=
  match s.homeLine (pa / 64) with
  | none => s
  | some h =>
    let s := s.modCore (s.l1Core core (pa / 64)) fun k => { k with l1 := refresh h.data pa k.l1 }
    (s.sharers core).foldl (fun t c => t.modCore c fun k => { k with rb := refresh h.data pa k.rb }) s

/-- What a write meets. -/
inductive WriteRes where
  | done (s : State)
  | fail (cause : Nat) (s : State)

/-- Bytes of one piece performed at an ordinary physical address (R158, R289, R308, R408). A command's write removes the line from every
L1 (R229). A full write of an alias line writes part of a storage line, and clears no poison. -/
def State.performMem (s : State) (pa : Nat) (bs : List Byte) (full : List Nat) (org : Origin) : WriteRes :=
  let line := pa / 64
  let s := s.touchLlc line
  match SMap.get none s.llc line with
  | none => .fail 0x08 s
  | some l =>
    if l.poison && (!full.contains line || l.alias_.isSome) then .fail 0x11 s
    else
      let s := if org.kind = 2 then (s.dropCopies line).disown line else s
      let s := if l.poison then
          { s with llc := SMap.put none s.llc line (some { l with poison := false }), hpoison := SMap.put false s.hpoison line false,
                   hbad := SMap.put false s.hbad line false }
        else s
      let keep := if org.kind = 0 then s.ownerCode org.core else 0
      let idx := List.zip (List.range bs.length) bs
      let s := idx.foldl (fun t (i, _) => t.revoke (pa + i) keep) s
      let s := idx.foldl (fun t (i, b) => t.writeHome (pa + i) b) s
      let s := if org.kind = 0 then
          let s := idx.foldl (fun t (i, _) => t.updL1 org.core (pa + i)) s
          { s with owner := idx.foldl (fun m (i, _) => SMap.put 0 m ((pa + i) / 8) keep) s.owner }
        else s
      .done ((s.leaveLlc line).watchReport pa bs.length (BitVec.ofNat 64 (natOfBytes (bs.take 8))) org)

/-- Bytes performed in the base die (R158, R308). -/
def State.performSide (s : State) (pa : Nat) (bs : List Byte) (full : List Nat) : WriteRes :=
  let line := pa / 64
  if SMap.get false s.hpoison line && !full.contains line then .fail 0x11 s
  else
    let s := if full.contains line then
        { s with hpoison := SMap.put false s.hpoison line false, hbad := SMap.put false s.hbad line false } else s
    .done { s with hbm := storeBytes s.hbm pa bs }

/-- Bytes performed at the owner's scratchpad port (R300, R302, R402), once the access has passed the check of R173. -/
def State.performSpad (s : State) (cl off : Nat) (bs : List Byte) (org : Origin) : WriteRes :=
  let k := s.cluster cl
  let n := bs.length
  if !k.usable off n then .fail 0x12 s
  else
    let covered (w : Nat) : Bool := decide (off ≤ 8 * w) && decide (8 * w + 8 ≤ off + n)
    let words := (List.range ((off + n + 7) / 8 - off / 8)).map (off / 8 + ·)
    if words.any fun w => SMap.get false k.spoison w && !covered w then .fail 0x11 s
    else
      let s := s.setCluster cl { k with
        spoison := words.foldl (fun m w => if covered w then SMap.put false m w false else m) k.spoison,
        sbad := words.foldl (fun m w => if covered w then SMap.put false m w false else m) k.sbad }
      .done (s.writeSpad cl off bs org)

/-- A request that goes to a UALink peer waits at the station for its response (R389). -/
def State.toPeer (s : State) (st : Nat) (p : Pkt) : State :=
  let k := SMap.get ({} : Station) s.stations st
  { s with stations := SMap.put ({} : Station) s.stations st { k with tx := snoc k.tx p, pend := snoc k.pend p } }

/-- Bytes written to host memory (R419, R420). -/
def State.writeHost (s : State) (a : Nat) (bs : List Byte) : State :=
  let m := (List.zip (List.range bs.length) bs).foldl (fun m (i, b) => SMap.put none m (a + i) (some b)) s.host.hmem
  { s with host := { s.host with hmem := m } }

/-- A contiguous piece performed at its place. -/
def State.performPiece (s : State) (l : Loc) (bs : List Byte) (full : List Nat) (org : Origin) : WriteRes :=
  match l with
  | .spad c o => s.performSpad c o bs org
  | .mem a => s.performMem a bs full org
  | .side a _ => s.performSide a bs full
  | .host _ a => .done (s.writeHost a bs)
  | .peer t a =>
    -- a UALink write leaves through the station, where it waits for its response (R389)
    .done (s.toPeer t (org.pkt org.core org.tag 4 (.store (List.zip ((List.range bs.length).map fun i => .peer t (a + i)) bs) a [])))
  | .guard va => .done (s.record org 0x0B va)
  | .dev a =>
    let (cl, off) := winOfPa a
    if (s.cluster cl).stopped then
      (match s.winStore cl off bs with
        | some s => .done s
        | none => .fail 0x11 s)
    else .fail 0x09 s

end Sys2Proof.Machine
end

