-- ==== Sys2Proof/Machine/Home.lean ====
section
/-! DEFINITION. Reads at the home of a place (R158, R167, R179, R283), the accesses of engine harts and commands that
are performed at once (R216, R261, R283), and streams at their two ends (R253, R369, R370). -/
namespace Sys2Proof.Machine

open Sys2Proof

/-! Reads at the home. -/

/-- The storage slot that serves a scratchpad row (R299, R319). -/
def Cluster.slotOf (k : Cluster) (off : Nat) : Nat :=
  let r := off / 64
  let home := r / 32 * 32 + bankOf r k.hashkey.toNat
  (SMap.get none k.remap home).getD home

/-- An SRAM row found failing goes to the prune map (R316, R402): the step that scrub takes. -/
def State.pruneSoon (s : State) (kind cl core row : Nat) : State :=
  { s with inputs := snoc s.inputs (.scrubError, .scrub kind cl core row) }

/-- What a read at a place meets. -/
inductive ReadRes where
  | ok (bs : List Byte) (s : State)
  | fail (cause : Nat) (s : State)

/-- An uncorrectable scratchpad word becomes poisoned, and its row fails (R401, R402). -/
def State.poisonSpad (s : State) (cl off n : Nat) : State :=
  let k := s.cluster cl
  let words := ((List.range ((off + n + 7) / 8 - off / 8)).map (off / 8 + ·)).filter fun w => SMap.get false k.sbad w
  let t := s.setCluster cl { k with
    sbad := words.foldl (fun m w => SMap.put false m w false) k.sbad
    spoison := words.foldl (fun m w => SMap.put false m w true) k.spoison }
  words.foldl (fun t w => t.pruneSoon 0 cl 0 (k.slotOf (8 * w))) t

/-- A read at the owner's scratchpad port (R300, R302, R401, R402), once the access has passed the check of R173. -/
def State.readPort (s : State) (cl off n : Nat) (org : Origin) : ReadRes :=
  let k := s.cluster cl
  if !k.usable off n then .fail 0x12 s
  else if anyPoison k.sbad off n then .fail 0x10 ((s.poisonSpad cl off n).record org 0x10 off)
  else if anyPoison k.spoison off n then .fail 0x11 s
  else
    let (bs, t) := s.readSpad cl off n org
    .ok bs t

/-- The line is poisoned in HBM4, and the error is reported (R179). -/
def State.poisonLine (s : State) (line : Nat) (org : Origin) : State :=
  let llc := match SMap.get none s.llc line with
    | some l => SMap.put none s.llc line (some { l with poison := true })
    | none => s.llc
  { s with hpoison := SMap.put false s.hpoison line true, hbad := SMap.put false s.hbad line false, llc := llc }.record
    org 0x10 (64 * line)

/-- A read at a home slice (R158, R167, R179). -/
def State.readSlice (s : State) (pa n : Nat) (org : Origin) : ReadRes :=
  let line := pa / 64
  match (s.behind line).find? (SMap.get false s.hbad ·) with
  | some b => .fail 0x10 (s.poisonLine b org)
  | none =>
    let s := s.touchLlc line
    match SMap.get none s.llc line with
    | none => .fail 0x08 s
    | some l =>
      let s := s.leaveLlc line
      if l.poison then .fail 0x11 s else .ok ((List.range n).map fun i => l.data.getD ((pa + i) % 64) 0) s

/-- A read in the base die (R158, R167, R179). -/
def State.readSide (s : State) (pa n : Nat) (org : Origin) : ReadRes :=
  let line := pa / 64
  if SMap.get false s.hbad line then .fail 0x10 (s.poisonLine line org)
  else if SMap.get false s.hpoison line then .fail 0x11 s
  else .ok (loadBytes s.hbm pa n) s

/-- A byte of host memory as the device reads it (R283, R291; log entry 8): the value last written or read there, or a free value where the
host has written since. -/
def State.hostByte (s : State) (a : Nat) : Byte × State :=
  let b : Byte :=
    match SMap.get none s.host.hmem a with
    | some b => if Config.hostWrote s.freeCtr then BitVec.ofNat 8 s.freeWord.toNat else b
    | none => BitVec.ofNat 8 s.freeWord.toNat
  (b, { s with host := { s.host with hmem := SMap.put none s.host.hmem a (some b) } }.fresh)

/-- Bytes of host memory from an address. -/
def State.hostBytes (s : State) (a : Nat) : (n : Nat) → List Byte × State
  | 0 => ([], s)
  | n + 1 =>
    let (b, t) := s.hostByte a
    let (bs, u) := t.hostBytes (a + 1) n
    (b :: bs, u)

/-- The outcome of an access performed at once: bytes, a cause with its address, or no progress yet (a stream, a peer). -/
inductive Got where
  | ok (bs : List Byte) (s : State)
  | fail (cause tval : Nat) (s : State)
  | wait (s : State)

/-- A read half as an access. -/
def ReadRes.got (r : ReadRes) (tval : Nat) : Got :=
  match r with
  | .ok bs s => .ok bs s
  | .fail c s => .fail c tval s

/-- A read of a peer's memory by an engine hart (R389): a request, and, once its response is there, the data. -/
def State.readPeer (s : State) (st a n : Nat) (org : Origin) : Got :=
  let k := SMap.get ({} : Station) s.stations st
  match k.answers.find? fun (c, x, _) => c == org.core && x == a with
  | some x =>
    let t := { s with stations := SMap.put ({} : Station) s.stations st { k with answers := removeOne x k.answers } }
    (match x.2.2 with
      | some bs => .ok (bs.take n) t
      | none => .fail 0x10 a t)
  | none =>
    let ls := (List.range n).map fun i => (i, Loc.peer st (a + i))
    let p := org.pkt org.core 0 4 (.ldfar ls [] a 3 false 0 0 ⟨org.core, 0, 0, 0⟩)
    .wait (if k.pend.contains p then s else s.toPeer st p)

/-- A read of `n` bytes of one piece at its place. -/
def State.readPiece (s : State) (l : Loc) (n tval : Nat) (org : Origin) : Got :=
  match l with
  | .spad c o => (s.readPort c o n org).got tval
  | .mem a => (s.readSlice a n org).got tval
  | .side a _ => (s.readSide a n org).got tval
  | .host _ a =>
    let (bs, t) := s.hostBytes a n
    .ok bs t
  | .peer st a => s.readPeer st a n org
  | .guard va => .ok (List.replicate n 0) (s.record org 0x0B va)
  | .dev a =>
    let (cl, off) := winOfPa a
    if (s.cluster cl).stopped then
      (match s.winLoad cl off n with
        | some bs => .ok bs s
        | none => .fail 0x11 tval s)
    else .fail 0x09 tval s

/-! Accesses performed at once. -/

/-- A cluster's TLB with a translation more; the part chooses what makes room, and which of the cores' micro-TLBs of 64 entries hold it
still (R412; log entry 97). -/
def State.fillTlb (s : State) (cl : Nat) (t : Tlb) : State :=
  let k := s.cluster cl
  if k.tlb.contains t then s
  else if k.tlb.length < 4096 then s.setCluster cl { k with tlb := snoc k.tlb t }
  else
    let n := Config.victim s.freeCtr
    let stay (u : State) (i : Nat) : State :=
      match k.tlb[n % 4096]? with
      | some x => if (n / 4096).testBit i then u.modCore (16 * cl + i) fun c => { c with utlb := (x :: c.utlb).take 64 } else u
      | none => u
    ((List.range 16).foldl stay (s.setCluster cl { k with tlb := snoc (k.tlb.eraseIdx (n % 4096)) t })).fresh

/-- Who accesses: cluster, generation, privilege, origin. -/
structure Accessor where
  cl : Nat
  gen : Nat
  priv : Bool
  org : Origin
  deriving DecidableEq, Repr

/-- The place of an address, walking at once on a TLB miss (R153, R155, R413). -/
def State.placeNow (s : State) (u : Accessor) (acc : Acc) (addr : Nat) : Except Nat (Loc × State) :=
  match spaceOf u.cl addr with
  | .none => .error 0x08
  | .spad c o => .ok (.spad c o, s)
  | .virt va =>
    match s.xlate u.cl u.gen u.priv acc va with
    | .at_ l => .ok (l, s)
    | .fault c => .error c
    | .miss =>
      match s.walk u.cl va with
      | .error c => .error c
      | .ok t =>
        match s.pageLoc t u.priv acc va with
        | .ok l => .ok (l, s.fillTlb u.cl t)
        | .error c => .error c

/-- The places of `n` bytes from an address. -/
def State.placesNow (s : State) (u : Accessor) (acc : Acc) (addr : Nat) : (n : Nat) → Except (Nat × Nat) (List Loc × State)
  | 0 => .ok ([], s)
  | n + 1 =>
    match s.placeNow u acc addr with
    | .error c => .error (c, addr)
    | .ok (l, s) =>
      match s.placesNow u acc (addr + 1) n with
      | .error e => .error e
      | .ok (ls, s) => .ok (l :: ls, s)

/-- Pieces read in ascending order. -/
def readPieces (org : Origin) (tval : Nat) (s : State) : List (List Loc) → Got
  | [] => .ok [] s
  | [] :: t => readPieces org tval s t
  | (l :: ls) :: t =>
    match s.readPiece l (ls.length + 1) tval org with
    | .ok bs s =>
      (match readPieces org tval s t with
        | .ok r s => .ok (bs ++ r) s
        | r => r)
    | r => r

/-- Bytes as contiguous runs in ascending order. -/
def runsOf : List (Loc × Byte) → List (List (Loc × Byte))
  | [] => []
  | x :: t =>
    match runsOf t with
    | (y :: g) :: gs => if y.1 == x.1.plus 1 then (x :: y :: g) :: gs else [x] :: (y :: g) :: gs
    | r => [x] :: r

/-- Contiguous runs of a piece performed. -/
def State.performRuns (s : State) (full : List Nat) (org : Origin) : List (List (Loc × Byte)) → WriteRes
  | [] => .done s
  | [] :: t => s.performRuns full org t
  | ((l, b) :: ws) :: t =>
    match s.performPiece l (b :: ws.map (·.2)) full org with
    | .fail c s => .fail c s
    | .done s => s.performRuns full org t

/-- Pieces written in ascending order. -/
def writePieces (org : Origin) (tval : Nat) (full : List Nat) (s : State) : List (List (Loc × Byte)) → Got
  | [] => .ok [] s
  | ws :: t =>
    match s.performRuns full org (runsOf ws) with
    | .fail c s => .fail c tval s
    | .done s => writePieces org tval full s t

/-- `n` bytes read from an address space (R153, R294, R295). -/
def State.readNow (s : State) (u : Accessor) (addr n : Nat) : Got :=
  match s.placesNow u .read addr n with
  | .error (c, a) => .fail c a s
  | .ok (ls, s) => if s.windowsOk u.cl ls false then readPieces u.org addr s (pieces u.cl id ls) else .fail 0x0A addr s

/-- The physical 64-byte lines that placed bytes cover whole (R308). -/
def fullLines (bs : List (Loc × Byte)) : List Nat :=
  let as := bs.filterMap fun (l, _) =>
    match l with
    | .mem a | .side a _ => some a
    | _ => none
  ((as.filter (· % 64 == 0)).filter fun a => (List.range 64).all fun i => as.contains (a + i)).map (· / 64)

/-- Bytes written to an address space: all are translated before the first is written. -/
def State.writeNow (s : State) (u : Accessor) (addr : Nat) (bs : List Byte) : Got :=
  match s.placesNow u .write addr bs.length with
  | .error (c, a) => .fail c a s
  | .ok (ls, s) =>
    let ws := List.zip ls bs
    if !s.windowsOk u.cl ls true then .fail 0x0A addr s
    else writePieces u.org addr (fullLines ws) s (pieces u.cl (fun (x : Loc × Byte) => x.1) ws)

/-! The routing log (R149, R150). -/

/-- The privilege of an instance (R35). -/
def State.privOf (s : State) (gen : Nat) : Bool := ((s.inst? gen).map (·.priv)).getD false

/-- A checked ring position: the descriptor's physical address, the position, and the entry's and the bit's address. -/
structure RlogAt where
  desc : Nat
  pos : Nat
  entry : Nat
  occ : Nat
  used : Nat

/-- Who an RLOG acts for at the slice. -/
def State.rlogUser (s : State) (p : Pkt) : Accessor :=
  { cl := clOf p.org.core, gen := p.gen, priv := s.privOf p.gen, org := p.org }

/-- The position that an RLOG names (R149), or the cause of its failure. A descriptor whose fields break R149 otherwise is used as it stands, and
one on no ordinary page fails with cause 0x09 (DESIGN CHOICE, log entry 104). -/
def State.rlogPlace (s : State) (p : Pkt) (dva layer mb : Nat) : Except Nat (RlogAt × State) :=
  let u := s.rlogUser p
  if dva % 64 ≠ 0 then .error 0x09
  else
    match s.placeNow u .read dva with
    | .error c => .error c
    | .ok (.mem pa, s) =>
      (match s.readNow u dva 64 with
        | .fail c _ _ => .error c
        | .wait _ => .error 0x09
        | .ok bs s =>
          let w (i : Nat) : Nat := natOfBytes ((bs.drop (8 * i)).take 8)
          if w 2 ≤ layer || w 1 = 0 || w 1 ≠ 2 ^ Nat.log2 (w 1) then .error 0x09
          else
            let pos := (mb * w 2 + layer) % w 1
            .ok ({ desc := pa, pos := pos, entry := w 0 + 128 * pos, occ := w 3 + pos / 8, used := w 4 }, s))
    | .ok _ => .error 0x09

/-- The bytes that an RLOG writes (R150): of a put the entry, and of both the occupancy byte and USED. -/
def State.rlogLocs (s : State) (p : Pkt) : List Loc :=
  let of (dva layer mb : Nat) (put : Bool) : List Loc :=
    match s.rlogPlace p dva layer mb with
    | .error _ => []
    | .ok (a, t) =>
      let span (x n : Nat) : List Loc :=
        match t.placesNow (t.rlogUser p) .write x n with
        | .ok (ls, _) => ls
        | .error _ => []
      (if put then span a.entry 128 else []) ++ span a.occ 1 ++ span (dva + 32) 8
  match p.body with
  | .rlogPut dva layer mb _ _ => of dva layer mb true
  | .rlogRet dva layer mb _ => of dva layer mb false
  | _ => []

/-! Streams. -/

/-- Whether a value is a stream endpoint (R253). -/
def isStream (a : Nat) : Bool := a / 2 ^ 60 == 4

/-- The consumer of a stream: a hart (0) or a region (1) of a cluster. -/
structure StreamEnd where
  kind : Nat
  cl : Nat
  unit : Nat
  deriving DecidableEq, Repr

/-- The bytes present for a consumer and whether the port is its own (R370). -/
def State.streamAt (s : State) (gen port : Nat) (u : StreamEnd) : Option Stream :=
  s.streams.find? fun t => t.gen == gen && t.port == port && t.ckind == u.kind && t.ccl == u.cl && t.cunit == u.unit

/-- The next `n` bytes of a port taken by its consumer (R261, R370): fail with cause 0x09 at a port that is not its own. -/
def State.streamTake (s : State) (gen port : Nat) (u : StreamEnd) (n : Nat) : Got :=
  match s.streamAt gen port u with
  | none => .fail 0x09 port s
  | some t =>
    let upd (f : Stream → Stream) : State := { s with streams := s.streams.map fun x => if x == t then f x else x }
    if t.here.length < n then .wait (upd fun x => { x with want := n })
    else .ok (t.here.take n) (upd fun x => { x with here := x.here.drop n, want := 0 })

/-- Bytes outstanding of a stream against its consumer's credit of 16 flits of 32 bytes; what its present command needs
counts as taken (R370). -/
def Stream.room (t : Stream) (n : Nat) : Bool :=
  decide (t.flight.length + (t.here.length - t.want) + n ≤ 512) || t.flight.isEmpty && t.here.isEmpty

/-- A stream packet of `n` bytes in the port's class passes the producer's token bucket (R368, R370), unless every consumer is in its
cluster; none while it has to wait. -/
def State.streamPort (s : State) (cl cls n : Nat) (leaves : Bool) : Option State :=
  let g := s.cluster cl
  let f := max 1 ((n + 223) / 224) + (n + 31) / 32
  if !leaves then some s
  else if g.held.any (·.cls == cls) || !g.bucketLets cls f then none
  else some (s.setCluster cl (g.bucketTake cls f))

/-- Bytes pushed by a port's producer to its branches (R260, R369, R370): fail at a port whose producer it is not. -/
def State.streamPush (s : State) (gen port : Nat) (u : StreamEnd) (branches : List Nat) (bs : List Byte) : Got :=
  let sel (t : Stream) : Bool := t.gen == gen && t.port == port && branches.contains t.branch
  let mine := s.streams.filter sel
  if mine.isEmpty || mine.any fun t => t.pkind != u.kind || t.pcl != u.cl || t.punit != u.unit then .fail 0x09 port s
  else if !(mine.all fun t => t.room bs.length) then .wait s
  else
    match s.streamPort u.cl ((mine.head?.map (·.cls)).getD 0) bs.length (mine.any fun t => t.ccl != u.cl) with
    | none => .wait s
    | some s => .ok [] { s with streams := s.streams.map fun t => if sel t then { t with flight := t.flight ++ bs } else t }

/-- The branches of a port. -/
def State.branchesOf (s : State) (gen port : Nat) : List Nat :=
  (s.streams.filter fun t => t.gen == gen && t.port == port).map (·.branch)

/-- The places whose accesses by a unit of a cluster travel the torus (R364). -/
def Loc.leaves (cl : Nat) : Loc → Bool
  | .spad c _ => c != cl
  | .mem a | .side a _ => homeDie a != dieOf cl
  | _ => false

/-- The request of a hart or of a matrix command for places passes the injection port in the class of memory requests (R366, R368); none while
it has to wait. -/
def State.memPort (s : State) (cl : Nat) (ls : List Loc) (bytes : Nat) : Option State :=
  s.streamPort cl 4 bytes (ls.any (·.leaves cl))

/-- An access of a hart before its first byte moves: none while its request has to wait at the port. -/
def State.hartPort (s : State) (u : Accessor) (acc : Acc) (addr n bytes : Nat) : Option State :=
  match s.placesNow u acc addr n with
  | .error _ => some s
  | .ok (ls, _) => s.memPort u.cl ls bytes

/-- `n` bytes read by a hart, from a stream or an address (R258, R261). -/
def State.hartRead (s : State) (u : Accessor) (h addr n : Nat) : Got :=
  if isStream addr then
    if bits addr 59 8 ≠ 0 then .fail 0x09 addr s else s.streamTake u.gen (addr % 256) ⟨0, u.cl, h⟩ n
  else
    match s.hartPort u .read addr n 0 with
    | some s => s.readNow u addr n
    | none => .wait s

/-- Bytes written by a hart, to a stream or an address (R258, R261). -/
def State.hartWrite (s : State) (u : Accessor) (h addr : Nat) (bs : List Byte) : Got :=
  if isStream addr then
    if bits addr 59 8 ≠ 0 then .fail 0x09 addr s
    else s.streamPush u.gen (addr % 256) ⟨0, u.cl, h⟩ (s.branchesOf u.gen (addr % 256)) bs
  else
    match s.hartPort u .write addr bs.length bs.length with
    | some s => s.writeNow u addr bs
    | none => .wait s

end Sys2Proof.Machine
end

