-- ==== Sys2Proof/Machine/Ops.lean ====
section
/-! DEFINITION. The shared operations of every instruction: the frame port with SignalSlot (R38, R126, R127), the life
of an activation (R40–R42, R118–R120, R142, R347), Commit (R38), taking an exception and returning from it (R391–R393),
and the sequencing around an instruction (R55, R60, R114). -/
namespace Sys2Proof.Machine

open Sys2Proof

/-! The frame port. -/

/-- The reference of a slot word, as TVAL of a record names it (R122, R390). -/
def slotRef (core fid k : Nat) : Nat := (frameRef core fid).toNat + k * 2 ^ 47

/-- COUNT of a slot word (R24). -/
def cnt (w : Word) : Nat := wbits w 15 0
/-- COPIES of a slot word. -/
def copies (w : Word) : Nat := wbits w 38 36

/-- What a slot word's fire queues. -/
structure Fire where
  plate : Nat
  off8 : Nat
  pri : Nat
  err : Bool
  ecls : Nat
  deriving DecidableEq, Repr

/-- The decrement of SignalSlot and SignalSlotN on a word whose COUNT is at least `n` (R38, R126): the new word, and the
fire when COUNT reaches 0. -/
def decSlot (w : Word) (n err : Nat) : Word × Option Fire :=
  let w := setBits w 15 0 (cnt w - n)
  let w := if err = 0 then w else setBits (setBits w 46 46 1) 41 39 (errClass err)
  if cnt w = 0 then
    let f : Fire := { plate := wbits w 27 26, off8 := wbits w 25 16, pri := wbits w 35 28,
                      err := w.getLsbD 46, ecls := wbits w 41 39 }
    let w := setBits (setBits (setBits w 46 46 0) 41 39 0) 45 45 1
    (if w.getLsbD 47 then setBits w 15 0 (wbits w 63 48) else w, some f)
  else (w, none)

/-- Activations that hold a place among the core's 1,024 (R346). -/
def Core.load (k : Core) : Nat :=
  k.ready.length + (k.ctxs.filter fun (_, c) => c.phase != .idle).length + k.misses.length + k.cextQ.length

/-- The ready queue has a place (R346). -/
def Core.room (k : Core) : Bool := decide (k.load < 1024)

/-- A new activation number of a core. -/
def State.newAct (s : State) (core : Nat) (a : Act) : State × Act :=
  let k := s.core core
  (s.setCore core { k with acts := k.acts + 1 }, { a with id := k.acts * 8192 + core })

/-- Enqueue at the tail of the activation's level (R38, R348). -/
def State.enqueue (s : State) (core : Nat) (a : Act) : State :=
  s.modCore core fun k => { k with ready := snoc k.ready { a with since := s.time } }

/-- The activation of a fire. -/
def Fire.act (f : Fire) (fid ix tag : Nat) (aff : Option Nat) : Act :=
  { fid := some fid, plate := f.plate, off8 := f.off8, ix := ix, tag := tag, level := f.pri, first := f.pri,
    err := f.err, ecls := f.ecls, aff := aff }

/-- Signals and messages of an instance dropped by cancellation (R338). -/
def State.dropped (s : State) (gen n : Nat) : State := s.modInst gen fun i => { i with drop := i.drop + n }

/-- The instance enters DRAINING when its done slot fires (R334, R336). -/
def State.fired (s : State) (gen core fid ix : Nat) : State :=
  s.modInst gen fun i => if i.st == .running && i.done == some (core, fid, ix) then { i with st := .draining } else i

/-- An activation that has waited elsewhere is queued again; where its frame has been spilled meanwhile, it waits for the reload
(R23, R321). -/
def State.rejoin (s : State) (core : Nat) (a : Act) : State :=
  match a.fid with
  | none => s.enqueue core a
  | some f =>
    let e := (s.core core).fent f
    if e.v && !e.res then
      s.modCore core fun k => { k.setFent f { k.fent f with rld := true } with spillQ := snoc k.spillQ { a with since := s.time } }
    else s.enqueue core a

/-- The fire of a slot copy is queued, or, of a spilled frame, waits for its reload (R23). -/
def State.queueFire (s : State) (core gen : Nat) (a : Act) : State :=
  let fid := a.fid.getD 0
  let (s, a) := s.newAct core a
  let s := s.fired gen core fid a.ix
  if ((s.core core).fent fid).res then s.enqueue core a
  else s.modCore core fun k =>
    { k.setFent fid { k.fent fid with rld := true } with spillQ := snoc k.spillQ a }

/-- Words written to a frame. -/
def State.setWords (s : State) (core fid : Nat) : List (Nat × Word) → State
  | [] => s
  | (i, w) :: t => (s.setSlotWord core fid i w).setWords core fid t

/-- The cause with which an update of frame words fails (R308, R401, R402), 0 for none: a word of frame SRAM that it reads,
or any word whose line at the home is poisoned. -/
def State.frameErr (s : State) (core fid : Nat) (org : Origin) : List Nat → Nat × State
  | [] => (0, s)
  | i :: t =>
    let k := s.core core
    let e := k.fent fid
    if e.res then
      let w := 32 * e.gran + i
      if SMap.get false k.fbad w then
        (0x10, (s.setCore core { k with fbad := SMap.put false k.fbad w false, fpoison := SMap.put false k.fpoison w true }).pruneSoon
          1 (clOf core) (core % 16) (w / 8))
      else if SMap.get false k.fpoison w then (0x11, s)
      else s.frameErr core fid org t
    else
      let line := (k.spillBase.toNat + 4096 * e.home + 8 * i) / 64
      if SMap.get false s.hbad line then (0x10, s.poisonLine line org)
      else if SMap.get false s.hpoison line then (0x11, s)
      else s.frameErr core fid org t

/-- The spill home of a frame lies in HBM4 (R460). -/
def State.homeOk (s : State) (core fid : Nat) : Bool :=
  let k := s.core core
  let e := k.fent fid
  e.res || decide (k.spillBase.toNat + 4096 * e.home + 4096 ≤ 2 ^ 40)

/-- A record against the instance of a frame whose home lies outside HBM4 (R460). -/
def State.homeFault (s : State) (core fid : Nat) : State :=
  let gen := (s.cluster (clOf core)).gen
  s.raise { core := core, node := .slot core fid 0, gen := gen } 0x08 true
    ((s.core core).spillBase.toNat + 4096 * ((s.core core).fent fid).home) (.slot core fid 0)

/-- A word that the machine itself changes in part (R308, R402, R460): a word that is poisoned or uncorrectable, or whose home lies outside
HBM4, keeps what it holds, and a record names the cause. -/
def State.changeWord (s : State) (core fid i : Nat) (f : Word → Word) : Bool × State :=
  let gen := (s.cluster (clOf core)).gen
  let org : Origin := { core := core, node := .slot core fid i, gen := gen }
  if !s.homeOk core fid then (false, s.homeFault core fid)
  else
    let (c, t) := s.frameErr core fid org [i]
    if c ≠ 0 then (false, t.raise org c true (slotRef core fid i) (.slot core fid i))
    else (true, t.setSlotWord core fid i (f (t.slotWord core fid i)))

/-- RP of a slot copy becomes `b` (R24). A word that carries an error keeps what it holds, and no record tells of it, since a detection that
ends in redelivery raises none (R401, R402; log entry 112). -/
def State.putRp (s : State) (core fid i b : Nat) : State :=
  if !s.homeOk core fid then s.homeFault core fid
  else if (s.frameErr core fid {} [i]).1 ≠ 0 then s
  else s.setSlotWord core fid i (setBits (s.slotWord core fid i) 45 45 b)

/-- A slot word written by a slot action: the slot map gains it, and SP is set while the frame is spilled (R23). -/
def State.putSlot (s : State) (core fid k : Nat) (w : Word) : State :=
  let w := if ((s.core core).fent fid).res then w else setBits w 44 44 1
  (s.setSlotWord core fid k w).markSlot core fid k

/-- The checks of R127 on a frame update: the fault record of a dropped one. `ws` are the words written. -/
def State.frameCheck (s : State) (p : Pkt) (fid k : Nat) (ws : List (Nat × Word)) : Option State :=
  let e := (s.core p.dst).fent fid
  let node := Node.slot p.dst fid k
  let org := { p.org with tag := p.tag, gen := p.gen }
  if !e.v then some (s.raise org 0x13 true (slotRef p.dst fid k) node)
  else if e.words ≤ k || ws.any (fun (i, _) => decide (e.words ≤ i)) then
    some (s.raise org 0x09 true (slotRef p.dst fid k) node)
  else if !s.homeOk p.dst fid then some (s.raise org 0x08 true (slotRef p.dst fid k) node)
  else none

/-- The counted copy of slot word `i` for route tag `t` (R25). -/
def State.copyOf (s : State) (core fid i t : Nat) : Option Nat :=
  let c := copies (s.slotWord core fid i)
  if 3 < c then none else some (i + t % 2 ^ c)

/-- One indivisible frame update (R26, R127, R132): the words written, then `n` signals of slot `i` with `err`. In a frozen
instance a cancelled word drops it (R351). -/
def State.signalN (s : State) (p : Pkt) (fid i n err : Nat) (ws : List (Nat × Word)) (aff : Option Nat) : State :=
  match s.frameCheck p fid i ws with
  | some t => t
  | none =>
    let core := p.dst
    let org := { p.org with tag := p.tag, gen := p.gen }
    let e := (s.core core).fent fid
    let fail (s : State) (c k : Nat) : State := s.raise org c true (slotRef core fid k) (.slot core fid k)
    let (c, s) := s.frameErr core fid org (if e.res then [] else ws.map (·.1))
    if c ≠ 0 then fail s c i
    else
      -- the signal follows the writes, which may reach the slot word itself; when it faults, nothing is written
      let u := s.setWords core fid ws
      match u.copyOf core fid i p.tag with
      | none => fail s 0x13 i
      | some k =>
        let w := u.slotWord core fid k
        if e.words ≤ k then fail s 0x09 k
        else if (u.frameErr core fid org [i, k]).1 ≠ 0 then
          fail (s.frameErr core fid org [i, k]).2 (u.frameErr core fid org [i, k]).1 k
        else if cnt w < n || cnt w = 0 then
          if s.isFrozen p.gen && w.getLsbD 42 && cnt w == 0 then s.modInst p.gen fun x => { x with drop := x.drop + 1 }
          else fail s 0x13 k
        else
          let (w, f) := decSlot w n err
          let u := u.putSlot core fid k w
          match f with
          | none => u
          | some f => u.queueFire core p.gen (f.act fid k p.tag aff)

/-- AddSlot (R126). -/
def State.addSlot (s : State) (p : Pkt) (fid i n : Nat) : State :=
  match s.frameCheck p fid i [] with
  | some t => t
  | none =>
    let core := p.dst
    let org := { p.org with tag := p.tag, gen := p.gen }
    let (c, s) := s.frameErr core fid org [i]
    if c ≠ 0 then s.raise org c true (slotRef core fid i) (.slot core fid i)
    else
    match s.copyOf core fid i p.tag with
    | none => s.raise org 0x13 true (slotRef core fid i) (.slot core fid i)
    | some k =>
      let w := s.slotWord core fid k
      if ((s.core core).fent fid).words ≤ k then s.raise org 0x09 true (slotRef core fid k) (.slot core fid k)
      else
      let (c, s) := s.frameErr core fid org [k]
      if c ≠ 0 then s.raise org c true (slotRef core fid k) (.slot core fid k)
      else if 65535 < cnt w + n then s.raise org 0x13 true (slotRef core fid k) (.slot core fid k)
      else s.putSlot core fid k (setBits w 15 0 (cnt w + n))

/-- The value SLOTSET leaves: with `keep`, COUNT, EL, RP, SP and CX keep their old contents (R126). -/
def slotsetWord (old v : Word) (keep : Bool) : Word :=
  if keep then
    setBits (setBits (setBits v 15 0 (cnt old)) 46 44 (wbits old 46 44)) 42 42 (wbits old 42 42)
  else v

/-- SLOTSET (R126). -/
def State.slotSet (s : State) (p : Pkt) (fid i : Nat) (v : Word) (keep : Bool) : State :=
  match s.frameCheck p fid i [] with
  | some t => t
  | none =>
    let core := p.dst
    let org := { p.org with tag := p.tag, gen := p.gen }
    let (c, s) := s.frameErr core fid org [i]
    if c ≠ 0 then s.raise org c true (slotRef core fid i) (.slot core fid i)
    else
    let k := (s.copyOf core fid i p.tag).getD i
    if ((s.core core).fent fid).words ≤ k then s.raise org 0x09 true (slotRef core fid k) (.slot core fid k)
    else
      let (c, s) := s.frameErr core fid org (if keep || !((s.core core).fent fid).res then [k] else [])
      if c ≠ 0 then s.raise org c true (slotRef core fid k) (.slot core fid k)
      else s.putSlot core fid k (slotsetWord (s.slotWord core fid k) v keep)

/-- The route tag that selects the copy of the slot which a packet names (R25): a memory response carries that of its slot itself (R169,
R178). -/
def Pkt.slotTag (p : Pkt) : Nat :=
  match p.body with
  | .ldfarResp _ _ c | .atomicResp _ _ c => c.tag
  | _ => p.tag

/-- Whether a decrement by `n` would fire into the ready queue; an update that decrements nothing has `n` = 0. -/
def State.wouldFire (s : State) (p : Pkt) (fid i n : Nat) : Bool :=
  let e := (s.core p.dst).fent fid
  n != 0 && e.v && e.res && (match s.copyOf p.dst fid i p.slotTag with
    | some k => decide (k < e.words) && cnt (s.slotWord p.dst fid k) == n
    | none => false)

/-- The frame a port update names, and the decrement it would make. -/
def Body.target : Body → Option (Nat × Nat × Nat)
  | .sig f k _ _ _ => some (f, k, 1)
  | .sigr f k n => some (f, k, n)
  | .slotadd f k _ => some (f, k, 0)
  | .slotset f k _ _ => some (f, k, 0)
  | .sendf f k _ _ => some (f, k, 1)
  | .complete f _ k _ => some (f, k, 1)
  | .ldfarResp _ _ c => some (c.fid, c.k, 1)
  | .atomicResp _ _ c => some (c.fid, c.k, 1)
  | _ => none

/-- Frame words that start at `w`. -/
def wordsFrom (w : Nat) : List Word → List (Nat × Word)
  | [] => []
  | v :: t => (w, v) :: wordsFrom (w + 1) t

/-- A frame-port update applied (R26, R126, R132); the completion of a memory access signals its slot with the slot's own route tag
(R169, R178). -/
def State.update (s : State) (p : Pkt) : State :=
  match p.body with
  | .sig f k err aff unpin =>
    let s := s.signalN p f k 1 err [] aff
    if unpin then s.unpin p.dst f else s
  | .sigr f k n => s.signalN p f k n 0 [] none
  | .slotadd f k n => s.addSlot p f k n
  | .slotset f k v keep => s.slotSet p f k v keep
  | .sendf f k dw ws => s.signalN p f k 1 0 (wordsFrom dw ws) none
  | .complete f ws k err => (s.signalN p f k 1 err ws none).unpin p.dst f
  | .ldfarResp ws err c | .atomicResp ws err c => (s.signalN { p with tag := c.tag } c.fid c.k 1 err ws none).unpin p.dst c.fid
  | _ => s

/-- A frame-port update applied, and thereby performed (R171). -/
def State.applyPort (s : State) (p : Pkt) : State := (s.update p).noted p

/-- Frame-write entries applied to the own frame in program order (R38); a partial write of a poisoned word writes nothing
and raises a record (R402). -/
def State.applyFw (s : State) (core fid : Nat) (org : Origin) : List FwEnt → State
  | [] => s
  | e :: t =>
    let k := s.core core
    let base := 256 * (k.fent fid).gran
    let words := (e.map fun (o, _) => (base + o) / 8).eraseDups
    let covered (w : Nat) : Bool := (List.range 8).all fun j => e.any fun (o, _) => base + o == 8 * w + j
    let bad (o : Nat) : Bool := SMap.get false k.fpoison ((base + o) / 8) && !covered ((base + o) / 8)
    let m := e.foldl (fun m (o, b) => if bad o then m else SMap.put 0 m (base + o) b) k.fsram
    let clear (m : SMap Bool) : SMap Bool := words.foldl (fun m w => if covered w then SMap.put false m w false else m) m
    let s' := s.setCore core { k with fsram := m, fpoison := clear k.fpoison, fbad := clear k.fbad }
    let s' := match e.find? (fun (o, _) => bad o) with
      | some (o, _) => s'.record org 0x11 o
      | none => s'
    s'.applyFw core fid org t

/-- Whether a port update can be applied now: its frame is not being moved (R321), and a fire finds a place (R346). -/
def State.portReady (s : State) (p : Pkt) : Bool :=
  match p.body.target with
  | none => true
  | some (f, k, n) => !((s.core p.dst).fent f).held && (!s.wouldFire p f k n || (s.core p.dst).room)

/-- The updates held at a core's frame port (R346). -/
def Core.portPkts (k : Core) : List Pkt :=
  k.portQ.filterMap fun
    | .pkt p => some p
    | _ => none

/-- Held port items applied while the first of them can be (R346). -/
def State.drainPort (s : State) (core : Nat) : Nat → State
  | 0 => s
  | n + 1 =>
    match (s.core core).portQ with
    | [] => s
    | .pkt p :: t =>
      if s.portReady p then ((s.modCore core fun k => { k with portQ := t }).applyPort p).drainPort core n else s
    | .act a :: t =>
      if (s.core core).room then ((s.modCore core fun k => { k with portQ := t }).rejoin core a).drainPort core n else s
    | .fw _ f org es :: t => ((s.modCore core fun k => { k with portQ := t }).applyFw core f org es).drainPort core n

/-- The generation check of R340: a packet for a cluster whose instance has another GEN, or that has none, is stale. -/
def State.stale (s : State) (p : Pkt) : Bool :=
  let k := s.cluster (clOf p.dst)
  !k.loaded || k.gen != p.gen

/-- A stale packet is dropped and counted (R340, R365). -/
def State.dropStale (s : State) (p : Pkt) : State :=
  s.modCluster (clOf p.dst) fun k => { k with gdrop := k.gdrop + 1 }

/-- A packet whose KIND is not listed (R361). -/
def Body.isUnlisted : Body → Bool
  | .unlisted _ => true
  | _ => false

/-- Arrival of an update at the frame port of its core (R127, R346). -/
def State.arrive (s : State) (p : Pkt) : State :=
  if s.stale p || p.body.isUnlisted then (s.dropStale p).noted p
  else if (s.core p.dst).portQ.isEmpty && s.portReady p then s.applyPort p
  else s.modCore p.dst fun k => { k with portQ := snoc k.portQ (.pkt p) }

/-! Channel messages (R133). -/

def taskVal (w : Word) : Bool := w.getLsbD 31
def taskBlk (w : Word) : Bool := w.getLsbD 30

/-- The activation of a channel message (R27, R133). -/
def chanAct (ch tag sender : Nat) (t : Word) (payload : List Byte) : Act :=
  { fid := none, plate := wbits t 11 10, off8 := wbits t 9 0, ix := ch, tag := tag, level := wbits t 19 12,
    first := wbits t 19 12, inbox := payload, sender := sender }

/-- Whether the error token has reached a channel of a frozen instance (R351). -/
def State.reachedChan (s : State) (gen core ch : Nat) : Bool :=
  match s.inst? gen with
  | some i => i.st == .frozen && i.reached.contains (.chan core ch)
  | none => false

/-- The core that sent a message: of one from another package, that package's (R401). -/
def Pkt.sender (p : Pkt) : Nat := if p.org.pkg.isSome && decide (32768 ≤ p.src) then (p.src - 32768) % 8192 else p.org.core

/-- A message queued as an activation of its channel (R133). -/
def State.queueChan (s : State) (p : Pkt) (ch : Nat) (payload : List Byte) : State :=
  let (s, a) := s.newAct p.dst (chanAct ch p.tag p.sender (SMap.get 0 (s.core p.dst).tasks ch) payload)
  s.enqueue p.dst a

/-- A message delivered to its channel: queued as an activation, or left in the network interface while the ready queue is
full (R133, R346). -/
def State.deliverChan (s : State) (p : Pkt) (ch : Nat) (payload : List Byte) : State :=
  let k := s.core p.dst
  if k.room && k.niQ.isEmpty then s.queueChan p ch payload else s.setCore p.dst { k with niQ := snoc k.niQ p }

/-- A channel message for core `dst`. -/
def Pkt.forCore (p : Pkt) (dst : Nat) : Bool :=
  p.dst == dst && (match p.body with
    | .chan _ _ => true
    | _ => false)

/-- A message for channel `ch` of core `dst`. -/
def Pkt.toChan (p : Pkt) (dst ch : Nat) : Bool :=
  p.dst == dst && (match p.body with
    | .chan c _ => c == ch
    | _ => false)

/-- A packet that a full galley refuses (R372): the completion slot of its own that the sending action names receives an ErrorSignal;
otherwise a record is raised. -/
def State.refuse (s : State) (p : Pkt) (node : Node) : State :=
  let org := { p.org with tag := p.tag, gen := p.gen }
  match p.own with
  | some c => s.signal org c 0x15 false (some (clOf p.dst))
  | none => s.raise org 0x15 true p.dst node 0 (some (clOf p.dst))

/-- A message for a blocked channel is held: in the core's input queue, and, with that full, in the cluster's galley (R133, R372). -/
def State.holdChan (s : State) (p : Pkt) (ch : Nat) : State :=
  let k := s.core p.dst
  let g := s.cluster (clOf p.dst)
  if k.inputQ.length < 16 then s.setCore p.dst { k with inputQ := snoc k.inputQ p }
  else if g.galley.length < 64 then s.setCluster (clOf p.dst) { g with galley := snoc g.galley p }
  else s.refuse p (.chan p.dst ch)

/-- Messages of a core move up from the galley while its input queue has a place, so that each channel's keep their order (R133; DEDUCED,
log entry 33). -/
def State.moveUp (s : State) (core : Nat) : State :=
  let k := s.core core
  let g := s.cluster (clOf core)
  let up := (g.galley.filter (·.forCore core)).take (16 - k.inputQ.length)
  (s.setCore core { k with inputQ := k.inputQ ++ up }).setCluster (clOf core)
    { g with galley := up.foldl (fun l p => removeOne p l) g.galley }

/-- What becomes of a message that its channel does not take now (R28, R133, R340, R351); none when it takes it. -/
def State.turnedAway (s : State) (p : Pkt) (ch : Nat) : Option State :=
  let t := SMap.get 0 (s.core p.dst).tasks ch
  if s.stale p then some (s.dropStale p)
  else if s.reachedChan p.gen p.dst ch then some (s.modInst p.gen fun i => { i with drop := i.drop + 1 })
  else if !taskVal t then some (s.raise { p.org with tag := p.tag, gen := p.gen } 0x1B true ch (.chan p.dst ch))
  else if taskBlk t then some (s.holdChan p ch)
  else none

/-- Arrival of a channel message (R28, R133, R351); behind one of its channel that waits in the network interface it waits too. -/
def State.arriveChan (s : State) (p : Pkt) (ch : Nat) (payload : List Byte) : State :=
  if !s.stale p && (s.core p.dst).niQ.any (·.toChan p.dst ch) then s.modCore p.dst fun k => { k with niQ := snoc k.niQ p }
  else
    match s.turnedAway p ch with
    | some t => t
    | none => s.deliverChan p ch payload

/-- Messages left in the network interface go on while there is a place (R346); one whose channel has been blocked since is held
(R134). -/
def State.drainNi (s : State) (core : Nat) : Nat → State
  | 0 => s
  | n + 1 =>
    let k := s.core core
    match k.niQ with
    | [] => s
    | p :: t =>
      let s' := s.setCore core { k with niQ := t }
      match p.body with
      | .chan ch payload =>
        (match s'.turnedAway p ch with
          | some u => u.drainNi core n
          | none => if k.room then (s'.queueChan p ch payload).drainNi core n else s)
      | _ => s'.drainNi core n

/-- The messages of a channel that has been blocked, left in the network interface, are held (R134). -/
def State.rehold (s : State) (core ch : Nat) : State :=
  let k := s.core core
  (k.niQ.filter (·.toChan core ch)).foldl (fun t p => (t.turnedAway p ch).getD t)
    (s.setCore core { k with niQ := k.niQ.filter fun p => !p.toChan core ch })

/-! Pins and the replay buffer (R165, R166). -/

/-- The pins of an activation removed from an L1. -/
def unpinLines (m : SMap (Option L1Line)) (act : Nat) : SMap (Option L1Line) :=
  m.filterMap fun (line, e) =>
    match e with
    | none => none
    | some l =>
      let ps := l.pins.filter (· != act)
      if ps.isEmpty && l.valid = 0 then none else some (line, some { l with pins := ps })

/-- The L1 slices that can hold lines of a core. -/
def State.slices (s : State) (core : Nat) : List Nat :=
  if (s.core core).l1mode then (List.range 16).map (clOf core * 16 + ·) else [core]

/-- Fills requested for an activation (R165). -/
def State.requestFills (s : State) (core : Nat) : List Nat → State
  | [] => s
  | l :: t => (s.after 0 (.l1Fill core l)).requestFills core t

/-- The replay buffer passes to the next waiting activation, whose lines are requested (R166). -/
def State.handOff (s : State) (core : Nat) : State :=
  let k := s.core core
  match k.misses.find? (·.forBuf) with
  | none => s.setCore core { k with rbOwner := none, rb := [] }
  | some m =>
    let ms := k.misses.map fun x => if x.act.id == m.act.id then { x with forBuf := false } else x
    (s.setCore core { k with rbOwner := some m.act.id, rb := [], misses := ms }).requestFills core m.lines

/-- An activation that commits, or is aborted for a reason other than a miss, gives up its pins, the replay buffer and
the walk faults handed to it (R165, R166, R414). -/
def State.releaseLines (s : State) (core act : Nat) : State :=
  let s := (s.slices core).foldl (fun t c => t.modCore c fun k => { k with l1 := unpinLines k.l1 act }) s
  let s := s.modCore core fun k => { k with walkFaults := k.walkFaults.filter (·.act != act) }
  if (s.core core).rbOwner = some act then s.handOff core else s

/-! Plates (R31). -/

/-- A plate is named by a ready entry, a running activation or its link stack, or a queued firing. -/
def Core.namesPlate (k : Core) (p : Nat) : Bool :=
  k.ready.any (·.plate == p) || k.misses.any (·.act.plate == p) || k.spillQ.any (·.plate == p) || k.cextQ.any (·.2.plate == p)
    || k.portQ.any (fun
      | .act a => a.plate == p
      | _ => false)
    || k.ctxs.any fun (_, c) => c.phase != .idle
      && (c.plate == p || c.act.plate == p || c.links.any (fun (q, _) => q == p)
        || (match c.trap with
          | some t => t.act.plate == p
          | none => false))

/-- Draining plates that nothing names become invalid (R31, R344). -/
def State.recycle (s : State) (core : Nat) : State :=
  s.modCore core fun k =>
    (List.range 4).foldl (fun k p =>
      if (k.plate p).st == .draining && !k.namesPlate p then k.setPlate p {} else k) k

/-! The life of an activation. -/

/-- The register state of an activation start (R15) at a plate and byte offset. -/
def startCtx (a : Act) (priv : Bool) (gen plate off : Nat) : Ctx :=
  { m := [(0, BitVec.allOnes 128)], plate := plate, off := off, phase := .running, act := a, priv := priv, gen := gen }

/-- The last queued activation of a slot copy that starts clears its RP (R24, R38); one that the full ready queue holds at the
frame port is queued too (R346). -/
def State.clearRp (s : State) (core : Nat) (a : Act) : State :=
  match a.fid with
  | none => s
  | some f =>
    let k := s.core core
    let same (b : Act) : Bool := b.fid == some f && b.ix == a.ix
    if k.ready.any same || k.misses.any (fun m => same m.act) || k.spillQ.any same || k.cextQ.any (fun q => same q.2)
        || k.portQ.any (fun
          | .act b => same b
          | _ => false) then s
    else s.putRp core f a.ix 0

/-- RP of a slot copy set again, for an activation that waits once more (R119, R142). -/
def State.setRp (s : State) (core : Nat) (a : Act) : State :=
  match a.fid with
  | none => s
  | some f => s.putRp core f a.ix 1

/-- The running activation's context becomes idle: its frame loses the context's pin, `again` lets the activation wait once
more in the place it keeps among the core's 1,024, and then held work moves up (R130, R139, R346). `lines` says whether its
pinned lines are given up. -/
def State.endAct (s : State) (core x : Nat) (lines : Bool) (again : State → State) : State :=
  let c := (s.core core).ctx x
  let s := s.modCore core fun k => { k.setCtx x {} with commits := k.commits.filter (· != x) }
  let s := match c.act.fid with
    | some f => s.unpin core f
    | none => s
  let s := again (if lines then s.releaseLines core c.act.id else s)
  let s := s.drainPort core (s.core core).portQ.length
  let s := s.drainNi core (s.core core).niQ.length
  s.recycle core

/-- An activation queued again at the tail of the level at which it was first queued (R142, R348). -/
def State.requeue (s : State) (core : Nat) (a : Act) : State :=
  (s.setRp core a).enqueue core { a with level := a.first }

/-- Slot `i` marked for orphaning if context `x` has it BUSY, or in STATE with a command outstanding, and with it the context's commands
on it that are accepted or wait for the region (R18, R211). -/
def Core.markSlot (x : Nat) (k : Core) (i : Nat) : Core :=
  let a := k.aslot i
  let tag := a.ctx == x && (a.st == .busy || (a.st == .state && 0 < a.busy))
  let next := a.rel && a.next == some x
  let mark (c : MCmd) : MCmd := if c.ctx == x && c.sl == i then { c with marked := true } else c
  if tag || next then
    { k.setAslot i { a with orphan := a.orphan || tag, nextOrphan := a.nextOrphan || next } with
      lane := k.lane.map mark, regionQ := k.regionQ.map mark }
  else k

/-- The slots of a context are marked when an activation on it aborts or it is stopped (R211). -/
def State.orphan (s : State) (core x : Nat) : State := s.modCore core fun k => (List.range 4).foldl (Core.markSlot x) k

/-- The activation of a context as an abort queues it again: from a trap handler, the handler starts again (R393). -/
def Ctx.replay (c : Ctx) : Act :=
  match c.trap with
  | some t => { c.act with hand := some (t.cause, t.tval, t.epc) }
  | none => c.act

/-- Abort (R38, R41): both buffers and the registers are discarded; `requeue` queues the activation again. -/
def State.abort (s : State) (core x : Nat) (requeue : Bool) : State :=
  let a := ((s.core core).ctx x).replay
  (s.orphan core x).endAct core x true fun s => if requeue then s.requeue core a else s

/-- A cluster's TLB miss (R413): misses of one generation and page share a walk. Requests past the 2,112 that a die's walkers and queue hold keep
the order of their arrival (DESIGN CHOICE, log entry 114). -/
def State.requestWalk (s : State) (cl page : Nat) : State :=
  let gen := (s.cluster cl).gen
  s.modDie (dieOf cl) fun k =>
    if k.walks.any fun w => w.gen == gen && w.page == page then
      { k with walks := k.walks.map fun w =>
          if w.gen == gen && w.page == page && w.cl != cl && !w.more.contains cl then { w with more := snoc w.more cl } else w }
    else { k with walks := snoc k.walks { cl := cl, gen := gen, page := page } }

/-- Abort for a miss (R165): the activation waits for its lines and walks, and keeps its pins. -/
def State.missAbort (s : State) (core x : Nat) (lines pages : List Nat) (forBuf : Bool) : State :=
  let a := ((s.core core).ctx x).replay
  let s := (s.orphan core x).endAct core x false fun s =>
    (s.setRp core a).modCore core fun k =>
      { k with misses := snoc k.misses { act := { a with level := a.first }, lines := lines, pages := pages, forBuf := forBuf } }
  let cl := clOf core
  let s := pages.foldl (fun t p => t.requestWalk cl p) s
  if forBuf then s else s.requestFills core lines

/-! Exceptions (R38, R391–R393). -/

/-- The node of an activation (R350). -/
def Act.node (a : Act) (core : Nat) : Node :=
  match a.fid with
  | some f => .slot core f a.ix
  | none => .chan core a.ix

/-- EPC of a plate and offset (R34): offset 8192, of a fetch behind the plate's end (R60), does not fit its 13 bits and reads 0
(DESIGN CHOICE, log entry 25). -/
def epcOf (plate off : Nat) : Nat := plate * 2 ^ 13 + off % 2 ^ 13

/-- The fault record of a precise trap (R393, R394). -/
def State.trapRecord (s : State) (core gen : Nat) (t : Trapped) : State :=
  s.raise { core := core, node := t.act.node core, tag := t.act.tag, gen := gen } t.cause false t.tval (t.act.node core) t.epc

/-- The activation numbers of a handler stay those of the trapped activation; its registers are those of a start (R393). -/
def handlerCtx (c : Ctx) (t : Trapped) (tvec : Word) : Ctx :=
  { startCtx c.act c.priv c.gen (wbits tvec 14 13) (wbits tvec 12 3 * 8) with
    trap := some t, cause := BitVec.ofNat 64 t.cause, tval := BitVec.ofNat 64 t.tval, epc := BitVec.ofNat 64 t.epc }

/-- Taking an exception: a precise trap of the running context `x` of a core (R38, R393). The activation is aborted without
requeue. With TVEC.EN = 1 the handler starts at once on the same context; otherwise, or inside a handler, records are
raised. -/
def State.takeTrap (s : State) (core x cause tval : Nat) : State :=
  let k := s.core core
  let c := k.ctx x
  let t : Trapped := { act := c.act, cause := cause, tval := tval, epc := epcOf c.plate c.off }
  match c.trap with
  | some t0 => ((s.abort core x false).trapRecord core c.gen t0).trapRecord core c.gen t
  | none =>
    if k.tvec.getLsbD 15 then
      let s := (s.orphan core x).releaseLines core c.act.id
      s.modCore core fun k => k.setCtx x (handlerCtx c t k.tvec)
    else (s.abort core x false).trapRecord core c.gen t

/-- A trap of an engine hart's instruction: the command fails (R261). -/
def State.hartTrap (s : State) (cl h cause tval : Nat) : State :=
  s.modCluster cl fun k => k.setHart h { k.hart h with err := cause, tval := tval, finished := true }

/-- A trap of whoever executes. -/
def State.trapNow (s : State) (cause tval : Nat) : State :=
  match s.cur with
  | .ctx c x => s.takeTrap c x cause tval
  | .hart cl h => s.hartTrap cl h cause tval

/-! Commit (R38, R130). -/

/-- The end of a Commit: the context is free, and the activation that EXITS or TRET queues again is queued (R119, R130,
R273). -/
def State.finishCommit (s : State) (core x : Nat) : State :=
  let c := (s.core core).ctx x
  s.endAct core x true fun s =>
    match c.after with
    | some a => s.requeue core a
    | none => s

/-- Whether a Commit's frame writes still wait behind what a full ready queue holds at the frame port (R26, R346). -/
def Core.fwHeld (k : Core) (x : Nat) : Bool :=
  k.portQ.any fun
    | .fw y _ _ _ => y == x
    | _ => false

/-- A Commit's frame writes reach the frame port: they are applied, or held behind the updates that are held there (R26, R346). -/
def State.portFw (s : State) (core x fid : Nat) (org : Origin) (es : List FwEnt) : State :=
  if es.isEmpty || (s.core core).portQ.isEmpty then s.applyFw core fid org es
  else s.modCore core fun k => { k with portQ := snoc k.portQ (.fw x fid org es) }

/-- Commit of the running context `x` (R38, R130): its frame writes reach the port; with nothing to issue it ends when they are applied. -/
def State.commit (s : State) (core x : Nat) (after : Option Act) : State :=
  let c := (s.core core).ctx x
  let s := match c.act.fid with
    | some f => s.portFw core x f { core := core, node := c.act.node core, tag := c.act.tag, gen := c.gen } c.fw
    | none => s
  let s := s.modCore core fun k =>
    { k.setCtx x { c with fw := [], phase := .committing, issued := 0, job := k.jobs, after := after } with
      jobs := k.jobs + 1, commits := snoc k.commits x, results := k.results.filter fun r => !c.taken.contains (r.grp, r.n) }
  if c.out.isEmpty && !(s.core core).fwHeld x then s.finishCommit core x else s

/-! Issue order and performance (R33, R180, R285). -/

/-- A write of a mailbox. -/
def OutEnt.mail (e : OutEnt) : Option (Nat × Word) :=
  match e.act with
  | .mts num v => if 0x110 ≤ num ∧ num ≤ 0x117 then some (num - 0x110, v) else none
  | _ => none

/-- A mailbox as a reader of the core finds it: a Commit that has issued one of its mailbox writes is seen with all of them, those too that
wait in the network interface, so that it shows whole (R116, R141; DEDUCED, log entry 35). -/
def Core.mailboxSeen (k : Core) (n : Nat) : Word :=
  let put (v : Word) (es : List OutEnt) : Word := ((es.filterMap OutEnt.mail).filter (·.1 == n)).foldl (fun _ w => w.2) v
  k.commits.foldl (fun v x =>
    let c := k.ctx x
    if (c.out.take c.issued).any (·.mail.isSome) then put v (c.out.drop c.issued) else v)
    (put (SMap.get 0 k.mailbox n) (k.ni.map (·.ent)))


/-- Whether the later packet `p` must stay behind `q` (R129, R180). -/
def ordered (q p : Pkt) : Bool :=
  q.src == p.src && q.src != noCore && !(answerSrc 0 ≤ q.src && decide (q.src < answerSrc 512)) &&
    (if q.body.isMem || p.body.isMem then p.locs.any fun l => q.locs.contains l
     else q.dst == p.dst && q.tag == p.tag && q.cls == p.cls && q.dpkg == p.dpkg)

/-- A place for which a packet is bound has a stop: it travels the torus or the ring to it (R364). -/
def Pkt.stopped (p : Pkt) : Bool := !p.body.isMem || (p.locs.head?.bind Loc.stop).isSome

/-- The two stops between which a packet travels a ring of its die (R363, R364): a request from a cluster to a slice, or an answer. -/
def Pkt.ring (p : Pkt) : Option (Nat × Nat) :=
  let request : Bool := match p.body with
    | .rlogPut _ _ _ _ _ | .rlogRet _ _ _ _ => true
    | _ => p.body.isMem && match p.locs.head? with
      | some (.mem _) | some (.side _ _) => true
      | _ => false
  if p.onRing then some (p.src, clOf p.dst)
  else if request && decide (p.src < noCore) && dieOf (clOf p.src) == dieOf (clOf p.dst) then some (clOf p.src, clOf p.dst)
  else none

/-- Whether the later packet `p` stays behind `q` on its way: what takes one path of the torus (R358), and what goes from one stop of a ring to
one other in one class (R364; DEDUCED, log entry 113). -/
def follows (q p : Pkt) : Bool :=
  q.cls == p.cls && q.dpkg == p.dpkg &&
    ((q.src == p.src && q.src != noCore && q.dst == p.dst && q.tag == p.tag && q.stopped && p.stopped)
      || (q.ring.isSome && q.ring == p.ring))

/-- The station by which a packet leaves for package `d` (R462). -/
def State.egress (s : State) (p : Pkt) (d : Nat) : Option Nat :=
  let mask := SMap.get 0 s.nextHop d
  let usable := (List.range 32).filter fun i =>
    mask.getLsbD i && !(SMap.get ({} : Station) s.stations i).ualink
  usable[(clOf p.org.core + d + 37 * p.tag + 101 * p.cls) % usable.length]?

/-- A packet dropped for its membership, counted at a cluster (R365, R380, R462). -/
def State.dropView (s : State) (cl : Nat) : State := s.modCluster cl fun k => { k with vdrop := k.vdrop + 1 }

/-- The dispatch that a packet is (R385): a channel message in class 6 to another package. -/
def Pkt.dispatched (p : Pkt) : Option Dispatched :=
  match p.dpkg, p.body with
  | some d, .chan _ payload =>
    if d ≠ ownPkg ∧ p.cls = 6 then
      let r : Word := BitVec.ofNat 64 (natOfBytes (payload.take 8))
      some { pkg := d, cmpl := ⟨wbits r 28 20 * 16 + wbits r 19 16, wbits r 11 0, wbits r 55 47, wbits r 58 56⟩, gen := p.gen }
    else none
  | _, _ => none

/-- A SENDF in class 6 from the destination package retires the oldest matching dispatch (R385). -/
def retireDispatch (p : Pkt) : List Dispatched → List Dispatched
  | [] => []
  | d :: t =>
    match p.body with
    | .sendf f k _ _ =>
      if p.cls = 6 ∧ d.pkg = p.spkg ∧ d.cmpl.core = p.dst ∧ d.cmpl.fid = f ∧ d.cmpl.k = k then t else d :: retireDispatch p t
    | _ => d :: t

/-- Traffic of a combining group (R380). -/
def Body.isGroup : Body → Bool
  | .contrib _ _ _ _ | .result _ _ _ _ _ | .finished _ _ _ _ _ _ => true
  | _ => false

/-- A packet with an older view tag, which R380 drops at sites. -/
def State.oldView (s : State) (p : Pkt) : Bool :=
  match p.vtag with
  | some v => p.body.isGroup && decide (v < s.views.view)
  | none => false

/-- The view check and the forme check of a cross-package packet (R340, R380), at the router of cluster `cl`. A group's
packets go to the root site of the forme named (R376). -/
def State.accept (s : State) (p : Pkt) (cl : Nat) : State :=
  let i := s.insts.find? fun i => i.fid == p.xfid && i.ver == p.xver && i.st != .unloaded
    && (p.body.isGroup || (decide (i.first ≤ clOf p.dst) && decide (clOf p.dst ≤ i.last)))
  if !s.views.members.contains p.spkg || s.oldView p then s.dropView cl
  else
    match i with
    | none => s.modCluster (clOf p.dst) fun k => { k with gdrop := k.gdrop + 1 }
    | some i =>
      let dst := if p.body.isGroup then 16 * i.first else p.dst
      { s with dispatch := retireDispatch p s.dispatch }.route
        { p with dst := dst, gen := i.gen, dpkg := none, src := 32768 + p.spkg * 8192 + p.org.core
                 org := { p.org with core := dst, gen := i.gen, kind := 4, pkg := some p.spkg } }

/-- The replay buffer keeps the latest 256 beats (R388). -/
def lastBeats : (room : Nat) → List Pkt → List Pkt
  | _, [] => []
  | room, p :: t =>
    let n := 1 + (p.body.payload + 63) / 64
    if n ≤ room then p :: lastBeats (room - n) t else []

/-- A packet leaves over a station's link (R388). -/
def Station.push (k : Station) (p : Pkt) : Station :=
  { k with tx := snoc k.tx p, replay := (lastBeats 256 (p :: k.replay.reverse)).reverse }

/-- A dispatch whose destination is no member any longer fails at its reply slot (R385). -/
def State.failDispatch (s : State) (d : Dispatched) : State :=
  s.signal { core := d.cmpl.core, node := .slot d.cmpl.core d.cmpl.fid d.cmpl.k, tag := d.cmpl.tag, gen := d.gen } d.cmpl 0x16 false

/-- A message for a package that has left is dropped and counted at a cluster (R379). -/
def State.dropGone (s : State) (cl : Nat) (p : Pkt) : State :=
  let s := (s.noted p).dropView cl
  match p.dispatched with
  | some d => s.failDispatch d
  | none => s

/-- A packet departs: into the package's network, or by a station to another package (R388, R462), where nothing here waits for
it any longer (log entry 39). A reference with REM = 1 that names this package comes back as a packet from outside (DESIGN CHOICE, log
entry 101). -/
def State.depart (s : State) (p : Pkt) : State :=
  match p.dpkg with
  | none => s.route p
  | some d =>
    if d = ownPkg then s.accept p (clOf p.dst)
    else if !s.views.members.contains d then s.dropGone (clOf p.org.core) p
    else
      let s := s.noted p
      let s := match p.dispatched with
        | some e => { s with dispatch := snoc s.dispatch e }
        | none => s
      match s.egress p d with
      | none => s.dropView (clOf p.org.core)
      | some i =>
        let k := SMap.get ({} : Station) s.stations i
        { s with stations := SMap.put ({} : Station) s.stations i (k.push p) }

/-! Sequencing around an instruction. -/

/-- What a meaning answers: it goes on to the next instruction, traps, or has settled what comes next itself. -/
inductive Res where
  | ok (s : State)
  | trap (cause tval : Nat)
  | done (s : State)

/-- The guard p[PG] XOR PN (R55). -/
def guardOn (o : Ops) (k : Ctx) : Bool := (k.rp o.pg.toNat) != (o.pn == 1#1)

/-- The bytes of the plate that the executing context fetches from (R31, R251). -/
def State.code (s : State) : SMap Byte :=
  match s.cur with
  | .ctx c _ => ((s.core c).plate s.cx.plate).bytes
  | .hart cl h => ((s.cluster cl).hart h).plate

/-- Where sequential fetch goes on: over a filler at offset 28 of a block (R51, R114). -/
def fallThrough (code : SMap Byte) (x : Nat) : Nat :=
  if x % 32 = 28 && loadN code x 4 == 0xFFFFFFFF then x + 4 else x

/-- EndCheck (R114): the levels that end at the next fetch address count down. -/
def endCheck (lsd x : Nat) : List LoopLevel → Nat × List LoopLevel
  | [] => (x, [])
  | l :: t =>
    if x = l.stop && lsd = l.lsd then
      if 1 < l.count then (l.start, { l with count := l.count - 1 } :: t)
      else endCheck lsd x t
    else (x, l :: t)

/-- The context continues at offset `x` of its plate, after EndCheck. -/
def Ctx.goTo (k : Ctx) (x : Nat) : Ctx :=
  let (y, ls) := endCheck k.links.length x k.loops
  { k with off := y, loops := ls }

/-- Sequential fetch passes over an END without equalling it (R114): that END. -/
def Ctx.skips (k : Ctx) (x : Nat) : Option Nat :=
  (k.loops.find? fun l => l.lsd == k.links.length && decide (k.off < l.stop) && decide (l.stop < x)).map (·.stop)

/-- The instruction of `n` bytes is over and fetch goes on behind it (R114). -/
def State.advance (s : State) (n : Nat) : State :=
  let k := s.cx
  let x := fallThrough s.code (k.off + n)
  match k.skips x with
  | some e => s.trapNow 0x04 e
  | none => s.setCx (k.goTo x)

/-- What a meaning's answer does. -/
def State.settle (s : State) (n : Nat) : Res → State
  | .ok t => t.advance n
  | .trap c v => s.trapNow c v
  | .done t => t

/-- One guarded instruction (R55): with its guard 0 it only goes on. -/
def State.runOps (s : State) (o : Ops) (body : State → Res) : State :=
  if guardOn o s.cx then s.settle o.form.bytes (body s) else s.advance o.form.bytes

/-- One guarded instruction as a step's outcome. -/
def run (o : Ops) (s : State) (body : State → Res) : Host.Outcome State Fault Refusal := .next (s.runOps o body)

/-- An instruction that only computes. -/
def State.pure (f : State → State) : State → Res := fun s => .ok (f s)

/-! Outbound entries (R16, R143). -/

/-- `es` taken by the executing context, or trap 0x0D when they do not all fit. -/
def State.takeOut (s : State) (es : List OutEnt) : Res :=
  let k := s.cx
  if 48 < k.out.length + es.length then .trap 0x0D 0 else .ok (s.setCx { k with out := k.out ++ es })

/-- Frame-write entries taken, or trap 0x0E (R16). -/
def State.takeFw (s : State) (es : List FwEnt) : Res :=
  let k := s.cx
  if 32 < k.fw.length + es.length then .trap 0x0E 0 else .ok (s.setCx { k with fw := k.fw ++ es })

/-- The own frame, or the trap of R30 in a channel activation. -/
def State.ownFrame (s : State) (f : Nat → Res) : Res :=
  match s.cx.act.fid with
  | some fid => f fid
  | none => .trap 0x09 0

/-- The word an instruction's decoding traps name (R60): bits [63:0]. -/
def opWord (op : Nat) (o : Ops) : Nat := encodeOps op o % 2 ^ 64

/-- A byte of the own frame with forwarding from the frame-write buffer, the youngest first (R17). -/
def fwByte (fw : List FwEnt) (off : Nat) : Option Byte :=
  fw.reverse.findSome? fun e => (e.reverse.find? fun (o, _) => o == off).map (·.2)

/-- A byte of the own frame as the executing context reads it (R17). -/
def State.ownByte (s : State) (fid off : Nat) : Byte :=
  match fwByte s.cx.fw off with
  | some b => b
  | none => s.frameByte s.cur.core fid off

/-- Bytes of the own frame as the executing context reads them. -/
def State.ownBytes (s : State) (fid off n : Nat) : List Byte := (List.range n).map fun i => s.ownByte fid (off + i)

end Sys2Proof.Machine
end

