-- ==== Sys2Proof/Machine/Flags.lean ====
section
/-! DEFINITION. FPCTL (R37, R83): the sticky flags and FTZ. -/
namespace Sys2Proof.Machine

open Sys2Proof

/-- The flags as FPCTL bits [8:4] (R37). -/
def FFlags.word (f : FFlags) : Word :=
  (if f.nv then 0x100 else 0) ||| (if f.dz then 0x80 else 0) ||| (if f.of then 0x40 else 0)
    ||| (if f.uf then 0x20 else 0) ||| (if f.nx then 0x10 else 0)

/-- The flags are sticky. -/
def Ctx.flag (k : Ctx) (f : FFlags) : Ctx := { k with fpctl := k.fpctl ||| f.word }
def State.flag (s : State) (f : FFlags) : State := s.setCx (s.cx.flag f)
/-- FTZ (R37). -/
def State.ftz (s : State) : Bool := s.cx.fpctl.getLsbD 0

end Sys2Proof.Machine
end

