-- ==== Sys2Proof/Machine/Scalar.lean ====
section
/-! DEFINITION. Scalar integer instructions (R96–R105). -/
namespace Sys2Proof.Machine

open Sys2Proof

/-- Bop (R96): g[B], or the immediate of the form, sign-extended where it is shorter than 64 bits. -/
def bop (o : Ops) (k : Ctx) : Word :=
  match o.form with
  | .reg _ _ => k.rg o.b.toNat
  | .imm i => i.signExtend 64
  | .imx i => i.signExtend 64
  | .wide _ _ i => i
  | .xtd _ _ _ => 0
  | .desc _ _ i => i

/-- Source A of the executing context. -/
def srcA (o : Ops) (s : State) : Word := s.rg o.a.toNat

/-- An instruction that writes g[D] from A and Bop. -/
def alu (o : Ops) (s : State) (f : Word → Word → Word) : Host.Outcome State Fault Refusal :=
  run o s (State.pure fun s => s.wg o.d.toNat (f (srcA o s) (bop o s.cx)))

/-- A value limited to a range. -/
def clamp (lo hi i : Int) : Int := if i < lo then lo else if hi < i then hi else i

/-- ADD and SUB: wrapping, `.ss`, `.us` (R97). -/
def addSub (fn : Nat) (sub : Bool) (a b : Word) : Word :=
  match fn with
  | 0 => if sub then a - b else a + b
  | 1 => BitVec.ofInt 64 (clamp (-2 ^ 63) (2 ^ 63 - 1) (if sub then a.toInt - b.toInt else a.toInt + b.toInt))
  | _ => BitVec.ofInt 64 (clamp 0 (2 ^ 64 - 1)
      (if sub then (a.toNat : Int) - (b.toNat : Int) else (a.toNat : Int) + (b.toNat : Int)))

def execAdd (o : Ops) (s : State) : Host.Outcome State Fault Refusal := alu o s (addSub o.fn6 false)
def execSub (o : Ops) (s : State) : Host.Outcome State Fault Refusal := alu o s (addSub o.fn6 true)
def execMul (o : Ops) (s : State) : Host.Outcome State Fault Refusal := alu o s fun a b => a * b

/-- MULH (R97): bits [127:64] of the exact product. -/
def mulh (fn : Nat) (a b : Word) : Word :=
  let p : Int := match fn with
    | 0 => a.toInt * b.toInt
    | 1 => (a.toNat : Int) * (b.toNat : Int)
    | _ => a.toInt * (b.toNat : Int)
  BitVec.ofInt 64 (p / 2 ^ 64)

def execMulh (o : Ops) (s : State) : Host.Outcome State Fault Refusal := alu o s (mulh o.fn6)

/-- DIV (R98). -/
def divide (fn : Nat) (a b : Word) : Word :=
  if b = 0 then BitVec.allOnes 64
  else if fn = 0 then BitVec.ofInt 64 (Int.tdiv a.toInt b.toInt) else BitVec.ofNat 64 (a.toNat / b.toNat)

/-- REM (R98): A − Bop × quotient. -/
def remainder (fn : Nat) (a b : Word) : Word :=
  if b = 0 then a
  else if fn = 0 then BitVec.ofInt 64 (Int.tmod a.toInt b.toInt) else BitVec.ofNat 64 (a.toNat % b.toNat)

def execDiv (o : Ops) (s : State) : Host.Outcome State Fault Refusal := alu o s (divide o.fn6)
def execRem (o : Ops) (s : State) : Host.Outcome State Fault Refusal := alu o s (remainder o.fn6)

/-- Bop inverted under `.n` (R97). -/
def inverted (fn : Nat) (b : Word) : Word := if fn = 1 then ~~~b else b

def execAnd (o : Ops) (s : State) : Host.Outcome State Fault Refusal := alu o s fun a b => a &&& inverted o.fn6 b
def execOr (o : Ops) (s : State) : Host.Outcome State Fault Refusal := alu o s fun a b => a ||| inverted o.fn6 b
def execXor (o : Ops) (s : State) : Host.Outcome State Fault Refusal := alu o s fun a b => a ^^^ inverted o.fn6 b

/-- SHL (R99). -/
def shiftLeft (fn : Nat) (a b : Word) : Word :=
  if fn = 1 then a.rotateLeft (b.toNat % 64) else if b.toNat < 64 then a <<< b.toNat else 0
/-- SHR (R99). -/
def shiftRight (fn : Nat) (a b : Word) : Word :=
  if fn = 1 then a.rotateRight (b.toNat % 64) else if b.toNat < 64 then a >>> b.toNat else 0
/-- SAR (R99). -/
def shiftArith (a b : Word) : Word := a.sshiftRight (min b.toNat 63)

def execShl (o : Ops) (s : State) : Host.Outcome State Fault Refusal := alu o s (shiftLeft o.fn6)
def execShr (o : Ops) (s : State) : Host.Outcome State Fault Refusal := alu o s (shiftRight o.fn6)
def execSar (o : Ops) (s : State) : Host.Outcome State Fault Refusal := alu o s shiftArith

/-- The lesser (R97). -/
def lesser (unsigned : Bool) (a b : Word) : Word :=
  if unsigned then (if b.toNat < a.toNat then b else a) else if b.toInt < a.toInt then b else a
/-- The greater (R97). -/
def greater (unsigned : Bool) (a b : Word) : Word :=
  if unsigned then (if a.toNat < b.toNat then b else a) else if a.toInt < b.toInt then b else a

def execMin (o : Ops) (s : State) : Host.Outcome State Fault Refusal := alu o s (lesser (o.fn6 == 1))
def execMax (o : Ops) (s : State) : Host.Outcome State Fault Refusal := alu o s (greater (o.fn6 == 1))

/-- Leading zeros of an `n`-bit number (R100). -/
def countLeading (n v : Nat) : Nat := if v = 0 then n else n - 1 - Nat.log2 v
/-- One bits of an `n`-bit number (R100). -/
def countOnes : (n v : Nat) → Nat
  | 0, _ => 0
  | n + 1, v => v % 2 + countOnes n (v / 2)

/-- The width CLZ and POPC count over (R100). -/
def countWidth (fn : Nat) : Nat := if fn = 1 then 32 else 64

def execClz (o : Ops) (s : State) : Host.Outcome State Fault Refusal :=
  alu o s fun a _ => BitVec.ofNat 64 (countLeading (countWidth o.fn6) (a.toNat % 2 ^ countWidth o.fn6))
def execPopc (o : Ops) (s : State) : Host.Outcome State Fault Refusal :=
  alu o s fun a _ => BitVec.ofNat 64 (countOnes (countWidth o.fn6) a.toNat)

/-- POS and LEN of EXT and DEP (R101): from gB[5:0] and gB[13:8], or IMM28[5:0] and IMM28[11:6]. -/
def fieldOf (o : Ops) (k : Ctx) : Nat × Nat :=
  match o.form with
  | .imm i => (i.toNat % 64, i.toNat / 64 % 64 + 1)
  | _ => let b := (k.rg o.b.toNat).toNat
         (b % 64, b / 256 % 64 + 1)

/-- EXT (R101). -/
def extractField (signed : Bool) (pos len : Nat) (a : Word) : Word :=
  let f := a.toNat / 2 ^ pos % 2 ^ len
  if signed then BitVec.ofInt 64 (toSigned len f) else BitVec.ofNat 64 f

/-- DEP (R101). -/
def depositField (pos len : Nat) (d a : Word) : Word :=
  let mask := BitVec.ofNat 64 ((2 ^ len - 1) * 2 ^ pos)
  (d &&& ~~~mask) ||| ((a <<< pos) &&& mask)

def execExt (o : Ops) (s : State) : Host.Outcome State Fault Refusal :=
  run o s (State.pure fun s =>
    s.wg o.d.toNat (extractField (o.fn6 == 1) (fieldOf o s.cx).1 (fieldOf o s.cx).2 (srcA o s)))

def execDep (o : Ops) (s : State) : Host.Outcome State Fault Refusal :=
  run o s (State.pure fun s =>
    s.wg o.d.toNat (depositField (fieldOf o s.cx).1 (fieldOf o s.cx).2 (s.rg o.d.toNat) (srcA o s)))

/-- The address that LEA, LD and the other base-and-offset forms compute (R102, R156). -/
def effAddr (o : Ops) (k : Ctx) : Word :=
  match o.form with
  | .reg _ c => k.rg o.a.toNat + k.rg c.toNat <<< o.modBits 42 41
  | _ => k.rg o.a.toNat + bop o k

def execLea (o : Ops) (s : State) : Host.Outcome State Fault Refusal :=
  run o s (State.pure fun s => s.wg o.d.toNat (effAddr o s.cx))

/-- The conditions of PCMP (R103). -/
def pcmpCond (c : Nat) (a b : Word) : Bool :=
  match c with
  | 0 => a == b
  | 1 => a != b
  | 2 => decide (a.toInt < b.toInt)
  | 3 => decide (b.toInt ≤ a.toInt)
  | 4 => decide (a.toNat < b.toNat)
  | 5 => decide (b.toNat ≤ a.toNat)
  | 6 => decide (b.toInt < a.toInt)
  | 7 => decide (a.toInt ≤ b.toInt)
  | 8 => decide (b.toNat < a.toNat)
  | 9 => decide (a.toNat ≤ b.toNat)
  | 10 => a &&& b != 0
  | _ => a &&& b == 0

/-- How a comparison combines with the old predicate (R103, R108). -/
def combine (mode : Nat) (old c : Bool) : Bool :=
  match mode with
  | 0 => c
  | 1 => old && c
  | _ => old || c

def execPcmp (o : Ops) (s : State) : Host.Outcome State Fault Refusal :=
  run o s (State.pure fun s =>
    s.wp o.d.toNat (combine (o.fnBits 5 4) (s.rp o.d.toNat) (pcmpCond (o.fnBits 3 0) (srcA o s) (bop o s.cx))))

/-- PLOG (R104): FN[3:0] is the truth table. -/
def plogBit (table : Nat) (a b : Bool) : Bool := table.testBit (2 * a.toNat + b.toNat)

def execPlog (o : Ops) (s : State) : Host.Outcome State Fault Refusal :=
  run o s (State.pure fun s => s.wp o.d.toNat (plogBit (o.fnBits 3 0) (s.rp o.a.toNat) (s.rp o.b.toNat)))

/-- MOV (R105): gA in the REG form, the immediate otherwise. -/
def movValue (o : Ops) (k : Ctx) : Word :=
  match o.form with
  | .reg _ _ => k.rg o.a.toNat
  | _ => bop o k

def execMov (o : Ops) (s : State) : Host.Outcome State Fault Refusal :=
  run o s (State.pure fun s => s.wg o.d.toNat (movValue o s.cx))
def execMovZ (o : Ops) (s : State) : Host.Outcome State Fault Refusal :=
  run o s (State.pure fun s => s.wg o.d.toNat (BitVec.ofNat 64 o.form.ext))
def execMovPg (o : Ops) (s : State) : Host.Outcome State Fault Refusal :=
  run o s (State.pure fun s => s.wg o.d.toNat (if s.rp o.a.toNat then 1 else 0))
def execMovGp (o : Ops) (s : State) : Host.Outcome State Fault Refusal :=
  run o s (State.pure fun s => s.wp o.d.toNat (srcA o s != 0))

/-- SEL (R105). -/
def execSel (o : Ops) (s : State) : Host.Outcome State Fault Refusal :=
  run o s (State.pure fun s =>
    s.wg o.d.toNat (if s.rp (o.fnBits 2 0) != (o.fnBits 3 3 == 1) then srcA o s else bop o s.cx))

end Sys2Proof.Machine
end

