-- ==== Sys2Proof/Machine/Float.lean ====
section
/-! DEFINITION. Scalar floating point on F32 and conversions (R106–R109). -/
namespace Sys2Proof.Machine

open Sys2Proof

/-- The F32 pattern in bits [31:0] of a register, flushed under FTZ (R83, R106). -/
def f32In (s : State) (w : Word) : Nat := f32.flushIn s.ftz (w.toNat % 2 ^ 32)

/-- gB, or IMM64[31:0] in the WIDE form (R106). -/
def fpB (o : Ops) (s : State) : Word :=
  match o.form with
  | .wide _ _ i => i
  | _ => s.rg o.b.toNat

/-- An F32 result written to g[D] with its flags; bits [63:32] become 0 (R106). -/
def f32Out (o : Ops) (s : State) (r : Nat × FFlags) : State :=
  (s.wg o.d.toNat (BitVec.ofNat 64 r.1)).flag r.2

/-- A two-operand F32 operation (R106, R107). -/
def fpOp (o : Ops) (s : State) (f : Nat → Nat → Nat × FFlags) : Host.Outcome State Fault Refusal :=
  run o s (State.pure fun s => f32Out o s (f32.flushOut s.ftz (f (f32In s (srcA o s)) (f32In s (fpB o s)))))

/-- FADD (R107). -/
def fpAdd (f : BinFmt) (sub : Bool) (a b : Nat) : Nat × FFlags :=
  let vb := f.decode b
  f.arith ((f.decode a).add (if sub then vb.negate else vb))
/-- FMUL (R107). -/
def fpMul (f : BinFmt) (a b : Nat) : Nat × FFlags := f.arith ((f.decode a).mul (f.decode b))
/-- FDIV (R107). -/
def fpDiv (f : BinFmt) (a b : Nat) : Nat × FFlags :=
  let (v, fl) := (f.decode a).div (f.decode b)
  let (r, g) := f.arith (v, false)
  (r, fl.or g)
/-- FSQRT (R107). -/
def fpSqrt (f : BinFmt) (a : Nat) : Nat × FFlags :=
  let (v, fl) := (f.decode a).sqrt
  let (r, g) := f.arith (v, false)
  (r, fl.or g)

/-- ±(A × B) ± C with one rounding (R107); 0 × ∞ is invalid, with a quiet NaN as C as the part has it (IEEE 754). -/
def fpFma (f : BinFmt) (negP negC : Bool) (a b c : Nat) : Nat × FFlags :=
  let va := f.decode a
  let vb := f.decode b
  let vc := f.decode c
  let vc := if negC then vc.negate else vc
  let (p, bad) := va.mul vb
  let p := if negP then p.negate else p
  let inv := (va.isZero && vb.isInf) || (va.isInf && vb.isZero)
  match p, vc with
  | .nan _, .nan sg => (f.nanCode, { nv := sg || (if inv then Config.fmaInvalidWithNaN else bad) })
  | .nan _, _ => (f.nanCode, { nv := bad })
  | _, _ => f.arith (p.add vc)

def execFadd (o : Ops) (s : State) : Host.Outcome State Fault Refusal := fpOp o s (fpAdd f32 (o.fn == 1))
def execFmul (o : Ops) (s : State) : Host.Outcome State Fault Refusal := fpOp o s (fpMul f32)
def execFfma (o : Ops) (s : State) : Host.Outcome State Fault Refusal :=
  run o s (State.pure fun s => f32Out o s (f32.flushOut s.ftz (fpFma f32 (o.fn.getLsbD 1) (o.fn.getLsbD 0)
    (f32In s (srcA o s)) (f32In s (fpB o s)) (f32In s (s.rg o.form.c.toNat)))))
def execFdiv (o : Ops) (s : State) : Host.Outcome State Fault Refusal := fpOp o s (fpDiv f32)
def execFsqrt (o : Ops) (s : State) : Host.Outcome State Fault Refusal := fpOp o s fun a _ => fpSqrt f32 a
def execFmin (o : Ops) (s : State) : Host.Outcome State Fault Refusal := fpOp o s (f32.minMax true (o.fn == 1))
def execFmax (o : Ops) (s : State) : Host.Outcome State Fault Refusal := fpOp o s (f32.minMax false (o.fn == 1))

/-- The conditions of FCMP and VCMP on values, with NV (R108, R193): 0 eq, 1 ne, 2 lt, 3 le, 4 unordered. -/
def fpCompare (c : Nat) (a b : Val) : Bool × Bool :=
  let un := a.isNan || b.isNan
  let sg := a.isSig || b.isSig
  match c with
  | 0 => (!un && a.eq b, sg)
  | 1 => (un || !a.eq b, sg)
  | 2 => (!un && a.lt b, un)
  | 3 => (!un && (a.lt b || a.eq b), un)
  | _ => (un, sg)

def execFcmp (o : Ops) (s : State) : Host.Outcome State Fault Refusal :=
  run o s (State.pure fun s =>
    let (c, nv) := fpCompare (o.fnBits 2 0) (f32.decode (f32In s (srcA o s))) (f32.decode (f32In s (fpB o s)))
    (s.wp o.d.toNat (combine (o.fnBits 5 4) (s.rp o.d.toNat) c)).flag { nv := nv })

/-- The value of a wide scalar: 0 F32, 1 I64, 2 N64, 3 I32 (R109). -/
def wideDecode (w : Nat) (bits : Nat) : Val :=
  match w with
  | 0 => f32.decode (bits % 2 ^ 32)
  | 1 => .ofInt (toSigned 64 bits)
  | 2 => .ofInt (bits % 2 ^ 64 : Nat)
  | _ => .ofInt (toSigned 32 bits)

/-- A value converted to a wide scalar, as 64 bits (R109). -/
def wideEncode (w rm : Nat) (v : Val) : Nat × FFlags :=
  match w with
  | 0 => f32.encode rm false v
  | 1 => let (i, f) := encodeRange (-2 ^ 63) (2 ^ 63 - 1) rm v
         (ofSigned 64 i, f)
  | 2 => let (i, f) := encodeRange 0 (2 ^ 64 - 1) rm v
         (ofSigned 64 i, f)
  | _ => let (i, f) := encodeRange (-2 ^ 31) (2 ^ 31 - 1) rm v
         (ofSigned 64 i, f)

/-- FCVT with X = F32 and W = F32: rounding to an integral value (R109). -/
def fpIntegral (rm a : Nat) : Nat × FFlags :=
  match f32.decode a with
  | .nan sg => (f32.nanCode, { nv := sg })
  | .inf _ => (a, {})
  | .fin neg m e st =>
    let (q, x) := roundAt rm neg m e st 0
    ((f32.encode 0 false (.fin neg q 0 false)).1, { nx := x })

/-- FCVT (R109): the result and its flags. FTZ acts on F32 on either side (R83). -/
def fcvtValue (fmt : Nat) (toWide : Bool) (w rm : Nat) (c : Int) (ftz : Bool) (a : Nat) : Nat × FFlags :=
  if fmt = 0x0A && w = 0 then f32.flushOut ftz (fpIntegral rm (f32.flushIn ftz (a % 2 ^ 32)))
  else if toWide then
    let a := if fmt = 0x0A then f32.flushIn ftz (a % 2 ^ 32) else a
    let r := wideEncode w rm (fmtDecode fmt c a)
    if w = 0 then f32.flushOut ftz r else r
  else
    let a := if w = 0 then f32.flushIn ftz (a % 2 ^ 32) else a
    let r := fmtEncode fmt rm c (wideDecode w a)
    if fmt = 0x0A then f32.flushOut ftz r else r

def execFcvt (o : Ops) (s : State) : Host.Outcome State Fault Refusal :=
  run o s (State.pure fun s =>
    let r := fcvtValue (o.fnBits 4 0) (o.fnBits 5 5 == 1) (o.modBits 42 41) (o.modBits 45 43)
      (centreOf ((s.rg o.b.toNat).toNat % 256)) s.ftz (srcA o s).toNat
    f32Out o s r)

end Sys2Proof.Machine
end

