-- ==== Sys2Proof/Machine/Operands.lean ====
section
/-! DEFINITION. Operand forms shared by the instructions that act outside their context: frame references (R122–R124),
slot targets (R125), completion fields (R206), synchronous loads (R153–R160, R165) and the entries of stores (R158,
R163, R295). -/
namespace Sys2Proof.Machine

open Sys2Proof

/-! Frame references. -/

def refRem (r : Word) : Bool := r.getLsbD 46
def refPkg (r : Word) : Nat := wbits r 45 32
def refCore (r : Word) : Nat := wbits r 28 20 * 16 + wbits r 19 16
def refFid (r : Word) : Nat := wbits r 11 0

/-- The check of R123; `sigv` leaves bits [59:47] out of account as every instruction does. A target core is good when its
cluster is loaded with the same instance. -/
def State.refOk (s : State) (r : Word) : Bool :=
  wbits r 63 60 == 0 && wbits r 31 29 == 0 && wbits r 15 12 == 0 &&
    (if refRem r then s.views.members.contains (refPkg r)
     else refPkg r == 0 && (let k := s.cluster (refCore r / 16)
       k.loaded && k.gen == s.cx.gen))

/-- The route tag of an action: T when TS = 1, the activation's otherwise. -/
def tagOf (s : State) (ts t : Nat) : Nat := if ts = 1 then t else s.cx.act.tag

/-- A target of SIG and its kin: own frame when SELF = 1, else the reference in g[A] (R125). -/
structure Target where
  core : Nat
  fid : Nat
  /-- The package, when REM = 1. -/
  pkg : Option Nat
  deriving DecidableEq, Repr

/-- The target frame of an instruction, or its trap (R30, R123). -/
def State.frameTarget (s : State) (self : Bool) (ref : Word) (f : Target → Res) : Res :=
  if self then s.ownFrame fun fid => f ⟨s.cur.core, fid, none⟩
  else if s.refOk ref then f ⟨refCore ref, refFid ref, if refRem ref then some (refPkg ref) else none⟩
  else .trap 0x09 ref.toNat

/-- The target core of an instruction (SEND, ROUTE, CHBLK): SELF names the own core, in channel activations too (R30). -/
def State.coreTarget (s : State) (self : Bool) (ref : Word) (f : Target → Res) : Res :=
  if self then f ⟨s.cur.core, 0, none⟩
  else if s.refOk ref then f ⟨refCore ref, refFid ref, if refRem ref then some (refPkg ref) else none⟩
  else .trap 0x09 ref.toNat

/-- The forme id and version a cross-package packet carries (R360). -/
def State.formeOf (s : State) (gen : Nat) : Nat × Nat :=
  match s.inst? gen with
  | some i => (i.fid, i.ver)
  | none => (0, 0)

/-- A packet to a target; one for another package carries the view tag, the forme and the packages (R360). -/
def State.pktTo (s : State) (t : Target) (tag cls : Nat) (body : Body) : Pkt :=
  let org := s.origin
  let p := { org.pkt t.core tag cls body with src := s.cur.core }
  match t.pkg with
  | none => p
  | some k => { p with dpkg := some k, spkg := ownPkg, xfid := (s.formeOf org.gen).1, xver := (s.formeOf org.gen).2,
                       vtag := some s.views.view }

/-- One outbound entry that sends one packet. -/
def sendEnt (p : Pkt) (signal : Bool) : OutEnt := { act := .send [p], signal := signal }

/-! Completion fields. -/

/-- The completion slot that MOD [54:41] names (R206): none with NS = 1. -/
def State.cmplOf (s : State) (o : Ops) (f : Option Cmpl → Res) : Res :=
  if o.modBits 54 54 = 1 then f none
  else s.ownFrame fun fid =>
    f (some { core := s.cur.core, fid := fid, k := o.modBits 49 41, tag := tagOf s (o.modBits 50 50) (o.modBits 53 51) })

/-- The own-frame slot `k` with route tag `t`. -/
def State.ownSlot (s : State) (fid k t : Nat) : Cmpl := { core := s.cur.core, fid := fid, k := k, tag := t }

/-- The length of the own frame in words. -/
def State.ownWords (s : State) (fid : Nat) : Nat := ((s.core s.cur.core).fent fid).words

/-! Watchpoints (R278). -/

/-- The first byte of an access that an armed watchpoint of the core covers. -/
def State.watchHit (s : State) (addr n : Nat) (rd wr : Bool) : Option Nat :=
  let k := s.core s.cur.core
  (List.range n).findSome? fun i =>
    if k.watches.any fun (_, w) =>
        ((rd && w.mode % 2 == 1) || (wr && decide (2 ≤ w.mode))) && decide (w.base ≤ addr + i) && decide (addr + i < w.base + w.len)
    then some (addr + i) else none

/-! Synchronous loads. -/

/-- What a synchronous access of one element meets. -/
inductive Elem where
  /-- The bytes, and whether furniture or a guarded page was touched: the state with its record. -/
  | bytes (bs : List Byte) (s : State)
  | trap (cause tval : Nat)
  /-- A line with the address that needs it, or a page, is missing. -/
  | miss (lines : List (Nat × Nat)) (pages : List Nat)
  /-- Uncorrectable data at a location (R401). -/
  | upset (loc : Nat) (s : State)
  /-- A write of the core whose result is not known yet has issued and is not performed: the load waits for it (R292). -/
  | hold

/-- The youngest buffered store of the activation over a place (R159). -/
def forwarded (out : List OutEnt) (l : Loc) : Option Byte :=
  out.reverse.findSome? fun e => (e.bytes.reverse.find? fun (k, _) => k == l).map (·.2)

/-- Bytes of the stores that a core has issued and that are not performed, the youngest last (R160). -/
def State.issuedBytes (s : State) (core : Nat) : List (Loc × Byte) :=
  let of (l : List Pkt) : List (Loc × Byte) := (l.filter (·.src == core)).flatMap fun p =>
    match p.body with
    | .store ws _ _ => ws
    | _ => []
  of s.net ++ of (s.cluster (clOf core)).held ++ (s.core core).ni.flatMap fun e => e.ent.bytes

/-- A byte as the context's buffered stores (R159), and then the stores that its core has issued (R160), supply it. -/
def State.supplied (s : State) (l : Loc) : Option Byte :=
  match forwarded s.cx.out l with
  | some x => some x
  | none => ((s.issuedBytes s.cur.core).reverse.find? fun (k, _) => k == l).map (·.2)

/-- Bytes as the executing context reads them (R159, R160). -/
def State.overlay (s : State) (l : Loc) (bs : List Byte) : List Byte := bs.mapIdx fun i b => (s.supplied (l.plus i)).getD b

/-- Whether stores of the core supply every one of `n` bytes. -/
def State.allSupplied (s : State) (l : Loc) (n : Nat) : Bool := (List.range n).all fun i => (s.supplied (l.plus i)).isSome

/-- The packets of a core that have issued and are not performed. -/
def State.issuedPkts (s : State) (core : Nat) : List Pkt :=
  (s.net ++ (s.cluster (clOf core)).held).filter (·.src == core) ++ (s.core core).ni.flatMap fun e =>
    match e.ent.act with
    | .send ps => ps
    | _ => []

/-- An atomic, an ISTW or an RLOG that the core has issued and that is not performed writes one of the bytes (R292). -/
def State.unsettled (s : State) (l : Loc) (n : Nat) : Bool :=
  let hits (ls : List Loc) : Bool := ls.any fun k => (List.range n).any fun i => k == l.plus i
  (s.issuedPkts s.cur.core).any fun p =>
    match p.body with
    | .atomic _ | .istw _ _ _ _ _ => hits p.locs
    | .rlogPut _ _ _ _ _ | .rlogRet _ _ _ _ => hits (s.rlogLocs p)
    | _ => false

/-- The walk fault handed to this activation for a page (R414). -/
def State.walkFault (s : State) (va : Nat) : Option Nat :=
  ((s.core s.cur.core).walkFaults.find? fun w => w.act == s.cx.act.id && w.page == va / 2 ^ 16).map (·.cause)

/-- Translation as the executing context sees it: its core's micro-TLB may hold what the cluster's TLB has lost, and a walk's fault is handed
to the activation that waited for it. -/
def State.xlateCx (s : State) (acc : Acc) (va : Nat) : Xl :=
  match s.xlate s.cur.cl s.cx.gen s.cx.priv acc va with
  | .miss =>
    match s.tlbAt va, s.walkFault va with
    | some t, _ =>
      (match s.pageLoc t s.cx.priv acc va with
        | .ok l => .at_ l
        | .error c => .fault c)
    | none, some c => .fault c
    | none, none => .miss
  | r => r

/-- A read of the own scratchpad (R157, R300, R302, R401, R402). -/
def State.loadSpad (s : State) (addr off n : Nat) : Elem :=
  let cl := s.cur.cl
  let k := s.cluster cl
  let clean := s.allSupplied (.spad cl off) n
  if !k.usable off n then .trap 0x12 addr
  else if s.unsettled (.spad cl off) n then .hold
  else if !clean && anyPoison k.sbad off n then
    .upset addr (s.poisonSpad cl off n)
  else if !clean && anyPoison k.spoison off n then .trap 0x11 addr
  else
    let (bs, t) := s.readSpad cl off n s.origin
    .bytes (s.overlay (.spad cl off) bs) t

/-- A read of an ordinary page through the L1 (R157, R165, R179). -/
def State.loadL1 (s : State) (addr pa n : Nat) : Elem :=
  let core := s.cur.core
  let act := s.cx.act.id
  let c := s.l1Core core (pa / 64)
  let miss : Elem := .miss [(pa / 64, addr)] []
  if s.unsettled (.mem pa) n then .hold
  else if (SMap.get none (s.core c).l1 (pa / 64)).isSome && SMap.get false (s.core c).l1bad (pa / 64) then
    -- an uncorrectable L1 copy is invalidated and fetched again
    miss
  else
    match s.l1Line core act (pa / 64) with
    | none => miss
    | some l =>
      if !((List.range n).all fun i => l.valid.testBit ((pa + i) % 64 / 8)) then miss
      else if l.poison && !s.allSupplied (.mem pa) n then .trap 0x11 addr
      else .bytes (s.overlay (.mem pa) ((List.range n).map fun i => l.data.getD ((pa + i) % 64) 0)) s

/-- One element of a synchronous load from the address spaces (R153–R157, R163). A misaligned address in no space fails with cause 0x08
(DESIGN CHOICE, log entry 106). -/
def State.loadElem (s : State) (addr n : Nat) : Elem :=
  match spaceOf s.cur.cl addr with
  | .none => .trap 0x08 addr
  | sp =>
    if addr % n ≠ 0 then .trap 0x03 addr
    else
      match s.watchHit addr n true false with
      | some a => .trap 0x18 a
      | none =>
        match sp with
        | .spad cl off => if cl = s.cur.cl then s.loadSpad addr off n else .trap 0x09 addr
        | .virt va =>
          match s.xlateCx .read va with
          | .miss => .miss [] [va / 2 ^ 16]
          | .fault c => .trap c addr
          | .at_ (.mem pa) => s.loadL1 addr pa n
          | .at_ (.guard v) =>
            if s.loadable va then .bytes (List.replicate n 0) (s.record s.origin 0x0B v) else .trap 0x09 addr
          | .at_ (.dev pa) =>
            let (cl, off) := winOfPa pa
            if (s.cluster cl).stopped && s.loadable va then
              (match s.winLoad cl off n with
                | some bs => .bytes bs s
                | none => .trap 0x11 addr)
            else .trap 0x09 addr
          | .at_ _ => .trap 0x09 addr
        | .none => .trap 0x08 addr

/-- One element in frame space (R154, R157, R402). -/
def State.loadFrame (s : State) (fid off n : Nat) : Elem :=
  let core := s.cur.core
  let k := s.core core
  let e := k.fent fid
  if off % n ≠ 0 then .trap 0x03 off
  else if 256 * (e.len + 1) < off + n then .trap 0x09 off
  else
    let a := 256 * e.gran + off
    -- bytes that the frame-write buffer supplies are not read (R17)
    let clean := (List.range n).all fun i => (fwByte s.cx.fw (off + i)).isSome
    if !clean && anyPoison k.fbad a n then
      .upset off ((s.setCore core { k with fbad := SMap.put false k.fbad (a / 8) false,
                                           fpoison := SMap.put false k.fpoison (a / 8) true }).pruneSoon 1 (clOf core) (core % 16) (a / 64))
    else if !clean && anyPoison k.fpoison a n then .trap 0x11 off
    else .bytes (s.ownBytes fid off n) s

/-! Accesses of several pieces (R295). -/

/-- What the instruction now executing has read at an address. -/
def Ctx.partAt (k : Ctx) (a : Nat) : Option (List Byte) := (k.part.find? fun (r, b, _) => r == k.ran && b == a).map (·.2.2)

/-- The elements of one piece that are performed now while others are left: those in one 64-byte block. None where all are. -/
def Ctx.pieceNow (k : Ctx) (addrs : List Nat) : Option (List Nat) :=
  let left := addrs.filter fun a => (k.partAt a).isNone
  let bs := (left.map (· / 64)).eraseDups
  if k.alone = 0 || bs.length ≤ 1 then none else (bs[k.alone % bs.length]?).map fun b => left.filter (· / 64 == b)

/-- The instruction has performed elements with the bytes read, and goes on with the others at a later step. -/
def State.partDone (s : State) (es : List (Nat × List Byte)) : State :=
  s.modCx fun k => { k with part := k.part.filter (fun x => x.1 == k.ran) ++ es.map (fun (a, bs) => (k.ran, a, bs)), ran := k.ran - 1 }

/-- An element that the instruction has read already, or reads now. -/
def State.loadPart (s : State) (a n : Nat) : Elem :=
  match s.cx.partAt a with
  | some bs => .bytes bs s
  | none => s.loadElem a n

/-- One piece of a load of several (R295): an element that traps, misses or touches furniture is left to the last step. -/
def State.loadPiece (s : State) (addrs : List Nat) (n : Nat) : Option State :=
  match s.cx.pieceNow addrs with
  | none => none
  | some as =>
    let one (a : Nat) : Option (Nat × List Byte) :=
      match s.loadElem a n with
      | .bytes bs t => if t = s then some (a, bs) else none
      | _ => none
    let es := as.filterMap one
    if es.length = as.length then some (s.partDone es) else none

/-- The outcome of all elements of a synchronous load. -/
inductive Loaded where
  | bytes (bs : List (List Byte)) (s : State)
  | trap (cause tval : Nat)
  | miss (lines : List (Nat × Nat)) (pages : List Nat) (tval : Nat)
  | upset (loc : Nat) (s : State)
  | hold

/-- Elements in ascending order (R163): the first that fails traps. Behind an element whose line or walk is missing, and which may itself
fail once it is there, only further missing lines and walks are looked for, as far as the next element that fails. -/
def loadAll (one : State → Nat → Elem) (s : State) : List Nat → Loaded
  | [] => .bytes [] s
  | a :: t =>
    match one s a with
    | .trap c v => .trap c v
    | .upset l s => .upset l s
    | .hold => .hold
    | .bytes bs s =>
      (match loadAll one s t with
        | .bytes r s => .bytes (bs :: r) s
        | r => r)
    | .miss ls ps =>
      (match loadAll one s t with
        | .miss ls' ps' _ =>
          .miss (ls ++ ls'.filter fun (l, _) => !ls.any (·.1 == l)) (ps ++ ps'.filter fun p => !ps.contains p) a
        | _ => .miss ls ps a)

/-- Lines pinned for an activation in the L1 slices of its core (R165). -/
def State.pinned (s : State) (core act : Nat) : List Nat :=
  (s.slices core).flatMap fun c => (s.core c).l1.filterMap fun (line, e) =>
    match e with
    | some l => if l.pins.contains act then some line else none
    | none => none

/-- A line will find a way of its set: its own, or an enabled one that neither a pin nor one of the lines `l1` claims (R166, R304). -/
def State.hasWay (s : State) (core : Nat) (l1 : List Nat) (line : Nat) : Bool :=
  let c := s.l1Core core line
  let fused := (s.core core).l1mode
  let set := l1Set fused line
  let pins := (s.core c).l1.filterMap fun (l, e) =>
    match e with
    | some x => if l1Set fused l == set && !x.pins.isEmpty then some l else none
    | none => none
  let claims := l1.filter fun l => s.l1Core core l == c && l1Set fused l == set && !pins.contains l
  pins.contains line || decide (pins.length + claims.length < s.l1Ways c set)

/-- What a miss comes to (R165, R166) for an activation that holds the lines `l1` and `rb`: the lines that it will hold in the replay
buffer, or the address whose line is one too many. A line it holds already is fetched again and not counted again. -/
def State.reserve (s : State) (core : Nat) : (l1 rb : List Nat) → List (Nat × Nat) → Except Nat (List Nat)
  | _, rb, [] => .ok rb
  | l1, rb, (l, a) :: t =>
    if l1.contains l || rb.contains l then s.reserve core l1 rb t
    else if 64 ≤ l1.length + rb.length then .error a
    else if s.hasWay core l1 l then s.reserve core (l :: l1) rb t
    else if 4 ≤ rb.length then .error a
    else s.reserve core l1 (l :: rb) t

/-- A miss (R165, R166): the activation is aborted until its lines and walks have arrived; a 65th line or a fifth line of
the replay buffer traps. -/
def State.missNow (s : State) (lines : List (Nat × Nat)) (pages : List Nat) (addr : Nat) : Res :=
  match s.cur with
  | .hart _ _ => .trap 0x09 addr
  | .ctx core x =>
    let act := s.cx.act.id
    let k := s.core core
    let held := if k.rbOwner = some act then k.rb.map (·.1) else []
    match s.reserve core (s.pinned core act) held lines with
    | .error a => .trap 0x12 a
    | .ok rb =>
      let buf := decide (held.length < rb.length)
      let taken := buf && k.rbOwner.isSome && k.rbOwner != some act
      let s := if buf && k.rbOwner.isNone then s.setCore core { k with rbOwner := some act } else s
      .done (s.missAbort core x (lines.map (·.1)) pages taken)

/-- Consumed uncorrectable data (R401): the activation is delivered again, and the fourth time traps. -/
def State.redeliver (s : State) (loc : Nat) : Res :=
  match s.cur with
  | .hart cl h => .done (s.hartTrap cl h 0x10 loc)
  | .ctx core x =>
    if 3 ≤ s.cx.act.redel then .done (s.takeTrap core x 0x10 loc)
    else
      let s := s.modCx fun k => { k with act := { k.act with redel := k.act.redel + 1 } }
      .done (s.abort core x true)

/-- The rest of a load once its elements are there. -/
def Loaded.then (r : Loaded) (s : State) (f : List (List Byte) → State → Res) : Res :=
  match r with
  | .bytes bs t => f bs t
  | .trap c v => .trap c v
  | .miss ls ps v => s.missNow ls ps v
  | .upset l t => t.redeliver l
  | .hold => .done (s.partDone [])

/-- A value by its size code (R58). -/
def sizeBytes (sz : Nat) : Nat := 2 ^ (sz % 4)
/-- The value of a size code from bytes, extended to 64 bits. -/
def sizeValue (sz v : Nat) : Word :=
  let b := 8 * sizeBytes sz
  if sz / 4 % 2 = 1 then BitVec.ofInt 64 (toSigned b v) else BitVec.ofNat 64 (v % 2 ^ b)

/-! Stores. -/

/-- A placed byte of a store. -/
abbrev Placed := List (Loc × Byte)

/-- The place of one element of a store, or its trap; a miss replays (R153–R155, R158, R300). -/
inductive Place where
  | at_ (l : Loc)
  | trap (cause tval : Nat)
  | miss (page : Nat)

/-- Where an element that is written (or, for an atomic, read and written) lies. -/
def State.placeElem (s : State) (acc : Acc) (rd wr : Bool) (addr n : Nat) : Place :=
  match spaceOf s.cur.cl addr with
  | .none => .trap 0x08 addr
  | sp =>
    if addr % n ≠ 0 then .trap 0x03 addr
    else
      match s.watchHit addr n rd wr with
      | some a => .trap 0x18 a
      | none =>
        match sp with
        | .spad cl off => .at_ (.spad cl off)
        | .virt va =>
          match s.xlateCx acc va with
          | .miss => .miss (va / 2 ^ 16)
          | .fault c => .trap c addr
          | .at_ l => .at_ l
        | .none => .trap 0x08 addr

/-- Elements of a store placed in ascending order (R163), each with its address: the first that fails traps; missing pages are
walked, and behind one of them no element traps. -/
inductive PlacedAll where
  | ok (es : List (Nat × Placed))
  | trap (cause tval : Nat)
  | miss (pages : List Nat) (tval : Nat)

def State.placeAll (s : State) : List (Nat × List Byte) → PlacedAll
  | [] => .ok []
  | (a, bs) :: t =>
    match s.placeElem .write false true a bs.length with
    | .trap c v => .trap c v
    | .miss p =>
      (match s.placeAll t with
        | .miss ps _ => .miss (p :: ps.filter (· != p)) a
        | _ => .miss [p] a)
    | .at_ l =>
      (match s.placeAll t with
        | .ok r => .ok ((a, bs.mapIdx fun i b => (l.plus i, b)) :: r)
        | r => r)

/-- The last write of each byte remains (R163). -/
def lastWrites : Placed → Placed
  | [] => []
  | (l, b) :: t => if t.any (fun (k, _) => k == l) then lastWrites t else (l, b) :: lastWrites t

/-- Groups of a store entry that one packet carries: all its bytes of one scratchpad, which that cluster's port checks as one access
(R173), and every other byte with those of its piece (R295). -/
def portGroups (cl : Nat) (bs : Placed) : List Placed :=
  let spads := (bs.filterMap fun (l, _) => match l with
    | .spad c _ => some c
    | _ => none).eraseDups
  (spads.map fun c => bs.filter fun (l, _) => match l with
    | .spad d _ => d == c
    | _ => false)
  ++ pieces cl (fun (x : Loc × Byte) => x.1) (bs.filter fun (l, _) => match l with
    | .spad _ _ => false
    | _ => true)

/-- The packets of one store entry. -/
def State.storePkts (s : State) (va : Nat) (bs : Placed) : List Pkt :=
  let full := fullLines bs
  let org := s.origin
  (portGroups s.cur.cl bs).map fun ws =>
    { org.pkt ((ws.head?.map fun x => x.1.node).getD 0) 0 4 (.store ws va full) with src := s.cur.core }

/-- One outbound entry of a store (R16, R158) whose first element lies at `va`. -/
def State.storeEnt (s : State) (va : Nat) (bs : Placed) : OutEnt := { act := .send (s.storePkts va bs), bytes := bs }

/-- Frame-write entries of bytes at frame offsets, one per aligned 32-byte block (R16), in ascending order. -/
def fwEnts (bs : List (Nat × Byte)) : List FwEnt :=
  let blocks := sortBy (fun a b => decide (a ≤ b)) (bs.map fun (o, _) => o / 32).eraseDups
  blocks.map fun k => bs.filter fun (o, _) => o / 32 == k

end Sys2Proof.Machine
end

