-- ==== Sys2Proof/Machine/Memory.lean ====
section
/-! DEFINITION. Loads, stores, vector loads and stores, split-phase loads, prefetch, fences and windows (R153–R174). An
engine hart's accesses are performed at once (R261). -/
namespace Sys2Proof.Machine

open Sys2Proof

/-- The address of R156: base plus offset, or base plus scaled index. -/
def memAddr (o : Ops) (k : Ctx) : Word :=
  let a := k.rg o.a.toNat
  match o.form with
  | .reg _ c => a + k.rg c.toNat <<< o.modBits 42 41
  | .imm i => a + i.signExtend 64
  | .imx i => a + i.signExtend 64
  | _ => a

/-- The hart that executes, as an accessor of address spaces (R261). -/
def State.accessor (s : State) : Accessor :=
  { cl := s.cur.cl, gen := (s.cluster s.cur.cl).gen, priv := s.cx.priv, org := s.origin }

/-- Bytes cut into elements of `n`. -/
def chunk (n : Nat) : (k : Nat) → List Byte → List (List Byte)
  | 0, _ => []
  | k + 1, bs => bs.take n :: chunk n k (bs.drop n)

/-- An element that the hart's instruction has read already, or reads now. -/
def State.hartAt (s : State) (h a n : Nat) : Got :=
  match s.cx.partAt a with
  | some bs => .ok bs s
  | none => s.hartRead s.accessor h a n

/-- Elements read by a hart, each performed before the next (R261). -/
def hartElems (rd : State → Nat → Got) (n : Nat) (s : State) : List Nat → Got
  | [] => .ok [] s
  | a :: t =>
    if !isStream a && a % n ≠ 0 then .fail 0x03 a s
    else
      match rd s a with
      | .ok bs s =>
        (match hartElems rd n s t with
          | .ok r s => .ok (bs ++ r) s
          | r => r)
      | r => r

/-- One piece of a hart's load of several (R295). -/
def State.hartPiece (s : State) (h n : Nat) (addrs : List Nat) : Option State :=
  if addrs.any isStream then none
  else
    match s.cx.pieceNow addrs with
    | none => none
    | some as =>
      match hartElems (fun s a => s.hartRead s.accessor h a n) n s as with
      | .ok bs t => some (t.partDone (List.zip as (chunk n as.length bs)))
      | _ => none

/-- Pushes to one stream that follow each other make one message (R370). -/
def mergePushes : List (Nat × List Byte) → List (Nat × List Byte)
  | [] => []
  | (a, bs) :: t =>
    match mergePushes t with
    | (b, cs) :: u => if isStream a && a == b then (a, bs ++ cs) :: u else (a, bs) :: (b, cs) :: u
    | [] => [(a, bs)]

/-- Elements written by a hart. -/
def hartStores (h : Nat) (s : State) : List (Nat × List Byte) → Got
  | [] => .ok [] s
  | (a, bs) :: t =>
    if !isStream a && a % bs.length ≠ 0 then .fail 0x03 a s
    else
      match s.hartWrite s.accessor h a bs with
      | .ok _ s => hartStores h s t
      | r => r

/-- One piece of a hart's store of several: the elements left are written (R295). -/
def State.hartStorePiece (s : State) (h : Nat) (items : List (Nat × List Byte)) : Option State :=
  if items.any fun (a, _) => isStream a then none
  else
    match s.cx.pieceNow (items.map (·.1)) with
    | none => none
    | some as =>
      match hartStores h s (items.filter fun x => as.contains x.1) with
      | .ok _ t => some (t.partDone (as.map fun a => (a, [])))
      | _ => none

/-- An access of a hart that cannot go on leaves the hart at its instruction, with nothing taken (R370): a stream counts what it waits
for, and requests to peers stand. -/
def State.waits (s t : State) : State :=
  { s with
    streams := List.zipWith (fun a b => if b.want = 0 then a else { a with want := a.here.length + b.want }) s.streams t.streams
    stations := t.stations.map fun (i, k) => (i, { k with answers := (SMap.get ({} : Station) s.stations i).answers }) }

/-- The rest of a hart's access that began at `s`. -/
def Got.then (r : Got) (s : State) (f : List Byte → State → Res) : Res :=
  match r with
  | .ok bs t => f bs t
  | .fail c v _ => .trap c v
  | .wait t => .done (s.waits t)

/-- Elements of `n` bytes read, in frame space or in the address spaces (R153, R163), in pieces (R295). -/
def loadElems (s : State) (fr : Bool) (addrs : List Nat) (n : Nat) (f : List (List Byte) → State → Res) : Res :=
  if fr then s.ownFrame fun fid => (loadAll (fun s a => s.loadFrame fid a n) s addrs).then s f
  else
    match s.cur with
    | .hart _ h =>
      let all (rd : State → Nat → Got) : Res := (hartElems rd n s addrs).then s fun bs t => f (chunk n addrs.length bs) t
      if addrs.length ≤ 1 then all fun s a => s.hartRead s.accessor h a n
      else
        (match s.hartPiece h n addrs with
          | some t => .done t
          | none => all fun s a => s.hartAt h a n)
    | .ctx _ _ =>
      if addrs.length ≤ 1 then (loadAll (fun s a => s.loadElem a n) s addrs).then s f
      else
        match s.loadPiece addrs n with
        | some t => .done t
        | none => (loadAll (fun s a => s.loadPart a n) s addrs).then s f

/-- LD (R156, R157). -/
def execLd (o : Ops) (s : State) : Host.Outcome State Fault Refusal :=
  run o s fun s =>
    let sz := o.fnBits 2 0
    loadElems s (o.fnBits 4 3 == 1) [(memAddr o s.cx).toNat] (sizeBytes sz) fun bs t =>
      .ok (t.wg o.d.toNat (sizeValue sz (natOfBytes (bs.headD []))))

/-- LDI (R157, R154, R401): the inbox; bytes from INLEN on read 0. -/
def execLdi (o : Ops) (s : State) : Host.Outcome State Fault Refusal :=
  run o s fun s =>
    let sz := o.fnBits 2 0
    let n := sizeBytes sz
    let a := (memAddr o s.cx).toNat
    if a % n ≠ 0 then .trap 0x03 a
    else if 224 < a + n then .trap 0x09 a
    else if s.cx.act.bad then .trap 0x10 s.cx.act.sender
    else .ok (s.wg o.d.toNat (sizeValue sz (natOfBytes ((List.range n).map fun i => s.cx.act.inbox.getD (a + i) 0))))

/-- Elements stored to the own frame (R16, R154, R163). -/
def frameStore (s : State) (items : List (Nat × List Byte)) : Res :=
  s.ownFrame fun fid =>
    let len := 256 * (((s.core s.cur.core).fent fid).len + 1)
    match items.find? fun (a, bs) => a % bs.length != 0 || decide (len < a + bs.length) with
    | some (a, bs) => if a % bs.length ≠ 0 then .trap 0x03 a else .trap 0x09 a
    | none => s.takeFw (fwEnts (items.flatMap fun (a, bs) => bs.mapIdx fun i b => (a + i, b)))

/-- Placed elements of a store grouped by their aligned 64-byte line, lines in the order of their first element (R163). -/
def byLine (es : List (Nat × Placed)) : List (List (Nat × Placed)) :=
  let key (e : Nat × Placed) : Option (Nat × Nat) := e.2.head?.map fun (l, _) => blockOf 64 l
  (es.map key).eraseDups.map fun k => es.filter fun e => key e == k

/-- Bytes of one entry in ascending order of place, where places have one order. -/
def Loc.off : Loc → Nat
  | .spad _ o | .mem o | .side o _ | .host _ o | .peer _ o | .guard o | .dev o => o
def sortPlaced (bs : Placed) : Placed := sortBy (fun a b => decide (a.1.off ≤ b.1.off)) bs

/-- Elements stored outside the frame (R155, R158, R163): `lines` says that each 64-byte line takes an entry of its own. -/
def outStore (s : State) (lines : Bool) (items : List (Nat × List Byte)) : Res :=
  match s.cur with
  | .hart _ h =>
    (match s.hartStorePiece h items with
      | some t => .done t
      | none =>
        match hartStores h s (mergePushes (if items.length ≤ 1 then items else items.filter fun x => (s.cx.partAt x.1).isNone)) with
        | .ok _ t => .ok t
        | .fail c v _ => .trap c v
        | .wait _ => .done s)
  | .ctx _ _ =>
    match s.placeAll items with
    | .trap c v => .trap c v
    | .miss ps v => s.missNow [] ps v
    | .ok es =>
      let va (g : List (Nat × Placed)) : Nat := (g.head?.map (·.1)).getD 0
      if lines then s.takeOut ((byLine es).map fun g => s.storeEnt (va g) (sortPlaced (lastWrites (g.flatMap (·.2)))))
      else s.takeOut [s.storeEnt (va es) (es.flatMap (·.2))]

/-- ST (R156, R158). -/
def execSt (o : Ops) (s : State) : Host.Outcome State Fault Refusal :=
  run o s fun s =>
    let a := (memAddr o s.cx).toNat
    let bs := bytesOfNat (sizeBytes (o.fnBits 2 0)) (s.rg o.b.toNat).toNat
    if o.fnBits 4 3 = 1 then frameStore s [(a, bs)] else outStore s false [(a, bs)]

/-! Vector memory instructions (R162, R163). -/

/-- The element width in bytes that FN[4:3] selects. -/
def vecBytes (o : Ops) : Nat :=
  match o.fnBits 4 3 with
  | 0 => 4
  | 1 => 2
  | _ => 1

/-- The active elements under the mask that FN[2:0] names. -/
def vecActive (o : Ops) (s : State) : List Nat :=
  let n := vecBytes o
  let m := s.rm (o.fnBits 2 0)
  (List.range (128 / n)).filter fun i => m.getLsbD (n * i)

/-- Element `i` of `n` bytes of a vector register. -/
def vElem (x : VReg) (n i : Nat) : Nat := x.toNat / 2 ^ (8 * n * i) % 2 ^ (8 * n)

/-- A vector register from active elements; the others are 0. -/
def vecOf (n : Nat) (act : List Nat) (vs : List (List Byte)) : VReg :=
  BitVec.ofNat 1024 ((List.zip act vs).foldl (fun a (i, bs) => a + natOfBytes bs * 2 ^ (8 * n * i)) 0)

/-- A vector load of elements at the addresses of the active elements. -/
def vecLoad (o : Ops) (s : State) (fr : Bool) (addr : Nat → Word) : Res :=
  let n := vecBytes o
  let act := vecActive o s
  loadElems s fr (act.map fun i => (addr i).toNat) n fun vs t => .ok (t.wv o.d.toNat (vecOf n act vs))

/-- The elements of a vector store. -/
def vecItems (o : Ops) (s : State) (data : VReg) (addr : Nat → Word) : List (Nat × List Byte) :=
  (vecActive o s).map fun i => ((addr i).toNat, bytesOfNat (vecBytes o) (vElem data (vecBytes o) i))

/-- Element addresses of LDV and STV: ascending from a base; a stream port names one port for all of them (R261). -/
def contiguous (o : Ops) (s : State) (i : Nat) : Word :=
  let a := memAddr o s.cx
  if s.cur.isHart && isStream a.toNat then a else a + BitVec.ofNat 64 (vecBytes o * i)

def execLdv (o : Ops) (s : State) : Host.Outcome State Fault Refusal :=
  run o s fun s => vecLoad o s (o.fnBits 5 5 == 1) (contiguous o s)

def execStv (o : Ops) (s : State) : Host.Outcome State Fault Refusal :=
  run o s fun s =>
    let items := vecItems o s (s.rv o.b.toNat) (contiguous o s)
    if o.fnBits 5 5 = 1 then frameStore s items
    else outStore s false items

def execLdvs (o : Ops) (s : State) : Host.Outcome State Fault Refusal :=
  run o s fun s => vecLoad o s false fun i => s.rg o.a.toNat + BitVec.ofNat 64 i * s.rg o.b.toNat

/-- Element addresses of LDVX and STVX. -/
def indexed (o : Ops) (s : State) (i : Nat) : Word :=
  s.rg o.a.toNat + BitVec.ofNat 64 (vecBytes o * vElem (s.rv o.b.toNat) (vecBytes o) i)

def execLdvx (o : Ops) (s : State) : Host.Outcome State Fault Refusal :=
  run o s fun s => vecLoad o s false (indexed o s)

def execStvx (o : Ops) (s : State) : Host.Outcome State Fault Refusal :=
  run o s fun s => outStore s true (vecItems o s (s.rv o.form.c.toNat) (indexed o s))

/-! Split-phase loads, prefetch, fences, windows. -/

/-- Where an outbound access that completes with an error word lies: its places, or the cause that its completion will
carry (R155); a TLB miss replays. -/
inductive Kept where
  | at_ (ls : List Loc) (fault : Nat)
  | trap (cause tval : Nat)
  | miss (page : Nat)

/-- The places of `n` bytes of an access with a completion (R153, R155, R278). A misaligned address in no space fails with cause 0x03 (DESIGN
CHOICE, log entry 106). -/
def State.placeKept (s : State) (acc : Acc) (wr : Bool) (addr n : Nat) : Kept :=
  if addr % n ≠ 0 then .trap 0x03 addr
  else
    match spaceOf s.cur.cl addr with
    | .none => .trap 0x08 addr
    | sp =>
      match s.watchHit addr n true wr with
      | some a => .trap 0x18 a
      | none =>
        match sp with
        | .virt va =>
          (match s.xlateCx acc va with
            | .at_ l => .at_ ((List.range n).map l.plus) 0
            | .fault c => .at_ [] c
            | .miss => .miss (va / 2 ^ 16))
        | .spad cl off => .at_ ((List.range n).map fun i => .spad cl (off + i)) 0
        | .none => .trap 0x08 addr

/-- LDFAR (R167–R169, R139). TVAL of its frame check is W (DESIGN CHOICE, log entry 105). -/
def execLdfar (o : Ops) (s : State) : Host.Outcome State Fault Refusal :=
  run o s fun s =>
    s.ownFrame fun fid =>
      let blk := o.fnBits 3 3 == 1
      let sz := o.fnBits 2 0
      let n := if blk then 64 else sizeBytes sz
      let va := (s.rg o.a.toNat + s.rg o.form.c.toNat).toNat
      let w := o.modBits 58 50
      if va % n ≠ 0 then .trap 0x03 va
      else if s.ownWords fid < w + (if blk then 8 else 1) then .trap 0x09 w
      else
        match s.placeKept .read true va n with
        | .trap c v => .trap c v
        | .miss p => s.missNow [] [p] va
        | .at_ ls fault =>
          let c := s.ownSlot fid (o.modBits 49 41) (tagOf s (o.modBits 59 59) (o.modBits 62 60))
          let p := { s.origin.pkt ((ls.head?.map Loc.node).getD s.cur.core) 0 4
            (.ldfar (List.zip (List.range n) ls) [] va sz blk fault w c) with src := s.cur.core }
          s.takeOut [{ act := .send [p], pins := some fid }]

/-- PREF (R170): the line enters the L1 or the LLC; what cannot be translated to an ordinary page is dropped. -/
def execPref (o : Ops) (s : State) : Host.Outcome State Fault Refusal :=
  run o s (State.pure fun s =>
    match spaceOf s.cur.cl (memAddr o s.cx).toNat with
    | .virt va =>
      match s.placeNow s.accessor .read va with
      | .ok (.mem pa, t) => if o.fnBits 0 0 = 0 then t.after 0 (.l1Fill s.cur.core (pa / 64)) else (t.touchLlc (pa / 64)).leaveLlc (pa / 64)
      | .ok (_, t) => t
      | .error _ => s
    | _ => s)

/-- The acquire of a fence (R171, R286); a hart has no L1. -/
def fenceAcq (s : State) : State :=
  match s.cur with
  | .ctx c _ => s.acquire c
  | .hart _ _ => s
/-- The mark of a release fence (R171); each access of a hart is performed before the next. -/
def fenceRel (s : State) : State :=
  match s.cur with
  | .ctx _ _ => s.modCx fun k => { k with marks := snoc k.marks k.out.length }
  | .hart _ _ => s

def execFenceAcq (o : Ops) (s : State) : Host.Outcome State Fault Refusal := run o s (State.pure fenceAcq)
def execFenceRel (o : Ops) (s : State) : Host.Outcome State Fault Refusal := run o s (State.pure fenceRel)
def execFenceAcqrel (o : Ops) (s : State) : Host.Outcome State Fault Refusal :=
  run o s (State.pure fun s => fenceRel (fenceAcq s))

/-- WIN (R174, R301): the register value that takes effect at issue. -/
def execWin (o : Ops) (s : State) : Host.Outcome State Fault Refusal :=
  run o s fun s =>
    let d := o.form.ext
    if bits d 17 9 < bits d 8 0 || 65536 < bits d 33 18 + bits d 49 34 + 1 then .trap 0x09 d
    else s.takeOut [{ act := .win (o.modBits 44 41)
                                (BitVec.ofNat 64 (2 ^ 63 + (if o.fn = 1 then 2 ^ 62 else 0) + d % 2 ^ 50)) }]
/-- WIN.off. -/
def execWinOff (o : Ops) (s : State) : Host.Outcome State Fault Refusal :=
  run o s fun s => s.takeOut [{ act := .win (o.modBits 44 41) 0 }]

end Sys2Proof.Machine
end

