-- ==== Sys2Proof/Machine/Atomics.lean ====
section
/-! DEFINITION. Atomics: the operation (R176), its target (R177–R179) and the instructions (R175, R178). -/
namespace Sys2Proof.Machine

open Sys2Proof

/-- AMOF's operations on a format (R176): subnormals kept, no flags. -/
def amof (f : BinFmt) (op : AtOp) (old b : Nat) : Nat :=
  match op with
  | .fmin _ => (f.minMax true false old b).1
  | .fmax _ => (f.minMax false false old b).1
  | _ => (fpAdd f false old b).1

/-- The new value of an `n`-byte location (R176). -/
def atomicNew (op : AtOp) (n old b cmp : Nat) : Nat :=
  let m := 2 ^ (8 * n)
  let lt (signed : Bool) (x y : Nat) : Bool := if signed then decide (toSigned (8 * n) x < toSigned (8 * n) y) else decide (x < y)
  match op with
  | .add => (old + b) % m
  | .and => Nat.land old b
  | .or => Nat.lor old b
  | .xor => Nat.xor old b
  | .min sg => if lt sg b old then b else old
  | .max sg => if lt sg old b then b else old
  | .swap => b
  | .fadd h | .fmin h | .fmax h => amof (if h then bf16 else f32) op old b
  | .cas => if old = cmp then b else old

/-- Whether the write half happens (R176): a CAS that fails writes nothing. -/
def atomicWrites (op : AtOp) (old new : Nat) : Bool := new != old || op != .cas

/-- What an atomic meets at its target. -/
inductive AtRes where
  | ok (old : Nat) (s : State)
  | fail (cause : Nat) (s : State)
  /-- Sent to a peer: its reply completes it (R389). -/
  | sent (s : State)

/-- At a scratchpad bank (R173, R177, R300, R302). -/
def State.atomicSpad (s : State) (r : AtReq) (cl off : Nat) (org : Origin) : AtRes :=
  if !s.windowOk cl (clOf org.core) off r.n true then .fail 0x0A s
  else
    match s.readPort cl off r.n org with
    | .fail c s => .fail c s
    | .ok bs t =>
      -- an atomic that covers a byte of furniture writes nothing and returns zero
      if ((s.cluster cl).firstGuarded off r.n).isSome then .ok 0 t
      else
        let old := natOfBytes bs
        let new := atomicNew r.op r.n old r.b r.cmp
        .ok old (if atomicWrites r.op old new then t.writeSpad cl off (bytesOfNat r.n new) org else t)

/-- At the home slice (R177, R289): the line leaves every L1. A CAS that fails leaves ownership alone (R176). -/
def State.atomicSlice (s : State) (r : AtReq) (pa : Nat) (org : Origin) : AtRes :=
  let s := s.dropCopies (pa / 64)
  match s.readSlice pa r.n org with
  | .fail c s => .fail c s
  | .ok bs t =>
    let old := natOfBytes bs
    let new := atomicNew r.op r.n old r.b r.cmp
    let t := if atomicWrites r.op old new then
        (List.zip (List.range r.n) (bytesOfNat r.n new)).foldl (fun t (i, b) => t.writeHome (pa + i) b) (t.disown (pa / 64))
          |>.leaveLlc (pa / 64)
      else t
    .ok old (t.watchReport pa r.n (BitVec.ofNat 64 (natOfBytes ((bytesOfNat r.n new).take 8))) org)

/-- In the base die (R177, R309). -/
def State.atomicSide (s : State) (r : AtReq) (pa : Nat) (org : Origin) : AtRes :=
  match s.readSide pa r.n org with
  | .fail c s => .fail c s
  | .ok bs t =>
    let old := natOfBytes bs
    let new := atomicNew r.op r.n old r.b r.cmp
    .ok old (if atomicWrites r.op old new then { t with hbm := storeBytes t.hbm pa (bytesOfNat r.n new) } else t)

/-- The bit of the portal operator mask that declares an operator the portal can send (R177, R325). -/
def portalCode (r : AtReq) : Option Nat :=
  match r.op, r.n with
  | .add, 4 => some 16
  | .add, 8 => some 17
  | .swap, 4 => some 28
  | .swap, 8 => some 29
  | .cas, 4 => some 36
  | .cas, 8 => some 37
  | .cas, 16 => some 38
  | _, _ => none

/-- The forme declared the operator for the window (kind 0 host, 1 peer) it uses (R177, R325). -/
def State.declared (s : State) (gen kind ix code : Nat) : Bool :=
  match s.inst? gen with
  | some i => i.portal.any fun (k, j, m) => k == kind && j == ix && m.testBit code
  | none => false

/-- Through the portal (R177, R389): host memory at once, a peer by a request, which its response completes. -/
def State.atomicPortal (s : State) (r : AtReq) (org : Origin) (p : Pkt) : AtRes :=
  match r.loc, portalCode r with
  | .host w a, some c =>
    if !s.declared org.gen 0 w c then .fail 0x09 s
    else
      let (bs, t) := s.hostBytes a r.n
      let old := natOfBytes bs
      let new := atomicNew r.op r.n old r.b r.cmp
      .ok old (if atomicWrites r.op old new then t.writeHost a (bytesOfNat r.n new) else t)
  | .peer st _, some c => if !s.declared org.gen 1 st c then .fail 0x09 s else .sent (s.toPeer st p)
  | _, _ => .fail 0x09 s

/-- An atomic at its target (R176, R177); `p` is the packet that brings it. -/
def State.atomicDo (s : State) (r : AtReq) (org : Origin) (p : Pkt) : AtRes :=
  if r.fault ≠ 0 then .fail r.fault s
  else
    match r.loc with
    | .spad c o => s.atomicSpad r c o org
    | .mem a => s.atomicSlice r a org
    | .side a _ => s.atomicSide r a org
    | .host _ _ | .peer _ _ => s.atomicPortal r org p
    | .guard va => .ok 0 (s.record org 0x0B va)
    | .dev a =>
      let (cl, off) := winOfPa a
      if !(s.cluster cl).stopped then .fail 0x09 s
      else
        match s.winLoad cl off r.n with
        | none => .fail 0x11 s
        | some bs =>
          let old := natOfBytes bs
          let new := atomicNew r.op r.n old r.b r.cmp
          .ok old (if atomicWrites r.op old new then s.winWrite cl off r.n (bytesOfNat r.n new) else s)

/-- The words of an old value (R178). -/
def atomicWords (r : AtReq) (old : Nat) : List Word :=
  if r.n ≤ 4 then [if r.sx then BitVec.ofInt 64 (toSigned (8 * r.n) old) else BitVec.ofNat 64 old]
  else wordsOfBytes (r.n / 8) (bytesOfNat r.n old)

/-! Instructions. -/

/-- The address of an atomic (R175): gA, or gA plus EXT32. -/
def atomicAddr (o : Ops) (k : Ctx) : Word :=
  match o.form with
  | .xtd _ _ e => k.rg o.a.toNat + e.signExtend 64
  | _ => k.rg o.a.toNat

/-- An atomic of `n` bytes (R175): checks, the outbound entry and its pin; a hart performs it at once (R261). -/
def atomicIssue (o : Ops) (s : State) (n : Nat) (op : AtOp) (b cmp : Nat) (sx : Bool) : Res :=
  let va := (atomicAddr o s.cx).toNat
  let nr := o.modBits 61 61 = 1
  let w := o.modBits 58 50
  let req (l : Loc) (fault : Nat) (res : Option (Nat × Cmpl)) : AtReq :=
    { loc := l, va := va, n := n, op := op, b := b, cmp := cmp, sx := sx, fault := fault, res := res,
      acq := o.modBits 59 59 == 1, rel := o.modBits 60 60 == 1 }
  let entry (l : Loc) (fault : Nat) (res : Option (Nat × Cmpl)) : OutEnt :=
    { act := .send [{ s.origin.pkt l.node 0 4 (.atomic (req l fault res)) with src := s.cur.core }]
      rel := o.modBits 60 60 == 1, acq := o.modBits 59 59 == 1, pins := res.map fun (_, c) => c.fid }
  match s.cur with
  | .hart cl _ =>
    if va % n ≠ 0 then .trap 0x03 va
    else
      match s.placeNow s.accessor .atomic va with
      | .error c => .trap c va
      | .ok (l, t) =>
        match t.memPort cl [l] n with
        | none => .done (s.waits t)
        | some s =>
          let org := { s.origin with core := 16 * cl }
          match s.atomicDo (req l 0 none) org { org.pkt l.node 0 4 (.atomic (req l 0 none)) with src := noCore } with
          | .ok _ t => .ok t
          | .sent t => .ok t
          | .fail c _ => .trap c va
  | .ctx _ _ =>
    if va % n ≠ 0 then .trap 0x03 va
    else if nr then
      match s.placeElem .atomic true true va n with
      | .trap c v => .trap c v
      | .miss p => s.missNow [] [p] va
      | .at_ l => s.takeOut [entry l 0 none]
    else
      s.ownFrame fun fid =>
        if s.ownWords fid < w + max 1 (n / 8) then .trap 0x09 w
        else
          let res := some (w, s.ownSlot fid (o.modBits 49 41) s.cx.act.tag)
          match s.placeKept .atomic true va n with
          | .trap c v => .trap c v
          | .miss p => s.missNow [] [p] va
          | .at_ ls fault => s.takeOut [entry (ls.headD (.guard va)) fault res]

/-- AMO's operator (R175). -/
def amoOp (o : Ops) : AtOp :=
  let sg := o.fnBits 2 2 == 1
  match o.fnBits 5 3 with
  | 0 => .add
  | 1 => .and
  | 2 => .or
  | 3 => .xor
  | 4 => .min sg
  | 5 => .max sg
  | _ => .swap

/-- The low `n` bytes of a register. -/
def lowBytes (n : Nat) (w : Word) : Nat := w.toNat % 2 ^ (8 * n)

/-- AMO (R175). -/
def execAmo (o : Ops) (s : State) : Host.Outcome State Fault Refusal :=
  run o s fun s =>
    let n := sizeBytes (o.fnBits 2 0)
    atomicIssue o s n (amoOp o) (lowBytes n (s.rg o.b.toNat)) 0 (o.fnBits 2 2 == 1)

/-- AMOF (R175). -/
def execAmof (o : Ops) (s : State) : Host.Outcome State Fault Refusal :=
  run o s fun s =>
    let h := o.fnBits 4 0 == 0x0C
    let n := if h then 2 else 4
    let op : AtOp := match o.fnBits 6 5 with
      | 0 => .fadd h
      | 1 => .fmin h
      | _ => .fmax h
    atomicIssue o s n op (lowBytes n (s.rg o.b.toNat)) 0 false

/-- CAS (R175): with `.p128` the register pairs. -/
def execCas (o : Ops) (s : State) : Host.Outcome State Fault Refusal :=
  run o s fun s =>
    let b := o.b.toNat
    let c := o.form.c.toNat
    if o.fnBits 3 3 = 1 then
      let pair (r : Nat) : Nat := (s.rg r).toNat + 2 ^ 64 * (s.rg (r + 1)).toNat
      atomicIssue o s 16 .cas (pair c) (pair b) false
    else
      let n := sizeBytes (o.fnBits 2 0)
      atomicIssue o s n .cas (lowBytes n (s.rg c)) (lowBytes n (s.rg b)) (o.fnBits 2 2 == 1)

/-- CASW (R175): lanes 0–3 of the 64-bit layout. -/
def execCasw (o : Ops) (s : State) : Host.Outcome State Fault Refusal :=
  run o s fun s =>
    atomicIssue o s 32 .cas ((s.rv o.form.c.toNat).toNat % 2 ^ 256) ((s.rv o.b.toNat).toNat % 2 ^ 256) false

end Sys2Proof.Machine
end

