-- ==== Sys2Proof/Machine/Sync.lean ====
section
/-! DEFINITION. Signals, slot updates, messages, channels, frames, write-once words, the routing log and timers
(R122–R151): what an instruction takes into the outbound buffer. -/
namespace Sys2Proof.Machine

open Sys2Proof

/-- The route tag of SIG, SIGR, SLOTSET and SLOTADD (R125). -/
def slotTag (o : Ops) (s : State) : Nat := tagOf s (o.modBits 53 53) (o.modBits 52 50)

/-- An entry to the frame that `SELF` and gA name (R125). -/
def slotAction (o : Ops) (s : State) (signal : Bool) (body : Target → Body) : Res :=
  s.frameTarget (o.modBits 54 54 == 1) (s.rg o.a.toNat) fun t =>
    s.takeOut [sendEnt (s.pktTo t (slotTag o s) 2 (body t)) signal]

/-- SIG (R126). -/
def execSig (o : Ops) (s : State) : Host.Outcome State Fault Refusal :=
  run o s fun s => slotAction o s true fun t => .sig t.fid (o.modBits 49 41) 0 none false

/-- SIGR and SLOTADD (R126): gB is n; bits [63:16] act as a reserved field. With n = 0 the reference is still checked (DESIGN CHOICE, log
entry 102). -/
def counted (o : Ops) (s : State) (signal : Bool) (body : Target → Nat → Body) : Res :=
  let n := (s.rg o.b.toNat).toNat
  if 65535 < n then .trap 0x02 n
  else
    s.frameTarget (o.modBits 54 54 == 1) (s.rg o.a.toNat) fun t =>
      if n = 0 then .ok s else s.takeOut [sendEnt (s.pktTo t (slotTag o s) 2 (body t n)) signal]

def execSigr (o : Ops) (s : State) : Host.Outcome State Fault Refusal :=
  run o s fun s => counted o s true fun t n => .sigr t.fid (o.modBits 49 41) n
def execSlotadd (o : Ops) (s : State) : Host.Outcome State Fault Refusal :=
  run o s fun s => counted o s false fun t n => .slotadd t.fid (o.modBits 49 41) n
def execSlotset (o : Ops) (s : State) : Host.Outcome State Fault Refusal :=
  run o s fun s => slotAction o s false fun t => .slotset t.fid (o.modBits 49 41) (s.rg o.b.toNat) false
def execSlotsetKeep (o : Ops) (s : State) : Host.Outcome State Fault Refusal :=
  run o s fun s => slotAction o s false fun t => .slotset t.fid (o.modBits 49 41) (s.rg o.b.toNat) true

/-- A lane of a vector register as 64 bits. -/
def lane64 (x : VReg) (i : Nat) : Word := BitVec.ofNat 64 (x.toNat / 2 ^ (64 * i))

/-- SIGV (R128). -/
def execSigv (o : Ops) (s : State) : Host.Outcome State Fault Refusal :=
  run o s fun s =>
    let m := s.rm (o.form.c.toNat)
    let refs := ((List.range 16).filter fun i => m.getLsbD (8 * i)).map (lane64 (s.rv o.b.toNat))
    match refs.find? fun r => !s.refOk r with
    | some r => .trap 0x09 r.toNat
    | none =>
      s.takeOut (refs.map fun r =>
        let t : Target := ⟨refCore r, refFid r, if refRem r then some (refPkg r) else none⟩
        sendEnt (s.pktTo t (tagOf s (wbits r 59 59) (wbits r 58 56)) 2 (.sig t.fid (wbits r 55 47) 0 none false)) true)

/-- Words of the own frame as the activation sees them (R17). -/
def State.frameWords (s : State) (fid w n : Nat) : List Word := wordsOfBytes n (s.ownBytes fid (8 * w) (8 * n))

/-- Classes 0 and 1 need privilege (R131). -/
def badClass (s : State) (cls : Nat) : Bool := decide (cls < 2) && !s.cx.priv

/-- Word 0 of a dispatch must be a frame reference of this package (R122, R385); a message without payload has none. -/
def badDispatch (t : Target) (cls : Nat) (w0 : Option Word) : Bool :=
  match t.pkg with
  | some d => d != ownPkg && cls == 6 &&
      (match w0 with
        | some w => wbits w 63 60 != 0 || wbits w 31 29 != 0 || wbits w 15 12 != 0 || refPkg w != (if refRem w then ownPkg else 0)
        | none => true)
  | none => false

/-- SEND (R131, R385). Its checks are made in this order: NW, CLS, the reference, the activation's kind, the frame words (DESIGN CHOICE, log
entry 103). -/
def execSend (o : Ops) (s : State) : Host.Outcome State Fault Refusal :=
  run o s fun s =>
    let nw := o.extBits 10 6
    let src := o.extBits 19 11
    let cls := o.extBits 26 24
    if 28 < nw then .trap 0x01 (opWord 0x63 o)
    else if badClass s cls then .trap 0x05 (opWord 0x63 o)
    else
      s.coreTarget (o.extBits 27 27 == 1) (s.rg o.a.toNat) fun t =>
        let go (ws : List Word) : Res :=
          if badDispatch t cls ws.head? then .trap 0x09 (ws.headD 0).toNat
          else s.takeOut [sendEnt (s.pktTo t (tagOf s (o.extBits 23 23) (o.extBits 22 20)) cls
            (.chan (o.extBits 5 0) (bytesOfWords ws))) true]
        -- a message without payload reads no frame, so a channel activation may send one (R30)
        if nw = 0 ∧ s.cx.act.fid.isNone then go []
        else s.ownFrame fun fid => if s.ownWords fid < src + nw then .trap 0x09 src else go (s.frameWords fid src nw)

/-- SENDF (R131, R132). -/
def execSendf (o : Ops) (s : State) : Host.Outcome State Fault Refusal :=
  run o s fun s =>
    let nw := o.extBits 13 9
    let src := o.extBits 22 14
    let cls := o.extBits 38 36
    if 28 < nw then .trap 0x01 (opWord 0x64 o)
    else if badClass s cls then .trap 0x05 (opWord 0x64 o)
    else
      s.frameTarget (o.extBits 39 39 == 1) (s.rg o.a.toNat) fun t =>
        let go (ws : List Word) : Res :=
          s.takeOut [sendEnt (s.pktTo t (tagOf s (o.extBits 35 35) (o.extBits 34 32)) cls
            (.sendf t.fid (o.extBits 8 0) (o.extBits 31 23) ws)) true]
        if nw = 0 ∧ s.cx.act.fid.isNone then go []
        else s.ownFrame fun fid => if s.ownWords fid < src + nw then .trap 0x09 src else go (s.frameWords fid src nw)

/-- FALLOC (R136). -/
def execFalloc (o : Ops) (s : State) : Host.Outcome State Fault Refusal :=
  run o s fun s =>
    s.ownFrame fun fid =>
      let w := o.modBits 58 50
      let c := s.ownSlot fid (o.modBits 49 41) s.cx.act.tag
      let p := { s.origin.pkt s.cur.core 0 8 (.falloc (o.modBits 62 59 + 1) w c) with src := s.cur.core }
      s.takeOut [{ act := .send [p], pins := some fid }]

/-- FFREE (R138). -/
def execFfree (o : Ops) (s : State) : Host.Outcome State Fault Refusal :=
  run o s fun s =>
    let self := o.modBits 54 54 == 1
    let r := s.rg o.a.toNat
    if self then s.ownFrame fun fid => s.takeOut [{ act := .ffree fid (frameRef s.cur.core fid) }]
    else if s.refOk r && !refRem r && refCore r == s.cur.core then s.takeOut [{ act := .ffree (refFid r) r }]
    else .trap 0x09 r.toNat

/-- CHBLK and CHUNB (R134). -/
def chanGate (o : Ops) (s : State) (body : Nat → Body) : Res :=
  s.coreTarget (o.modBits 54 54 == 1) (s.rg o.a.toNat) fun t =>
    s.takeOut [sendEnt (s.pktTo t s.cx.act.tag 2 (body (o.modBits 46 41))) false]

def execChblk (o : Ops) (s : State) : Host.Outcome State Fault Refusal := run o s fun s => chanGate o s .chblk
def execChunb (o : Ops) (s : State) : Host.Outcome State Fault Refusal := run o s fun s => chanGate o s .chunb

/-- ROUTE (R135, R385). -/
def execRoute (o : Ops) (s : State) : Host.Outcome State Fault Refusal :=
  run o s fun s =>
    let cls := o.modBits 53 51
    let w0 : Word := BitVec.ofNat 64 (natOfBytes (s.cx.act.inbox.take 8))
    if badClass s cls then .trap 0x05 (opWord 0x6B o)
    else
      s.coreTarget (o.modBits 54 54 == 1) (s.rg o.a.toNat) fun t =>
        if badDispatch t cls (if s.cx.act.inbox.isEmpty then none else some w0) then .trap 0x09 w0.toNat
        else s.takeOut [sendEnt (s.pktTo t (tagOf s (o.modBits 50 50) (o.modBits 49 47)) cls
          (.chan (o.modBits 46 41) s.cx.act.inbox)) true]

/-- ROUTE.REF (R124). -/
def execRouteRef (o : Ops) (s : State) : Host.Outcome State Fault Refusal :=
  run o s fun s => s.ownFrame fun fid => .ok (s.wg o.d.toNat (frameRef s.cur.core fid))

/-! Write-once words (R145). -/

/-- The address of ISTW and ISRD. -/
def woAddr (o : Ops) (s : State) : Nat :=
  match o.form with
  | .xtd _ _ e => (s.rg o.a.toNat + e.signExtend 64).toNat
  | _ => (s.rg o.a.toNat).toNat

/-- The place of a write-once word that is read or written, or the cause that its completion will carry (R145, R146, R278). -/
def woPlace (s : State) (acc : Acc) (va : Nat) (f : Loc → Nat → Res) : Res :=
  if va % 8 ≠ 0 then .trap 0x03 va
  else
    match spaceOf s.cur.cl va with
    | .none => .trap 0x08 va
    | sp =>
      match s.watchHit va 8 (acc == .read) (acc == .write) with
      | some a => .trap 0x18 a
      | none =>
        match sp with
        | .spad cl off => f (.spad cl off) 0
        | .virt a =>
          (match s.xlateCx acc a with
            -- of a guarded page a write-once word is read as zero and not written (R411)
            | .at_ (.guard v) => f (.guard v) (if (s.tlbAt a).any (·.attr.testBit 8) then 0 else 0x0C)
            | .at_ l => f l 0
            | .fault c => f (.guard a) c
            | .miss => s.missNow [] [a / 2 ^ 16] va)
        | .none => .trap 0x08 va

/-- The completion slot of ISTW: none with S = 0. -/
def istwCmpl (o : Ops) (s : State) (f : Option Cmpl → Res) : Res :=
  if o.modBits 50 50 = 0 then f none
  else s.ownFrame fun fid => f (some (s.ownSlot fid (o.modBits 49 41) (tagOf s (o.modBits 51 51) (o.modBits 54 52))))

/-- A packet to the port of a place, in the class of memory requests (R366). -/
def State.memPkt (s : State) (l : Loc) (body : Body) : Pkt := { s.origin.pkt l.node 0 4 body with src := s.cur.core }

def execIstw (o : Ops) (s : State) : Host.Outcome State Fault Refusal :=
  run o s fun s => istwCmpl o s fun c => woPlace s .write (woAddr o s) fun l fault =>
    s.takeOut [{ act := .send [s.memPkt l (.istw l (woAddr o s) (s.rg o.b.toNat) fault c)], signal := true
                 pins := c.map (·.fid) }]
def execIstwClr (o : Ops) (s : State) : Host.Outcome State Fault Refusal :=
  run o s fun s => istwCmpl o s fun c => woPlace s .write (woAddr o s) fun l fault =>
    s.takeOut [{ act := .send [s.memPkt l (.istwClr l (woAddr o s) fault c)], signal := true, pins := c.map (·.fid) }]

def execIsrd (o : Ops) (s : State) : Host.Outcome State Fault Refusal :=
  run o s fun s => s.ownFrame fun fid =>
    let c := s.ownSlot fid (o.modBits 49 41) (tagOf s (o.modBits 62 62) (o.modBits 61 59))
    woPlace s .read (woAddr o s) fun l fault =>
      s.takeOut [{ act := .send [s.memPkt l (.isrd l (woAddr o s) fault (o.modBits 58 50) c 0)], pins := some fid }]

/-! The routing log (R150) and timers (R151). -/

/-- The completion slot of RLOG and TIME.AT. -/
def rlogCmpl (o : Ops) (s : State) (fid : Nat) : Cmpl :=
  s.ownSlot fid (o.modBits 49 41) (tagOf s (o.modBits 50 50) (o.modBits 53 51))

/-- The core whose port is nearest to the slice of a descriptor. -/
def sliceNode (s : State) (dva : Nat) : Nat :=
  match s.xlate s.cur.cl s.cx.gen s.cx.priv .read dva with
  | .at_ l => l.node
  | _ => s.cur.core

def execRlogPut (o : Ops) (s : State) : Host.Outcome State Fault Refusal :=
  run o s fun s => s.ownFrame fun fid =>
    let c := s.rg o.form.c.toNat
    let dva := (s.rg o.a.toNat).toNat
    let p := { s.origin.pkt (sliceNode s dva) 0 2
      (.rlogPut dva (wbits c 15 0) (wbits c 47 16) (s.rv o.b.toNat) (rlogCmpl o s fid)) with src := s.cur.core }
    s.takeOut [{ act := .send [p], pins := some fid }]
def execRlogRet (o : Ops) (s : State) : Host.Outcome State Fault Refusal :=
  run o s fun s => s.ownFrame fun fid =>
    let c := s.rg o.form.c.toNat
    let dva := (s.rg o.a.toNat).toNat
    let p := { s.origin.pkt (sliceNode s dva) 0 2
      (.rlogRet dva (wbits c 15 0) (wbits c 47 16) (rlogCmpl o s fid)) with src := s.cur.core }
    s.takeOut [{ act := .send [p], pins := some fid }]

/-- TIME (R151). -/
def execTime (o : Ops) (s : State) : Host.Outcome State Fault Refusal :=
  run o s (State.pure fun s => s.wg o.d.toNat (BitVec.ofNat 64 s.time))

/-- TIME.AT (R151). -/
def execTimeAt (o : Ops) (s : State) : Host.Outcome State Fault Refusal :=
  run o s fun s => s.ownFrame fun fid =>
    s.takeOut [{ act := .timer (s.rg o.a.toNat).toNat (rlogCmpl o s fid), pins := some fid }]

end Sys2Proof.Machine
end

