-- ==== Sys2Proof/Machine/Engine.lean ====
section
/-! DEFINITION. Engine commands, combining-network collectives and view instructions (R255–R270): what they check when they
execute and what they take into the outbound buffer. -/
namespace Sys2Proof.Machine

open Sys2Proof

/-! Engine commands (R252, R255). -/

/-- w0 of a command (R252). -/
def cmdWord (entry esz cls : Nat) : Word := BitVec.ofNat 64 (entry + esz * 2 ^ 10 + cls * 2 ^ 16)

/-- A value that is an address or a stream port (R253). -/
def goodEndpoint (v : Word) : Bool := [0, 4, 8].contains (wbits v 63 60)

/-- A class that a command may not use (R255): the cause. -/
def State.badKickClass (s : State) (cls : Nat) : Option Nat :=
  if cls < 2 then (if s.cx.priv then none else some 0x05) else if cls < 4 then some 0x09 else none

/-- w7 of a command, but for the hart (R252). -/
def State.kickTarget (s : State) (ns t ts k : Nat) : Word :=
  BitVec.ofNat 64 (ns * 2 ^ 29 + t * 2 ^ 26 + ts * 2 ^ 25 + k * 2 ^ 16 + s.cur.core % 16 * 2 ^ 12 + s.cx.act.fid.getD 0)

/-- The kick entry of a command (R256). -/
def kickOut (o : Ops) (s : State) (w : List Word) : Res :=
  s.cmplOf o fun k =>
    s.takeOut [{ act := .kick { w := snoc w (s.kickTarget (o.modBits 54 54) (o.modBits 53 51) (o.modBits 50 50) (o.modBits 49 41)), hart := o.fnBits 1 0, org := { s.origin with kind := 1 }, cmpl := k, priv := s.cx.priv }
                 pins := k.map (·.fid) }]

/-- The checks of COPY and COPYS, and their command. -/
def copyIssue (o : Ops) (s : State) (entry : Nat) (shape2 : Word) : Res :=
  let a := s.rg o.a.toNat
  let b := s.rg o.b.toNat
  let cls := o.modBits 57 55
  if !goodEndpoint a then .trap 0x08 a.toNat
  else if !goodEndpoint b then .trap 0x08 b.toNat
  else
    match s.badKickClass cls with
    | some c => .trap c cls
    | none => kickOut o s [cmdWord entry (o.modBits 60 58) cls, s.rg o.form.c.toNat, a, b, shape2, 0, 0]

/-- COPY (R255). -/
def execCopy (o : Ops) (s : State) : Host.Outcome State Fault Refusal := run o s fun s => copyIssue o s 0 0
/-- COPYS (R255). -/
def execCopys (o : Ops) (s : State) : Host.Outcome State Fault Refusal :=
  run o s fun s => copyIssue o s 8 (s.rg (o.form.c.toNat + 1))

/-- A register that names branches of a multicast port (R255, R260). -/
def State.branchesOk (s : State) (v : Word) : Bool :=
  let bs := s.branchesOf s.cx.gen (wbits v 7 0)
  wbits v 63 12 == 0 && decide (2 ≤ bs.length) && wbits v 11 8 != 0
    && (List.range 4).all fun i => !v.getLsbD (8 + i) || bs.contains i

/-- COPYM (R255). -/
def execCopym (o : Ops) (s : State) : Host.Outcome State Fault Refusal :=
  run o s fun s =>
    let a := s.rg o.a.toNat
    let b := s.rg o.b.toNat
    let cls := o.modBits 57 55
    if !goodEndpoint a then .trap 0x08 a.toNat
    else if !s.branchesOk b then .trap 0x09 b.toNat
    else
      match s.badKickClass cls with
      | some c => .trap c cls
      | none => kickOut o s [cmdWord 16 (o.modBits 60 58) cls, s.rg o.form.c.toNat, a, 0, 0, b, 0]

/-- CKICK (R255): word W + 7, too, lies within the own frame. -/
def execCkick (o : Ops) (s : State) : Host.Outcome State Fault Refusal :=
  run o s fun s => s.ownFrame fun fid =>
    let w := o.modBits 63 55
    if s.ownWords fid < w + 8 then .trap 0x09 w
    else
      let ws := s.frameWords fid w 7
      let cls := wbits (ws.headD 0) 18 16
      match s.badKickClass cls with
      | some c => .trap c cls
      | none => kickOut o s ws

/-! Collectives (R262–R267). -/

/-- Fields of an espalier entry (R374). -/
def espType (e : Word) : Nat := wbits e 60 57
def espOp (e : Word) : Nat := wbits e 56 54
def espXpkg (e : Word) : Bool := e.getLsbD 61
def espReweight (e : Word) : Bool := e.getLsbD 62
def espMembers (e : Word) : List Nat := (List.range 16).filter fun i => e.getLsbD (16 + i)

/-- log2 of the element size of a group type. -/
def typeEsz (t : Nat) : Nat :=
  match t with
  | 1 | 2 => 1
  | 5 | 6 => 3
  | _ => 2
/-- Bits of an element of a group type. -/
def typeBits (t : Nat) : Nat := 8 * 2 ^ typeEsz t

/-- The espalier entry of a group at a cluster; 0 when invalid. -/
def State.espOf (s : State) (cl grp : Nat) : Word := SMap.get 0 (s.cluster cl).esp grp

/-- The core is a member of the group (R262). -/
def State.isMember (s : State) (core grp : Nat) : Bool :=
  let e := s.espOf (clOf core) grp
  e.getLsbD 63 && e.getLsbD (16 + core % 16)

/-- The group that MOD names, or the trap of R262. -/
def withGroup (s : State) (grp : Nat) (f : Res) : Res := if s.isMember s.cur.core grp then f else .trap 0x09 grp

/-- The arm that the next CCON or CRED of a group takes (R267). -/
def Ctx.armOf (k : Ctx) (grp : Nat) : Option CevtArm := k.arms.find? (·.grp == grp)
/-- The context with the arm of a group taken. -/
def Ctx.dropArm (k : Ctx) (grp : Nat) : Ctx := { k with arms := k.arms.filter (·.grp != grp) }

/-- An entry taken together with the arm of its group. -/
def groupOut (s : State) (grp : Nat) (e : OutEnt) : Res :=
  match s.takeOut [e] with
  | .ok t => .ok (t.setCx (t.cx.dropArm grp))
  | r => r

/-- CCON (R263). -/
def execCcon (o : Ops) (s : State) : Host.Outcome State Fault Refusal :=
  run o s fun s =>
    let grp := o.modBits 46 41
    withGroup s grp (groupOut s grp { act := .ccon grp (s.rg o.b.toNat) (s.cx.armOf grp) })

/-- CEXT without a result (R265): the activation waits for one of the group. -/
def State.cextAbort (s : State) (core x grp : Nat) : State :=
  let a := ((s.core core).ctx x).replay
  (s.orphan core x).endAct core x true fun s =>
    (s.setRp core a).modCore core fun k => { k with cextQ := snoc k.cextQ (grp, { a with level := a.first }) }

/-- CEXT (R265). -/
def execCext (o : Ops) (s : State) : Host.Outcome State Fault Refusal :=
  run o s fun s =>
    let grp := o.modBits 46 41
    match (s.core s.cur.core).results.find? (·.grp == grp) with
    | none => .done (s.cextAbort s.cur.core s.cur.x grp)
    | some r =>
      let k := s.cx.wg o.d.toNat r.v
      .ok (s.setCx (if o.fn = 1 then k else { k with taken := snoc k.taken (r.grp, r.n) }))

/-- CRED (R266): the engine command of the collective hart. Its operation number is counted when it issues. -/
def execCred (o : Ops) (s : State) : Host.Outcome State Fault Refusal :=
  run o s fun s =>
    let grp := o.modBits 46 41
    withGroup s grp
      (groupOut s grp
        { act := .kick { w := [cmdWord 24 (typeEsz (espType (s.espOf s.cur.cl grp))) 3, s.rg o.form.c.toNat, s.rg o.a.toNat,
                               s.rg o.b.toNat, 0, BitVec.ofNat 64 grp, 0, s.kickTarget 1 0 0 0]
                         hart := 2, org := { s.origin with kind := 1 }, cmpl := none, priv := s.cx.priv
                         cred := some (grp, 0, o.fn == 1), arm := s.cx.armOf grp } })

/-- CEVT (R267). -/
def execCevt (o : Ops) (s : State) : Host.Outcome State Fault Refusal :=
  run o s fun s => s.ownFrame fun fid =>
    let grp := o.extBits 39 34
    let t := tagOf s (o.extBits 33 33) (o.extBits 32 30)
    let slot (v k : Nat) : Option Cmpl := if v = 1 then some (s.ownSlot fid k t) else none
    let arm : CevtArm :=
      { grp := grp, src := slot (o.extBits 9 9) (o.extBits 8 0), loc := slot (o.extBits 19 19) (o.extBits 18 10)
        fin := slot (o.extBits 29 29) (o.extBits 28 20) }
    withGroup s grp (.ok (s.setCx { s.cx with arms := snoc (s.cx.dropArm grp).arms arm }))

/-! Views (R269, R270). -/

/-- CVIEW (R269). -/
def execCview (o : Ops) (s : State) : Host.Outcome State Fault Refusal :=
  run o s (State.pure fun s => s.wg o.d.toNat (BitVec.ofNat 64 (s.views.view % 2 ^ 16)))

/-- 64 bits of the member bitmap. -/
def memberBits (ms : List Nat) (m : Nat) : Word :=
  BitVec.ofNat 64 ((List.range 64).foldl (fun a i => if ms.contains (64 * m + i) then a + 2 ^ i else a) 0)

/-- CVIEW.bm (R269). -/
def execCviewBm (o : Ops) (s : State) : Host.Outcome State Fault Refusal :=
  run o s fun s =>
    let a := s.rg o.a.toNat
    if wbits a 63 8 ≠ 0 then .trap 0x09 a.toNat
    else .ok (s.wg o.d.toNat (memberBits s.views.members (wbits a 7 0)))

/-- CVIEW.arm (R269). -/
def execCviewArm (o : Ops) (s : State) : Host.Outcome State Fault Refusal :=
  run o s fun s => s.ownFrame fun fid =>
    s.takeOut [{ act := .cviewArm (s.ownSlot fid (o.modBits 49 41) (tagOf s (o.modBits 50 50) (o.modBits 53 51)))
                 pins := some fid }]

/-- CJOIN (R270). -/
def execCjoin (o : Ops) (s : State) : Host.Outcome State Fault Refusal :=
  run o s fun s =>
    let a := s.rg o.a.toNat
    if !s.cx.priv then .trap 0x05 (opWord 0xE9 o)
    else s.ownFrame fun fid =>
      if wbits a 63 14 ≠ 0 then .trap 0x09 a.toNat
      else
        s.takeOut [{ act := .cjoin a.toNat (s.ownSlot fid (o.modBits 49 41) (tagOf s (o.modBits 50 50) (o.modBits 53 51)))
                              (o.modBits 63 55)
                     pins := some fid }]

end Sys2Proof.Machine
end

