-- ==== Sys2Proof/Machine/Matrix.lean ====
section
/-! DEFINITION. The matrix instructions (R205–R235): what they check when they execute and the command they take into the
outbound buffer. The commands run as steps of the cluster array. -/
namespace Sys2Proof.Machine

open Sys2Proof

/-! Operand endpoints (R214, R215). -/

def epOff (v : Word) : Nat := wbits v 21 0
def epStride (v : Word) : Nat := wbits v 47 32
def epStream (v : Word) : Bool := v.getLsbD 31

/-- The highest unmasked index of a mask of 32. -/
def topBit (m : Nat) : Option Nat := if m = 0 then none else some (Nat.log2 m)

/-- The end of the bytes read from a panel: row `i` and element `j` are the last; `add` is the distance of the panel from
OFF. `none` when no element is read. -/
def panelStop (v : Word) (add n : Nat) (i j : Option Nat) : Option Nat :=
  match i, j with
  | some i, some j => some (epOff v + add + i * epStride v + ((j + 1) * n + 7) / 8)
  | _, _ => none

/-- The last of `n` indexes. -/
def lastOf (n : Nat) : Option Nat := if n = 0 then none else some (n - 1)

/-- The check of an endpoint (R215): the cause of the first failure. -/
def State.epCheck (s : State) (v : Word) (stop : Option Nat) : Option Nat :=
  let port := s.streams.any fun t => t.gen == s.cx.gen && t.port == wbits v 7 0
  if wbits v 63 48 ≠ 0 || wbits v 30 22 ≠ 0 || (epStream v && (epStride v ≠ 0 || wbits v 21 8 ≠ 0 || !port)) then some 0x09
  else if epStream v then none
  else
    match stop with
    | none => none
    | some e =>
      if 2 ^ 22 < e then some 0x09
      else if epOff v % 4 ≠ 0 || epStride v % 4 ≠ 0 then some 0x03
      else none

/-- An instruction goes on when an endpoint passes its check. -/
def State.withEp (s : State) (v : Word) (stop : Option Nat) (f : Res) : Res :=
  match s.epCheck v stop with
  | some c => .trap c v.toNat
  | none => f

/-! Commands. -/

/-- A matrix command taken into the outbound buffer with the completion of R206. -/
def matrixOut (o : Ops) (s : State) (c : MCmd) : Res :=
  s.cmplOf o fun k => s.takeOut [{ act := .matrix { c with cmpl := k }, pins := k.map (·.fid) }]

/-- The command of the executing context on slot `sl`. -/
def State.mcmd (s : State) (op : MOp) (sl : Nat) : MCmd :=
  { op := op, sl := sl, ctx := s.cur.x, org := { s.origin with kind := 2 }, cmpl := none, priv := s.cx.priv }

/-- A DESC code of the 4-bit and 2-bit formats on a part without them (R59). -/
def State.noFmt (s : State) (fmt : Nat) : Bool := fmtNarrow fmt && !s.caps.testBit 1

/-- A seven-bit signed centre. -/
def centre7 (v : Nat) : Int := toSigned 7 v

/-! Cooperative results (R221, R222). -/

/-- Fields of GEOM (R221). -/
structure Geom where
  org : Nat
  grp : Nat
  orr : Nat
  orc : Nat
  gr : Nat
  gc : Nat
  myr : Nat
  myc : Nat
  n : Nat
  m : Nat
  deriving DecidableEq, Repr

def geomOf (v : Word) : Geom :=
  { org := wbits v 56 48, grp := wbits v 47 40, orr := wbits v 35 34, orc := wbits v 33 32, gr := wbits v 31 29 + 1,
    gc := wbits v 28 26 + 1, myr := wbits v 25 23, myc := wbits v 22 20, n := wbits v 15 8 + 1, m := wbits v 7 0 + 1 }

/-- The core of group region (a, b) (R221). -/
def Geom.core (g : Geom) (a b : Nat) : Nat :=
  let x := g.orr + a
  let y := g.orc + b
  16 * (g.org + 16 * (x / 4) + y / 4) + 4 * (x % 4) + y % 4

/-- The clusters of a group. -/
def Geom.clusters (g : Geom) : List Nat :=
  (if 4 < g.gr then [0, 16] else [0]).flatMap fun d => (if 4 < g.gc then [0, 1] else [0]).map fun e => g.org + d + e

/-- MGEO's check (R222). -/
def State.geomOk (s : State) (v : Word) : Bool :=
  let g := geomOf v
  let fits (o n : Nat) : Bool := decide (o + n ≤ 4) || (o == 0 && decide (4 < n))
  wbits v 62 57 == 0 && wbits v 39 36 == 0 && wbits v 19 16 == 0
    && g.gr == (g.m + 31) / 32 && g.gc == (g.n + 31) / 32 && fits g.orr g.gr && fits g.orc g.gc
    && !(g.org % 16 == 15 && decide (4 < g.gc)) && !(decide (495 < g.org) && decide (4 < g.gr))
    && g.clusters.all (fun c => (s.cluster c).loaded && (s.cluster c).gen == s.cx.gen)
    && decide (g.myr < g.gr) && decide (g.myc < g.gc) && g.core g.myr g.myc == s.cur.core

/-- MGEO (R222). -/
def execMgeo (o : Ops) (s : State) : Host.Outcome State Fault Refusal :=
  run o s fun s =>
    let v : Word := match o.form with
      | .desc _ _ d => d
      | _ => s.rg o.a.toNat
    if s.geomOk v then .ok (s.setCx { s.cx with geom := v ||| (1 <<< 63) }) else .trap 0x09 v.toNat

/-! MMA and MMAG (R217, R223, R224). -/

/-- The fields of an MMA descriptor (R217). -/
def mmaFa (d : Nat) : Nat := bits d 4 0
def mmaFb (d : Nat) : Nat := bits d 9 5
def mmaCa (d : Nat) : Int := centre7 (bits d 16 10)
def mmaCb (d : Nat) : Int := centre7 (bits d 23 17)
def mmaK (d : Nat) : Nat := 32 * (bits d 30 24 + 1)
def mmaDepth (d : Nat) : Nat := bits d 43 31

/-- The edge mask of a member's 32 rows or columns of `n` (R223). -/
def edgeMask (n at_ : Nat) : Nat := 2 ^ min 32 (n - 32 * at_) - 1

/-- What an MMA or an MMAG reads: the rows of A and the columns of B, and the distances of its panels from OFF (R224). -/
structure MmaReads where
  rows : Nat
  cols : Nat
  aOff : Nat
  bOff : Nat
  deriving DecidableEq, Repr

/-- The reads of a plain MMA are those of its masks, none when every row or every column is masked; an MMAG's are those of its edges
(R215, R224). -/
def mmaReads (group : Bool) (geom ga gc : Word) (d : Nat) : MmaReads :=
  if group then
    let g := geomOf geom
    { rows := if g.myc = 0 then edgeMask g.m g.myr else 0, cols := if g.myr = 0 then edgeMask g.n g.myc else 0
      aOff := 32 * g.myr * epStride ga, bOff := 4 * g.myc * fmtBits (mmaFb d) }
  else if wbits gc 31 0 = 0 || wbits gc 63 32 = 0 then { rows := 0, cols := 0, aOff := 0, bOff := 0 }
  else { rows := wbits gc 31 0, cols := wbits gc 63 32, aOff := 0, bOff := 0 }

/-- MMA and MMAG (R217, R223). -/
def mmaIssue (o : Ops) (op : Nat) (group : Bool) (s : State) : Res :=
  let d := o.form.ext
  let ga := s.rg o.a.toNat
  let gb := s.rg o.b.toNat
  let gc := s.rg o.form.c.toNat
  if s.noFmt (mmaFa d) || s.noFmt (mmaFb d) then .trap 0x01 (opWord op o)
  else if (mmaCa d ≠ 0 && !fmtSprig (mmaFa d)) || (mmaCb d ≠ 0 && !fmtSprig (mmaFb d)) then .trap 0x02 (opWord op o)
  else if mmaK d < mmaDepth d then .trap 0x09 d
  else if group && !s.cx.geom.getLsbD 63 then .trap 0x09 s.cx.geom.toNat
  else
    let r := mmaReads group s.cx.geom ga gc d
    let depth := lastOf (mmaDepth d)
    s.withEp ga (panelStop ga r.aOff (fmtBits (mmaFa d)) (topBit r.rows) depth)
      (s.withEp gb (panelStop gb r.bOff (fmtBits (mmaFb d)) depth (topBit r.cols))
        (matrixOut o s { s.mcmd (if group then .mmag else .mma) o.d.toNat with
          ga := ga, gb := gb, gc := gc, desc := d, geom := s.cx.geom }))

def execMma (o : Ops) (s : State) : Host.Outcome State Fault Refusal := run o s (mmaIssue o 0xC1 false)
def execMmag (o : Ops) (s : State) : Host.Outcome State Fault Refusal := run o s (mmaIssue o 0xC2 true)

/-! The other commands (R226–R233). -/

def execMzero (o : Ops) (s : State) : Host.Outcome State Fault Refusal :=
  run o s fun s => matrixOut o s (s.mcmd .mzero o.d.toNat)

/-- MLDC (R227). -/
def execMldc (o : Ops) (s : State) : Host.Outcome State Fault Refusal :=
  run o s fun s =>
    let d := o.form.ext
    let ga := s.rg o.a.toNat
    let gc := s.rg o.form.c.toNat
    let f := bits d 4 0
    if s.noFmt f then .trap 0x01 (opWord 0xC4 o)
    else if bits d 11 5 ≠ 0 && !fmtSprig f then .trap 0x02 (opWord 0xC4 o)
    else
      s.withEp ga (panelStop ga 0 (fmtBits f) (topBit (wbits gc 31 0)) (topBit (wbits gc 63 32)))
        (matrixOut o s { s.mcmd .mldc o.d.toNat with ga := ga, gc := gc, desc := d })

/-- MSTC (R228); its destination is checked when the command runs (R230). -/
def execMstc (o : Ops) (s : State) : Host.Outcome State Fault Refusal :=
  run o s fun s =>
    let d := o.form.ext
    let f := bits d 4 0
    if 4 < bits d 7 5 || s.noFmt f then .trap 0x01 (opWord 0xC5 o)
    else if bits d 14 8 ≠ 0 && !fmtSprig f then .trap 0x02 (opWord 0xC5 o)
    else
      matrixOut o s { s.mcmd .mstc o.a.toNat with ga := s.rg o.b.toNat, gc := s.rg o.form.c.toNat, desc := d }

/-- MQUE (R231). -/
def execMque (o : Ops) (s : State) : Host.Outcome State Fault Refusal :=
  run o s fun s =>
    let d := o.form.ext
    let f := bits d 4 0
    if f ≠ 0x0A && f ≠ 0x0C && f ≠ 0x0D then .trap 0x01 (opWord 0xC6 o)
    else matrixOut o s { s.mcmd .mque o.a.toNat with gc := s.rg o.form.c.toNat, desc := d }

def execMrel (o : Ops) (s : State) : Host.Outcome State Fault Refusal :=
  run o s fun s => matrixOut o s (s.mcmd .mrel o.d.toNat)

end Sys2Proof.Machine
end

