-- ==== Sys2Proof/Machine/StateBank.lean ====
section
/-! DEFINITION. The state-bank instructions (R236–R248): what they check when they execute and what they take into the
outbound buffer. -/
namespace Sys2Proof.Machine

open Sys2Proof

/-! Bank references and event words (R237). -/

def bankLoc (r : Word) : Bool := r.getLsbD 20
def bankRow (r : Word) : Nat := wbits r 19 15
def bankSl (r : Word) : Nat := wbits r 14 13
def bankReg (r : Word) : Nat := wbits r 12 9
/-- The cluster a bank reference names, as cluster `cl` uses it. -/
def bankCl (r : Word) (cl : Nat) : Nat := if bankLoc r then cl else wbits r 8 0

def evValue (e : Word) : Nat := wbits e 63 32
def evSrc (e : Word) : Nat := wbits e 27 16
def evTime (e : Word) : Nat := wbits e 15 0

/-- SBCFG (R240). -/
def execSbcfg (o : Ops) (s : State) : Host.Outcome State Fault Refusal :=
  run o s fun s =>
    let a := s.rg o.a.toNat
    if wbits a 5 0 ≠ 0 then .trap 0x03 a.toNat
    else
      match spaceOf s.cur.cl a.toNat with
      | .spad cl off =>
        if cl ≠ s.cur.cl || 2 ^ 22 < off + 320 then .trap 0x09 a.toNat
        else matrixOut o s { s.mcmd .sbcfg o.d.toNat with ga := a }
      | _ => .trap 0x09 a.toNat

/-- SBEVT (R240, R242). -/
def execSbevt (o : Ops) (s : State) : Host.Outcome State Fault Refusal :=
  run o s fun s =>
    let a := s.rg o.a.toNat
    let e := s.rg o.b.toNat
    if wbits a 63 21 ≠ 0 then .trap 0x02 a.toNat
    else if wbits e 31 28 ≠ 0 then .trap 0x02 e.toNat
    else
      let cl := bankCl a s.cur.cl
      let k := s.cluster cl
      if !bankLoc a && !(k.loaded && k.gen == s.cx.gen) then .trap 0x09 a.toNat
      else
        s.cmplOf o fun c =>
          s.takeOut [{ act := .send [{ s.origin.pkt (16 * cl) ((c.map (·.tag)).getD s.cx.act.tag) 3
                          (.sbevt cl (bankReg a) (bankSl a) (bankRow a) e c 0 none) with src := s.cur.core }]
                       pins := c.map (·.fid) }]

/-- SBSTEP (R239, R244). -/
def execSbstep (o : Ops) (s : State) : Host.Outcome State Fault Refusal :=
  run o s fun s => matrixOut o s { s.mcmd .sbstep o.d.toNat with left := bits o.form.ext 7 0 + 1 }

/-- Bits of an element that SBREAD writes (R248). -/
def sbreadBits (d : Nat) : Nat := if d.testBit 5 then 64 else fmtBits (bits d 4 0)

/-- SBREAD (R240, R248). -/
def execSbread (o : Ops) (s : State) : Host.Outcome State Fault Refusal :=
  run o s fun s =>
    let d := o.form.ext
    let f := bits d 4 0
    let gb := s.rg o.b.toNat
    let gc := s.rg o.form.c.toNat
    if d.testBit 5 && (f ≠ 0 || bits d 15 6 ≠ 0) then .trap 0x02 (opWord 0xCB o)
    else if !d.testBit 5 && (4 < bits d 8 6 || s.noFmt f) then .trap 0x01 (opWord 0xCB o)
    else if !d.testBit 5 && bits d 15 9 ≠ 0 && !fmtSprig f then .trap 0x02 (opWord 0xCB o)
    else
      s.withEp gb (panelStop gb 0 (sbreadBits d) (topBit (wbits gc 31 0)) (topBit (wbits gc 63 32)))
        (matrixOut o s { s.mcmd .sbread o.a.toNat with gb := gb, gc := gc, desc := d })

end Sys2Proof.Machine
end

