-- ==== Sys2Proof/Machine/Capacity.lean ====
section
/-! DEFINITION. What the prune maps leave usable (R298, R304, R316–R318), the free granules (R298, R320), and format windows
as they are set (R311, R312). -/
namespace Sys2Proof.Machine

open Sys2Proof

/-! Prune maps. -/

/-- The prune-map capability (R11, R421). -/
def State.hasPrune (s : State) : Bool := s.caps.testBit 6

/-- Whether a row of a macro is pruned at a point (R316). -/
def State.pruned (s : State) (kind cl core row op : Nat) : Bool :=
  s.prune.any fun r => r.kind == kind && r.cl == cl && r.core == core && r.row == row && decide (r.op ≤ op)

/-- Rows of a macro pruned at a point. -/
def State.prunedRows (s : State) (kind cl core op : Nat) : List Nat :=
  ((s.prune.filter fun r => r.kind == kind && r.cl == cl && r.core == core && decide (r.op ≤ op)).map (·.row)).eraseDups

/-- Capacity is reported in full at OP0 and OP1, and as 0 below, on a part without prune maps (R316). -/
def State.capAt (s : State) (op full : Nat) (n : Nat) : Nat := if s.hasPrune then n else if op ≤ 1 then full else 0

/-- SROWS (R318). -/
def State.srows (s : State) (cl op : Nat) : Nat :=
  s.capAt op 65536 (32 * (2048 - ((s.prunedRows 0 cl 0 op).length + 31) / 32))
/-- FROWS (R318). -/
def State.frows (s : State) (core op : Nat) : Nat :=
  s.capAt op 1024 (1024 - (s.prunedRows 1 (clOf core) (core % 16) op).length)
/-- FGRAN: granules none of whose four rows is pruned (R298, R318). -/
def State.fgran (s : State) (core op : Nat) : Nat :=
  s.capAt op 256 (256 - ((s.prunedRows 1 (clOf core) (core % 16) op).map (· / 4)).eraseDups.length)
/-- L1L (R318). -/
def State.l1l (s : State) (core op : Nat) : Nat :=
  s.capAt op 512 (512 - (s.prunedRows 2 (clOf core) (core % 16) op).length)
/-- Usable lines of an LLC slice of a die. -/
def State.llcl (s : State) (die slice op : Nat) : Nat :=
  s.capAt op 32768 (32768 - (s.prunedRows 3 die slice op).length)

/-- The guaranteed minimums of R315: scratchpad rows, FROWS, FGRAN, L1L, LLC lines. -/
def opMin (op : Nat) : Nat × Nat × Nat × Nat × Nat :=
  match op with
  | 0 => (65536, 1024, 256, 512, 32768)
  | 1 => (65216, 1019, 251, 510, 32605)
  | 2 => (64256, 1004, 236, 502, 32113)
  | 3 => (62272, 973, 205, 487, 31130)
  | _ => (59008, 922, 154, 461, 29492)

/-- An operating point is offered (R317): only units named in the prune map can fall below full capacity. -/
def State.offered (s : State) (op : Nat) : Bool :=
  if !s.hasPrune then decide (op ≤ 1)
  else
    let (a, b, c, d, e) := opMin op
    s.prune.all fun r =>
      match r.kind with
      | 0 => decide (a ≤ s.srows r.cl op)
      | 1 => decide (b ≤ s.frows (16 * r.cl + r.core) op) && decide (c ≤ s.fgran (16 * r.cl + r.core) op)
      | 2 => decide (d ≤ s.l1l (16 * r.cl + r.core) op)
      | _ => decide (e ≤ s.llcl r.cl r.core op)

/-! Free granules. -/

/-- A granule is usable at a point (R298). -/
def State.granUsable (s : State) (core g op : Nat) : Bool :=
  (List.range 4).all fun i => !s.pruned 1 (clOf core) (core % 16) (4 * g + i) op

/-- A granule that no resident frame holds, and that no frame is about to move to. -/
def Core.granFree (k : Core) (g : Nat) : Bool :=
  !(k.ftab.any fun (_, e) => e.v && ((e.res && decide (e.gran ≤ g) && decide (g ≤ e.gran + e.len))
    || (match e.dest with
      | some (.granules d) => decide (d ≤ g) && decide (g ≤ d + e.len)
      | _ => false)))

/-- A granule in the free list (R298, R320). -/
def State.freeGran (s : State) (core g : Nat) : Bool := (s.core core).granFree g && s.granUsable core g s.announced

/-- FREEG (R298). -/
def State.freeGranules (s : State) (core : Nat) : Nat := ((List.range 256).filter (s.freeGran core)).length

/-! Groups of a scratchpad (R300). -/

/-- `n` groups from `u` belong to nobody. -/
def Cluster.groupsFree (k : Cluster) (u n : Nat) : Bool := k.runs.all fun r => decide (u + n ≤ r.first) || decide (r.first + r.n ≤ u)

/-- The lowest run of `n` free groups below UG. -/
def Cluster.freeRun (k : Cluster) (n : Nat) : Option Nat :=
  if n = 0 then some 0 else (List.range (k.ug + 1 - n)).find? fun u => k.groupsFree u n

/-- An owner receives a run of groups, if there is one. -/
def Cluster.giveRun (k : Cluster) (owner : Option Nat) (n : Nat) : Cluster :=
  match k.freeRun n with
  | some u => if n = 0 then k else { k with runs := snoc k.runs { owner := owner, first := u, n := n } }
  | none => k

/-! Format windows (R311, R312). -/

/-- A range lies wholly on the stacks of a die (R307). -/
def onDie (d base len : Nat) : Bool := decide (2 * d * 2 ^ 36 ≤ base) && decide (base + len ≤ (2 * d + 2) * 2 ^ 36)

/-- The descriptor of a window register, if it passes its check (R312). -/
def State.winDesc (s : State) (die : Nat) (v : Word) : Option WinDesc :=
  let sf := wbits v 62 58
  let dpa := wbits v 51 0
  match dfmtOf (wbits v 57 55) with
  | none => none
  | some (df, dsz) =>
    let w (i : Nat) : Nat := s.homeN (dpa + 8 * i) 8
    let n := fmtBits sf
    let els := w 1 / dsz
    if v.getLsbD 63 && wbits v 54 52 == 0 && dpa % 64 == 0 && decide (dpa + 64 ≤ 2 ^ 40)
        && sf != 0x13 && decide (n ≤ 8 * dsz) && (!fmtNarrow sf || s.caps.testBit 1)
        && (!fmtSprig df || (fmtSprig sf && sprigCutB sf == sprigCutB df))
        && w 0 % 4096 == 0 && bits (w 0) 63 45 == 2 ^ 3 + die && w 1 != 0 && w 1 % 4096 == 0
        && decide (w 0 % 2 ^ 45 + w 1 ≤ 2 ^ 45)
        && w 2 % 64 == 0 && onDie die (w 2) ((els * n + 7) / 8)
        && (w 3 == 0 || onDie die (w 3) ((els + 63) / 64))
        && (List.range 4).all (fun i => w (4 + i) == 0)
    then some { dbase := w 0, dsize := w 1, sbase := w 2, scale := w 3 } else none

/-- A write to a format-window register (R311): the check fails with V = 0. -/
def State.setFmtwin (s : State) (die i : Nat) (v : Word) : State :=
  let d := s.winDesc die v
  let reg := if d.isSome then v else setBits v 63 63 0
  s.modDie die fun k => { k with fmtwin := SMap.put {} k.fmtwin i { reg := reg, desc := d } }

end Sys2Proof.Machine
end

