-- ==== Sys2Proof/Machine/Control.lean ====
section
/-! DEFINITION. Branches, calls, hardware loops and the ends of an activation (R111–R120). -/
namespace Sys2Proof.Machine

open Sys2Proof

/-- A taken BR, JMP or RET closes every level of the present link depth whose range its target leaves, and the levels inside
it (R115); the offset alone decides (log entry 20). -/
def closeLevels (lsd target : Nat) : List LoopLevel → List LoopLevel
  | [] => []
  | l :: t =>
    let out (x : LoopLevel) : Bool := x.lsd == lsd && !(decide (x.start ≤ target) && decide (target ≤ x.stop))
    if t.any out then closeLevels lsd target t else if out l then t else l :: t

/-- The context branches to an offset of a plate (R111, R115). -/
def Ctx.branch (k : Ctx) (plate target : Nat) : Ctx :=
  ({ k with plate := plate, loops := closeLevels k.links.length target k.loops }).goTo target

/-- The target of BR and CALL (R49, R111): the instruction's offset plus four times IMM28. -/
def relTarget (o : Ops) (k : Ctx) : Int :=
  match o.form with
  | .imm i => (k.off : Int) + 4 * i.toInt
  | _ => k.off

/-- A target outside the plate traps with the signed target (R52). -/
def outOfPlate (t : Int) : Bool := decide (t < 0) || decide (8191 < t)

/-- A signed number as 64 bits. -/
def tvalOf (t : Int) : Nat := ofSigned 64 t

def execBr (o : Ops) (s : State) : Host.Outcome State Fault Refusal :=
  run o s fun s =>
    let t := relTarget o s.cx
    if outOfPlate t then .trap 0x04 (tvalOf t) else .done (s.setCx (s.cx.branch s.cx.plate t.toNat))

/-- JMP's check of gA (R111). -/
def badJump (a : Word) : Bool := wbits a 63 15 != 0 || wbits a 1 0 != 0

def execJmp (o : Ops) (s : State) : Host.Outcome State Fault Refusal :=
  run o s fun s =>
    let a := srcA o s
    if badJump a then .trap 0x04 a.toNat
    else .done (s.setCx (s.cx.branch (wbits a 14 13) (wbits a 12 0)))

/-- The return address pushed by CALL and JMP.call (R112): the plate and the offset behind the instruction. Behind the plate's last
instruction that offset is 8192, which R14's entry has no room for: it is kept and RET traps on it (DESIGN CHOICE, log entry 31). -/
def Ctx.push (k : Ctx) : Ctx := { k with links := (k.plate, k.off + 8) :: k.links }

def execJmpCall (o : Ops) (s : State) : Host.Outcome State Fault Refusal :=
  run o s fun s =>
    let a := srcA o s
    if badJump a then .trap 0x04 a.toNat
    else if 8 ≤ s.cx.links.length then .trap 0x01 (opWord 0x21 o)
    else .done (s.setCx ({ s.cx.push with plate := wbits a 14 13 }.goTo (wbits a 12 0)))

/-- CALL (R112): a bad target traps before a full link stack does (DESIGN CHOICE, log entry 32; so for JMP.call). -/
def execCall (o : Ops) (s : State) : Host.Outcome State Fault Refusal :=
  run o s fun s =>
    let t := relTarget o s.cx
    if outOfPlate t then .trap 0x04 (tvalOf t)
    else if 8 ≤ s.cx.links.length then .trap 0x01 (opWord 0x22 o)
    else .done (s.setCx (s.cx.push.goTo t.toNat))

/-- RET (R112, R115): the levels opened at a greater depth close. -/
def execRet (o : Ops) (s : State) : Host.Outcome State Fault Refusal :=
  run o s fun s =>
    match s.cx.links with
    | [] => .trap 0x01 (opWord 0x23 o)
    | (p, t) :: ls =>
      let k := s.cx
      .done (s.setCx ({ k with links := ls, loops := k.loops.filter fun l => decide (l.lsd ≤ ls.length) }.branch p t))

/-- LoopOpen (R114). -/
def loopOpen (o : Ops) (op endoff n : Nat) (s : State) : Res :=
  let k := s.cx
  let len := o.form.bytes
  let stop := k.off + 4 * endoff
  if stop ≤ k.off + len || 8192 < stop then .trap 0x04 stop
  else if n = 0 then .done (s.setCx (k.goTo stop))
  else
    let deep := match k.loops with
      | [] => false
      | [l] => decide (l.stop < stop)
      | _ => true
    if deep then .trap 0x01 (opWord op o)
    else .ok (s.setCx { k with loops := { start := k.off + len, stop := stop, count := n, lsd := k.links.length } :: k.loops })

def execLoop (o : Ops) (s : State) : Host.Outcome State Fault Refusal :=
  run o s (loopOpen o 0x24 (o.form.ext % 2 ^ 11) (o.form.ext / 2 ^ 11))
def execLoopX (o : Ops) (s : State) : Host.Outcome State Fault Refusal :=
  run o s (loopOpen o 0x24 (o.modBits 51 41) o.form.ext)

/-- The count that a 64-bit value stands for (R113). -/
def loopCount (v : Word) : Nat := if v.toInt < 0 then 0 else min v.toNat (2 ^ 32 - 1)

def execLoopr (o : Ops) (s : State) : Host.Outcome State Fault Refusal :=
  run o s fun s => loopOpen o 0x25 (o.modBits 51 41) (loopCount (srcA o s)) s

/-- The youngest buffered MTS to a register (R17). -/
def bufferedMts (out : List OutEnt) (num : Nat) : Option Word :=
  out.reverse.findSome? fun e =>
    match e.act with
    | .mts n v => if n = num then some v else none
    | _ => none

/-- MAILBOX N as the executing context reads it (R17, R116). -/
def State.mailboxN (s : State) (n : Nat) : Word :=
  match bufferedMts s.cx.out (0x110 + n) with
  | some v => v
  | none => (s.core s.cur.core).mailboxSeen n

def execLoopm (o : Ops) (s : State) : Host.Outcome State Fault Refusal :=
  run o s fun s => loopOpen o 0x26 (o.modBits 51 41) (loopCount (s.mailboxN (o.modBits 54 52))) s

def execNop (o : Ops) (s : State) : Host.Outcome State Fault Refusal := run o s (State.pure id)

/-- The filler (R51): fetch goes on at the next block. -/
def execFiller (s : State) : Host.Outcome State Fault Refusal := .next (s.advance 4)

/-- The end of a hart's microcode (R261): success, or failure with a cause. -/
def State.hartEnd (s : State) (cl h cause : Nat) : State :=
  s.modCluster cl fun k => k.setHart h { k.hart h with finished := true, err := cause, tval := 0 }

/-- The record that a handler's end raises for the trapped activation (R118, R273). -/
def State.handlerRecord (s : State) (core gen : Nat) (t : Option Trapped) : State :=
  match t with
  | some t => s.trapRecord core gen t
  | none => s

/-- EXIT (R118): Commit; in a handler the trapped activation's record is raised. -/
def State.exitNow (s : State) : State :=
  match s.cur with
  | .ctx c x => (s.commit c x none).handlerRecord c s.cx.gen s.cx.trap
  | .hart cl h => s.hartEnd cl h 0

def execExit (o : Ops) (s : State) : Host.Outcome State Fault Refusal := run o s fun s => .done s.exitNow

/-- The activation EXITS queues (R119): the same one with its error flag cleared. -/
def Act.again (a : Act) : Act := { a with err := false, ecls := 0, redel := 0, vmis := 0 }

/-- EXITS (R119); in a handler it acts as EXIT (R273). -/
def State.exitsNow (s : State) : State :=
  match s.cur, s.cx.trap with
  | .ctx c x, none => s.commit c x (some s.cx.act.again)
  | .hart cl h, _ => s.hartEnd cl h 0x1A
  | _, some _ => s.exitNow

def execExits (o : Ops) (s : State) : Host.Outcome State Fault Refusal := run o s fun s => .done s.exitsNow

/-- ABORT and ABORT.retry (R120); a handler's ABORT raises the trapped activation's record (R273). -/
def State.abortNow (s : State) (retry : Bool) : State :=
  match s.cur with
  | .ctx c x =>
    match s.cx.trap with
    | none => s.abort c x retry
    | some t => (s.abort c x false).trapRecord c s.cx.gen t
  | .hart cl h => s.hartEnd cl h 0x1A

def execAbort (o : Ops) (s : State) : Host.Outcome State Fault Refusal := run o s fun s => .done (s.abortNow false)
def execAbortRetry (o : Ops) (s : State) : Host.Outcome State Fault Refusal := run o s fun s => .done (s.abortNow true)

end Sys2Proof.Machine
end

