-- ==== Sys2Proof/Machine/System.lean ====
section
/-! DEFINITION. The special registers (R32–R37) and the system instructions (R271–R281). -/
namespace Sys2Proof.Machine

open Sys2Proof

/-! Reads of special registers (R34). -/

/-- STATUS (R35). -/
def Ctx.status (k : Ctx) (x : Nat) : Word :=
  let a := k.act
  let chan := a.fid.isNone
  let b (c : Bool) (i : Nat) : Nat := if c then 2 ^ i else 0
  BitVec.ofNat 64 ((if chan then 0 else a.ecls * 2 ^ 16) + b a.cancel 15 + b a.err 14 + b k.priv 13 + b k.trap.isSome 12
    + x * 2 ^ 10 + k.loops.length * 2 ^ 8 + k.links.length * 2 ^ 4 + b chan 3)

/-- FRAME (R30, R34). -/
def State.frameReg (s : State) : Word :=
  match s.cx.act.fid with
  | none => 0x10000
  | some f => BitVec.ofNat 64 (f + ((s.core s.cur.core).fent f).len * 2 ^ 12)

/-- The code of a plate state (R31). -/
def PlateState.code : PlateState → Nat
  | .invalid => 0
  | .active => 1
  | .prefetching => 2
  | .prefetched => 3
  | .draining => 4

/-- Per-context registers. -/
def State.ctxReg (s : State) (num : Nat) : Option Word :=
  let k := s.cx
  let n (v : Nat) : Option Word := some (BitVec.ofNat 64 v)
  match num with
  | 0x000 => some (k.status s.cur.x)
  | 0x001 => some k.cause
  | 0x002 => some k.tval
  | 0x003 => some k.epc
  | 0x004 => some s.frameReg
  | 0x005 => n k.act.ix
  | 0x006 => n k.act.tag
  | 0x007 => n k.gen
  | 0x008 => n k.act.inbox.length
  | 0x009 => n k.out.length
  | 0x00A => n k.fw.length
  | 0x00B => some k.geom
  | 0x00C => some k.fpctl
  | _ => none

/-- CAPCORE (R318). The number of format windows stands in no register that the spec lays out (R13; log entry 111). -/
def State.capcore (s : State) (core op : Nat) : Nat :=
  s.frows core op * 2 ^ 32 + s.fgran core op * 2 ^ 16 + s.l1l core op

/-- Per-core registers. -/
def State.coreReg (s : State) (core num : Nat) : Option Word :=
  let k := s.core core
  let n (v : Nat) : Option Word := some (BitVec.ofNat 64 v)
  match num with
  | 0x100 => n s.time
  | 0x101 => n core
  | 0x102 => some k.starvw
  | 0x103 => some k.wdog
  | 0x104 => n (s.freeGranules core)
  | 0x105 => n ((List.range 4).foldl (fun a i => a + (k.plate i).st.code * 16 ^ i) 0)
  | 0x106 => n (if k.l1mode then 1 else 0)
  | _ =>
    if 0x110 ≤ num ∧ num ≤ 0x117 then some (k.mailboxSeen (num - 0x110))
    else if 0x120 ≤ num ∧ num ≤ 0x124 then n (s.capcore core (num - 0x120))
    else if 0x140 ≤ num ∧ num ≤ 0x17F then some (SMap.get 0 k.tasks (num - 0x140))
    else none

/-- STALE (R365). -/
def Cluster.stale (g : Cluster) : Nat :=
  let count (n : Nat) : Nat := min n (2 ^ 32 - 1)
  count g.vdrop * 2 ^ 32 + count g.gdrop

/-- Per-cluster registers that need no privilege. -/
def State.clReg (s : State) (cl num : Nat) : Option Word :=
  let g := s.cluster cl
  let n (v : Nat) : Option Word := some (BitVec.ofNat 64 v)
  match num with
  | 0x400 => n cl
  | 0x401 => n (32 + 64 * 2 ^ 8 + 16 * 2 ^ 16 + 64 * 2 ^ 24)
  | 0x402 => n (s.views.view % 2 ^ 16)
  | 0x404 => n (1024 - g.readers.length)
  | 0x405 => n g.galley.length
  | 0x406 => n g.evq.length
  | 0x408 => n g.stale
  | _ =>
    if 0x410 ≤ num ∧ num ≤ 0x41F then some (SMap.get 0 g.region (num - 0x410))
    else if 0x420 ≤ num ∧ num ≤ 0x424 then n (s.srows cl (num - 0x420))
    else if 0x430 ≤ num ∧ num ≤ 0x43F then some (SMap.get 0 g.win (num - 0x430))
    else none

/-- The reset weights of the classes (R367). -/
def qwtReset (c : Nat) : Word :=
  match c with
  | 2 | 3 | 5 => 4
  | 4 => 8
  | 6 => 2
  | _ => 1

/-- SEENT (R400). -/
def Cluster.seent (g : Cluster) : Word :=
  let i := g.seidx.toNat
  let lane := decide (256 ≤ i) && decide (i < 256 + 560)
  if !(decide (i < 132) || lane) then 0
  else
    let e := SMap.get ({} : Suspect) g.suspects i
    let spare := if i < 132 then decide (128 ≤ i) else decide (32 ≤ (i - 256) % 35)
    BitVec.ofNat 64 ((if e.quar then 2 ^ 63 + e.map * 2 ^ 48 else 0) + (if spare then 2 ^ 62 else 0)
      + e.mism * 2 ^ 16 + e.unres * 2 ^ 8 + e.score)

/-- OPOFFER (R317). -/
def State.opoffer (s : State) : Nat := (List.range 5).foldl (fun a k => if s.offered k then a + 2 ^ k else a) 0

/-- Privileged registers. -/
def State.privReg (s : State) (core num : Nat) : Option Word :=
  let cl := clOf core
  let k := s.core core
  let g := s.cluster cl
  let d := s.die (dieOf cl)
  let n (v : Nat) : Option Word := some (BitVec.ofNat 64 v)
  match num with
  | 0x800 => some k.tvec
  | 0x801 => some k.spillBase
  | 0x802 => some k.ftidx
  | 0x803 => some (k.fent k.ftidx.toNat).word
  | 0x810 => some g.hashkey
  | 0x840 => some g.ptroot
  | 0x890 => n s.opnow
  | 0x891 => n s.opoffer
  | 0x950 => some d.wmon
  | 0x960 => some g.seidx
  | 0x961 => some g.seent
  | 0x962 => some g.sethr
  | _ =>
    if 0x820 ≤ num ∧ num ≤ 0x827 then
      some ((SMap.get none g.qwt (num - 0x820)).getD (qwtReset (num - 0x820)))
    else if 0x830 ≤ num ∧ num ≤ 0x837 then some (SMap.get 0 g.tbk (num - 0x830))
    else if 0x880 ≤ num ∧ num ≤ 0x88F then some (SMap.get ({} : FmtWin) d.fmtwin (num - 0x880)).reg
    else if 0x900 ≤ num ∧ num ≤ 0x93F then some (SMap.get 0 g.esp (num - 0x900))
    else if 0x940 ≤ num ∧ num ≤ 0x94F then some (SMap.get 0 d.wunit (num - 0x940))
    else none

/-- The committed value of a register as a core reads it; `none` for an unassigned number (R32). -/
def State.reg (s : State) (core num : Nat) : Option Word :=
  if num < 0x100 then s.ctxReg num
  else if num < 0x400 then s.coreReg core num
  else if num < 0x800 then s.clReg (clOf core) num
  else s.privReg core num

/-- A register as the executing context reads it, its buffered MTS included (R17). A hart has no core of its own: what its
per-core numbers other than TIME hold the manual does not say. -/
def State.mfs (s : State) (num : Nat) : Option (Word × State) :=
  match s.reg s.cur.core num with
  | none => none
  | some old =>
    if s.cur.isHart && decide (0x101 ≤ num) && decide (num < 0x400) then some (s.freeWord, s.fresh)
    else
      match bufferedMts s.cx.out num with
      | some v => some (regAfter num old v, s)
      | none => some (old, s)

/-! Writes of special registers (R33). -/

/-- The refill of a class's bucket falls due a window later (R368). -/
def State.armBucket (s : State) (cl c : Nat) : State :=
  let v := SMap.get 0 (s.cluster cl).tbk c
  if wbits v 31 16 = 0 || s.timed.any fun (_, i) => i == .tokenBucketRefill cl c then s
  else s.after (s.cyc (wbits v 15 0)) (.tokenBucketRefill cl c)

/-- A register written by core `core`, or through the management path (R33, R311). -/
def State.setReg (s : State) (core num : Nat) (v : Word) : State :=
  let cl := clOf core
  match s.reg core num with
  | none => s
  | some old =>
    let w := regAfter num old v
    match num with
    | 0x102 => s.modCore core fun k => { k with starvw := w }
    | 0x800 => s.modCore core fun k => { k with tvec := w }
    | 0x801 => s.modCore core fun k => { k with spillBase := w }
    | 0x802 => s.modCore core fun k => { k with ftidx := w }
    | 0x840 => s.modCluster cl fun g => { g with ptroot := w }
    | 0x950 => s.modDie (dieOf cl) fun d => { d with wmon := w }
    | 0x960 => s.modCluster cl fun g => { g with seidx := w }
    | 0x962 => s.modCluster cl fun g => { g with sethr := w }
    | _ =>
      if 0x110 ≤ num ∧ num ≤ 0x117 then s.modCore core fun k => { k with mailbox := SMap.put 0 k.mailbox (num - 0x110) w }
      else if 0x820 ≤ num ∧ num ≤ 0x827 then
        s.modCluster cl fun g => { g with qwt := SMap.put none g.qwt (num - 0x820) (some w) }
      else if 0x830 ≤ num ∧ num ≤ 0x837 then
        (s.modCluster cl fun g => { g with tbk := SMap.put 0 g.tbk (num - 0x830) w }).armBucket cl (num - 0x830)
      else if 0x880 ≤ num ∧ num ≤ 0x88F then s.setFmtwin (dieOf cl) (num - 0x880) w
      else s

/-! MFS and MTS (R274). -/

/-- The checks of R32: privilege, then assignment. -/
def withReg (o : Ops) (op : Nat) (s : State) (f : Nat → Res) : Res :=
  let num := o.extBits 11 0
  if 0x800 ≤ num ∧ s.cx.priv = false then .trap 0x05 num
  else if (s.reg s.cur.core num).isNone then .trap 0x01 (opWord op o)
  else f num

/-- MFS (R274). -/
def execMfs (o : Ops) (s : State) : Host.Outcome State Fault Refusal :=
  run o s fun s => withReg o 0xF2 s fun num =>
    match s.mfs num with
    | some (v, t) => .ok (t.wg o.d.toNat v)
    | none => .trap 0x01 (opWord 0xF2 o)

/-- MTS (R33, R274). -/
def execMts (o : Ops) (s : State) : Host.Outcome State Fault Refusal :=
  run o s fun s => withReg o 0xF3 s fun num =>
    let v := s.rg o.a.toNat
    if num = 0x00B then .ok (s.setCx { s.cx with geom := regAfter num s.cx.geom v })
    else if num = 0x00C then .ok (s.setCx { s.cx with fpctl := regAfter num s.cx.fpctl v })
    else if num < 0x100 then .ok s
    else s.takeOut [{ act := .mts num v }]

/-! Traps and handlers (R272, R273). -/

/-- The causes of the trap table that TRAP may name (R272). -/
def trapCode (c : Nat) : Bool := (decide (1 ≤ c) && decide (c ≤ 5)) || (decide (8 ≤ c) && decide (c ≤ 0x1B))

/-- TRAP (R272). -/
def execTrap (o : Ops) (s : State) : Host.Outcome State Fault Refusal :=
  run o s fun s =>
    let c := o.extBits 7 0
    if trapCode c then .trap c (s.rg o.a.toNat).toNat else .trap 0x01 (opWord 0xF0 o)

/-- BKPT (R272). -/
def execBkpt (o : Ops) (s : State) : Host.Outcome State Fault Refusal :=
  run o s fun _ => .trap 0x17 (o.extBits 15 0)

/-- The return from an exception (R273): Commit of the handler; the trapped activation is queued again, or, dropped, its
record is raised. -/
def State.returnNow (s : State) (drop : Bool) : Option State :=
  match s.cur, s.cx.trap with
  | .ctx c x, some t =>
    some (if drop then (s.commit c x none).trapRecord c s.cx.gen t else s.commit c x (some t.act))
  | _, _ => none

/-- TRET (R273). -/
def execTret (o : Ops) (s : State) : Host.Outcome State Fault Refusal :=
  run o s fun s =>
    match s.returnNow false with
    | some t => .done t
    | none => .trap 0x01 (opWord 0xF1 o)
/-- TRET.drop (R273). -/
def execTretDrop (o : Ops) (s : State) : Host.Outcome State Fault Refusal :=
  run o s fun s =>
    match s.returnNow true with
    | some t => .done t
    | none => .trap 0x01 (opWord 0xF1 o)

/-! Memory management (R275, R276). -/

/-- A system entry with the completion of R206. -/
def sysOut (o : Ops) (s : State) (f : Option Cmpl → OAct) : Res :=
  s.cmplOf o fun c => s.takeOut [{ act := f c, pins := c.map (·.fid) }]

/-- The instruction's privilege (R57, R270, R276–R278): trap 0x05 with STATUS.PRIV = 0. -/
def withPriv (o : Ops) (op : Nat) (s : State) (f : Res) : Res := if s.cx.priv then f else .trap 0x05 (opWord op o)

/-- FLUSH (R275). -/
def flushIssue (o : Ops) (s : State) (inv : Bool) : Res :=
  let a := (s.rg o.a.toNat).toNat
  let n := (s.rg o.b.toNat).toNat
  let go (t : State) : Res := sysOut o t fun c => .flush inv a n s.cx.priv c
  if a % 64 ≠ 0 || n % 64 ≠ 0 then .trap 0x03 a
  else
    match spaceOf s.cur.cl a with
    | .virt va =>
      if 2 ^ 40 < n then .trap 0x09 n
      else if n = 0 then go s
      else
        match s.xlateCx .read va with
        | .miss => s.missNow [] [va / 2 ^ 16] a
        | .fault c => .trap c a
        | .at_ _ => go s
    | _ => .trap 0x09 a

def execFlushWb (o : Ops) (s : State) : Host.Outcome State Fault Refusal := run o s fun s => flushIssue o s false
def execFlushInv (o : Ops) (s : State) : Host.Outcome State Fault Refusal := run o s fun s => flushIssue o s true

/-- TLBINV.page (R276). -/
def execTlbinvPage (o : Ops) (s : State) : Host.Outcome State Fault Refusal :=
  run o s fun s => withPriv o 0xF5 s (sysOut o s fun c => .tlbinv (some (s.rg o.a.toNat).toNat) c)
/-- TLBINV.all (R276). -/
def execTlbinvAll (o : Ops) (s : State) : Host.Outcome State Fault Refusal :=
  run o s fun s => withPriv o 0xF5 s (sysOut o s fun c => .tlbinv none c)

/-! ROUND, PROBE, WATCH, ECALL (R277–R279). -/

/-- ROUND (R277). -/
def execRound (o : Ops) (s : State) : Host.Outcome State Fault Refusal :=
  run o s fun s =>
    let a := s.rg o.a.toNat
    if wbits a 63 2 ≠ 0 then .trap 0x09 a.toNat else sysOut o s fun c => .round (wbits a 1 0) c

/-- PROBE (R277): word W of the own frame is written with or without a completion signal. -/
def execProbe (o : Ops) (s : State) : Host.Outcome State Fault Refusal :=
  run o s fun s => withPriv o 0xF7 s
    (let a := s.rg o.a.toNat
     if wbits a 63 12 ≠ 0 then .trap 0x09 a.toNat
     else s.ownFrame fun fid => sysOut o s fun c => .probe a.toNat fid (o.modBits 63 55) c)

/-- A watched range (R278): a power of two from 8 to 2^20 bytes at a multiple of its length. -/
def watchRange (a n : Nat) : Bool := (List.range 18).any fun i => n == 2 ^ (i + 3) && a % n == 0

/-- WATCH (R278). -/
def execWatch (o : Ops) (s : State) : Host.Outcome State Fault Refusal :=
  run o s fun s =>
    let a := (s.rg o.a.toNat).toNat
    let n := (s.rg o.b.toNat).toNat
    if watchRange a n then s.takeOut [{ act := .watch (o.modBits 44 41) (o.fnBits 1 0) a n }] else .trap 0x09 a

/-- WATCH.unit (R278, R408): the range lies in one page of the home die's slices. -/
def execWatchUnit (o : Ops) (s : State) : Host.Outcome State Fault Refusal :=
  run o s fun s => withPriv o 0xF8 s
    (let a := (s.rg o.a.toNat).toNat
     let n := (s.rg o.b.toNat).toNat
     if !watchRange a n || o.fnBits 0 0 = 1 then .trap 0x09 a
     else
       match spaceOf s.cur.cl a with
       | .virt va =>
         (match s.xlateCx .read va with
           | .miss => s.missNow [] [va / 2 ^ 16] a
           | .fault c => .trap c a
           | .at_ (.mem pa) =>
             (match s.tlbAt va with
               | some t =>
                 if t.va + t.size < va + n then .trap 0x09 a
                 else s.takeOut [{ act := .watchUnit (o.modBits 44 41) pa (if o.fnBits 1 0 = 0 then 0 else n) (homeDie pa) }]
               | none => .trap 0x09 a)
           | .at_ _ => .trap 0x09 a)
       | .spad _ _ => .trap 0x09 a
       | .none => .trap 0x08 a)

/-- ECALL (R279). Operand checks come before the trap on a shut channel here and in every instruction that has both (R30; DESIGN CHOICE,
log entry 23). -/
def execEcall (o : Ops) (s : State) : Host.Outcome State Fault Refusal :=
  run o s fun s =>
    let a := s.rg o.a.toNat
    if wbits a 63 16 ≠ 0 then .trap 0x09 a.toNat
    else s.ownFrame fun fid =>
      s.takeOut [{ act := .ecall [a, s.rg o.b.toNat, frameRef s.cur.core fid, BitVec.ofNat 64 (o.modBits 63 41)] }]

/-! GSTOP and OPSTEP (R57, R280, R281). -/

/-- An instruction whose opcode is privileged: the check of step 10 of R60 comes before the guard. -/
def runPriv (o : Ops) (op : Nat) (s : State) (body : State → Res) : Host.Outcome State Fault Refusal :=
  if s.cx.priv then run o s body else .next (s.trapNow 0x05 (opWord op o))

/-- GSTOP (R280). -/
def gstopIssue (o : Ops) (go : Bool) (s : State) : Res :=
  let a := s.rg o.a.toNat
  let first := wbits a 8 0
  let last := wbits a 17 9
  if wbits a 63 18 ≠ 0 || last < first || (first ≤ s.cur.cl && s.cur.cl ≤ last) then .trap 0x09 a.toNat
  else sysOut o s fun c => .gstop go first last (s.rg o.b.toNat).toNat c

def execGstop (o : Ops) (s : State) : Host.Outcome State Fault Refusal := runPriv o 0xFB s (gstopIssue o false)
def execGstopGo (o : Ops) (s : State) : Host.Outcome State Fault Refusal := runPriv o 0xFB s (gstopIssue o true)

/-- OPSTEP (R281). -/
def execOpstep (o : Ops) (s : State) : Host.Outcome State Fault Refusal :=
  runPriv o 0xFC s fun s =>
    let k := o.modBits 57 55
    if 4 < k then .trap 0x09 k else sysOut o s fun c => .opstep k c

end Sys2Proof.Machine
end

