-- ==== Sys2Proof/Machine/Sched.lean ====
section
/-! DEFINITION. What a core does by itself: the issue of committed entries through its network interface (R33, R129, R171,
R180, R256, R285, R368), dispatch (R347), the starvation lift (R348) and the watchdog (R115). -/
namespace Sys2Proof.Machine

open Sys2Proof

/-! Token buckets (R368). -/

/-- A packet leaves its core (R368). -/
def State.leave (s : State) (p : Pkt) : State := s.passPort p fun s => s.depart p

/-- Held messages of a class leave while its bucket lets them. -/
def State.drainBucket (s : State) (cl cls : Nat) : Nat → State
  | 0 => s
  | n + 1 =>
    let g := s.cluster cl
    match g.held.find? (·.cls == cls) with
    | none => s
    | some p =>
      if g.bucketLets cls p.flits then
        ((s.setCluster cl { g.bucketTake cls p.flits with held := g.held.erase p }).depart p).drainBucket cl cls n
      else s

/-- TOKEN_BUCKET_REFILL (R368). -/
def State.refill (s : State) (cl cls : Nat) : State :=
  let g := s.cluster cl
  let v := SMap.get 0 g.tbk cls
  let s := s.setCluster cl { g with bucket := SMap.put 0 g.bucket cls (min (SMap.get 0 g.bucket cls + wbits v 31 16) (wbits v 47 32)) }
  let s := s.drainBucket cl cls g.held.length
  if wbits v 31 16 = 0 then s else s.after (s.cyc (max 1 (wbits v 15 0))) (.tokenBucketRefill cl cls)

/-- A register write takes effect (R33); a bucket without a limit holds nothing back. -/
def State.writeReg (s : State) (core num : Nat) (v : Word) : State :=
  let s := s.setReg core num v
  if 0x830 ≤ num ∧ num ≤ 0x837 then s.drainBucket (clOf core) (num - 0x830) (s.cluster (clOf core)).held.length else s

def execTokenBucketRefill (cl cls : Nat) (s : State) : Host.Outcome State Fault Refusal := .next (s.refill cl cls)

/-! The network interface. -/

/-- The packets of an entry, stamped with its place, leave; those that are waited for are noted. -/
def State.inject (s : State) (core job idx : Nat) : List Pkt → State
  | [] => s
  | p :: t =>
    let p := { p with job := job, idx := idx }
    let s := s.leave p
    let s := match p.body.waits with
      | some w => s.modCore core fun k => { k with outst := snoc k.outst (job, idx, w) }
      | none => s
    s.inject core job idx t

/-- The packets of an entry. -/
def OAct.pkts : OAct → List Pkt
  | .send ps => ps
  | _ => []

/-- An entry that writes memory (R285). -/
def OAct.writes (a : OAct) : Bool := a.pkts.any fun p => p.body.waits == some true

/-- Every access of the job before place `n` that is waited for has been performed, and nothing before it is held. -/
def Core.allPerformed (k : Core) (job n : Nat) : Bool :=
  !(k.outst.any fun (j, i, _) => j == job && decide (i < n))
    && !(k.ni.any fun e => e.job == job && decide (e.idx < n) && !e.ent.signal)

/-- A matrix command of the job before place `n` has not completed (R171, R213). -/
def Core.matrixLeft (k : Core) (job n : Nat) : Bool :=
  (k.lane ++ k.regionQ).any fun c => c.job == job && decide (c.idx < n)

/-- An engine command, a FLUSH or a TLBINV of the job before place `n` has not completed (R171, R180, R256; DEDUCED, log entry 36). -/
def State.engineLeft (s : State) (core job n : Nat) : Bool :=
  let mine (org : Origin) (j i : Nat) : Bool := org.core == core && j == job && decide (i < n)
  let before (c : ECmd) : Bool := mine c.org c.job c.idx
  (s.core core).engLane.any before
    || ((s.cluster (clOf core)).harts.any fun (_, h) => h.q.any before || h.cmd.any before || h.waiting.any before)
    || (s.flushes.any fun o => mine o.org o.job o.idx) || s.tlbinvs.any fun o => mine o.org o.job o.idx

/-- Every memory write that a core committed before a kick, in this job or an earlier one, has been performed (R256). -/
def Core.storesDone (k : Core) (earlier : List NiEnt) (job : Nat) : Bool :=
  !(k.outst.any fun (j, _, w) => w && decide (j < job)) && !(earlier.any fun q => q.job != job && q.ent.act.writes)

/-- Every memory write of the job has been performed (R285). -/
def Core.writesDone (k : Core) (job : Nat) : Bool :=
  !(k.outst.any fun (j, _, w) => j == job && w)
    && !(k.ni.any fun e => e.job == job && e.ent.act.writes && !e.ent.signal)
    && !(k.ctxs.any fun (_, c) => c.phase == .committing && c.job == job
      && (c.out.drop c.issued).any fun e => e.act.writes && !e.signal)

/-- The group of a contribution. -/
def OAct.group : OAct → Option Nat
  | .ccon g _ _ => some g
  | .kick c => c.cred.map (·.1)
  | _ => none

/-- Whether the later entry keeps behind the earlier one (R129, R180, R213, R256, R262). -/
def OAct.keeps (a b : OAct) : Bool :=
  (a.group.isSome && a.group == b.group) ||
  match a, b with
  | .send ps, .send qs => ps.any fun p => qs.any (ordered p)
  | .kick c, .kick d => c.hart == d.hart
  | .matrix _, .matrix _ => true
  | .mts m _, .mts n _ => m == n
  | .win i _, .win j _ => i == j
  | .watch i _ _ _, .watch j _ _ _ => i == j
  | _, _ => false

/-- An engine kick. -/
def OAct.isKick : OAct → Bool
  | .kick _ => true
  | _ => false

/-- An entry that starts a message. -/
def OAct.isMsg : OAct → Bool
  | .send _ | .ccon _ _ _ | .cjoin _ _ _ | .round _ _ => true
  | _ => false

/-- The dispatches in the table and those on their way to it (R385). -/
def State.dispatches (s : State) : Nat :=
  s.dispatch.length + (s.clusters.map fun (_, g) => (g.held.filter (·.dispatched.isSome)).length).sum

/-- Whether a held entry may leave (R171, R180, R256, R285); the interfaces of a stopped partition start no message (R403); a dispatch waits while the table of 16,384 entries is full (R385). A memory write
does not keep behind an ISTW of its own buffer, which R285 holds for that write (DEDUCED, log entry 108). -/
def State.niReady (s : State) (core : Nat) (earlier : List NiEnt) (e : NiEnt) : Bool :=
  let k := s.core core
  let n := (e.ent.act.pkts.filter fun p => p.dispatched.isSome).length
  !(e.ent.act.isMsg && (s.cluster (clOf core)).stopped)
  && (n == 0 || decide (s.dispatches + n ≤ 16384))
  && !s.engineLeft core e.job e.before
  && (!e.ent.act.isKick || k.storesDone earlier e.job)
  && k.allPerformed e.job e.before && !k.matrixLeft e.job e.mark
  && (e.acqs.all fun i => !(k.outst.any fun (j, n, _) => j == e.job && n == i) && !(k.ni.any fun q => q.job == e.job && q.idx == i))
  && (!e.ent.signal || (k.writesDone e.job && !(earlier.any fun q => q.ent.signal && q.job == e.job)))
  && !(earlier.any fun q => q.ent.act.keeps e.ent.act && !(q.ent.signal && q.job == e.job && e.ent.act.writes && !e.ent.signal))

/-- The first held entry that may leave, and the rest. -/
def State.niPick (s : State) (core : Nat) : (earlier rest : List NiEnt) → Option (NiEnt × List NiEnt)
  | _, [] => none
  | earlier, e :: t => if s.niReady core earlier e then some (e, earlier ++ t) else s.niPick core (snoc earlier e) t

/-- A group's key for the sequence numbers of its MMAGs (R223). -/
def mseqKey (geom : Word) (gen : Nat) : Nat :=
  let g := geomOf geom
  gen + 2 ^ 12 * (g.grp + 2 ^ 8 * (g.org + 2 ^ 9 * (g.orr + 4 * (g.orc + 4 * (g.gr + 16 * (g.gc + 16 * (g.m + 512 * g.n)))))))

/-- A packet that writes the scratchpad of cluster `cl`. -/
def Pkt.writesSpad (p : Pkt) (cl : Nat) : Bool :=
  p.body.waits == some true && p.locs.any fun
    | .spad c _ => c == cl
    | _ => false

/-- The writes of a core to its own scratchpad that have issued and are not performed: commit and place (R216). -/
def State.pendingOwn (s : State) (core : Nat) : List (Nat × Nat) :=
  ((s.net.filter fun p => p.src == core && p.writesSpad (clOf core)).map fun p => (p.job, p.idx))
    ++ ((s.core core).ni.filter fun e => e.ent.act.pkts.any fun p => p.writesSpad (clOf core)).map fun e => (e.job, e.idx)

/-- A matrix command as it issues: its reads see the own stores issued before it, and, of what others write, what stands there now
(R216). -/
def State.stampCmd (s : State) (core : Nat) (e : OutEnt) : OutEnt :=
  match e.act with
  | .matrix c => { e with act := .matrix { c with behind := s.pendingOwn core, past := (s.cluster (clOf core)).past.length } }
  | _ => e

/-- A matrix command enters the core's lane (R213), an MMAG with its number (R223). -/
def State.toLane (s : State) (core : Nat) (c : MCmd) : State :=
  s.modCore core fun k =>
    if c.op = .mmag then
      let key := mseqKey c.geom c.org.gen
      let n := SMap.get 0 k.mseq key
      { k with lane := snoc k.lane { c with seq := n }, mseq := SMap.put 0 k.mseq key (n + 1) }
    else { k with lane := snoc k.lane c }

/-- An engine command enters the core's lane (R256), a CRED with its operation number (R262). -/
def State.toEngLane (s : State) (core : Nat) (c : ECmd) : State :=
  s.modCore core fun k =>
    match c.cred with
    | some (grp, _, q) =>
      let n := SMap.get 0 k.ccount grp
      { k with engLane := snoc k.engLane { c with cred := some (grp, n, q), arm := none }
               ccount := SMap.put 0 k.ccount grp (n + 1)
               evArms := match c.arm with
                 | some a => snoc k.evArms (n, a)
                 | none => k.evArms }
    | none => { k with engLane := snoc k.engLane c }

/-- The view tag of a group's packets, in a group that spans packages (R380). -/
def State.viewTag (s : State) (cl grp : Nat) : Option Nat := if espXpkg (s.espOf cl grp) then some s.views.view else none

/-- A CCON's contribution (R263) and its armed events. -/
def State.contribution? (s : State) (core : Nat) (org : Origin) (grp : Nat) (v : Word) : Pkt :=
  { org.pkt (16 * clOf core) org.tag 2 (.contrib grp (SMap.get 0 (s.core core).ccount grp) (core % 16) (some [v])) with
    src := core, vtag := s.viewTag (clOf core) grp }
def State.contribute (s : State) (core : Nat) (e : NiEnt) (grp : Nat) (v : Word) (arm : Option CevtArm) : State :=
  let n := SMap.get 0 (s.core core).ccount grp
  let p := s.contribution? core e.org grp v
  let s := s.modCore core fun k =>
    { k with ccount := SMap.put 0 k.ccount grp (n + 1)
             evArms := match arm with
               | some a => snoc k.evArms (n, a)
               | none => k.evArms }
  s.inject core e.job e.idx [p]

/-- A timer: one whose time has passed signals at once, and the seventeenth of a core fails with cause 0x12 (R151). -/
def State.armTimer (s : State) (core : Nat) (org : Origin) (at_ : Nat) (c : Cmpl) : State :=
  let k := s.core core
  if at_ ≤ s.time then s.signal org c 0 true
  else if k.timers.length < 16 then s.setCore core { k with timers := snoc k.timers { at_ := at_, cmpl := c, gen := org.gen } }
  else s.signal org c 0x12 true

/-- A view arm: the seventeenth of a core fails with cause 0x12 (R269; the number is that of R151's timers, log entry 40). -/
def State.armView (s : State) (core : Nat) (org : Origin) (c : Cmpl) : State :=
  let k := s.core core
  if k.cviewArms.length < 16 then s.setCore core { k with cviewArms := snoc k.cviewArms c } else s.signal org c 0x12 true

/-- FFREE at its frame (R138). -/
def State.ffree (s : State) (core : Nat) (org : Origin) (fid : Nat) (ref : Word) : State :=
  let e := (s.core core).fent fid
  if !e.v || e.freq then s.record org 0x09 ref.toNat
  else s.modCore core fun k => k.setFent fid { e with freq := true }

/-- The cores of an instance. -/
def Inst.cores (i : Inst) : List Nat := (List.range (16 * (i.last + 1 - i.first))).map (16 * i.first + ·)

/-- ROUND: the token enters the network towards every core of the instance (R277). -/
def State.sendRound (s : State) (core : Nat) (org : Origin) (plate : Nat) (c : Option Cmpl) : State :=
  match s.inst? org.gen with
  | none => s.complete org c 0 0 c.isSome
  | some i =>
    let s := { s with rounds := snoc s.rounds { gen := org.gen, plate := plate, left := i.cores, cmpl := c, org := org } }
    i.cores.foldl (fun t d => t.sendPkt { org.pkt d org.tag 2 (.round plate) with src := core }) s

/-- The packet that is tried again later (R147, R243). -/
def retriedPkt : Instr → Option Pkt
  | .isrdRetry p | .eventRetry p => some p
  | _ => none

/-- Packets of a generation still in the package (R277, R339, R340): in the network, at token buckets, galleys, cores and stations, those
that wait to be tried again, fault records held at sites, and the bytes on the way of streams. -/
def State.genCount (s : State) (gen : Nat) : Nat :=
  let n (l : List Pkt) : Nat := (l.filter (·.gen == gen)).length
  n s.net
    + (s.clusters.map fun (_, g) => n g.held + n g.galley + n g.pieces + (g.site.filter (·.r.gen == gen)).length).sum
    + (s.cores.map fun (_, k) => n k.inputQ + n k.niQ + n k.portPkts).sum
    + (s.stations.map fun (_, t) => n (t.rx.filter (·.dpkg.isNone)) + n t.pend).sum
    + n (s.timed.filterMap fun t => retriedPkt t.2)
    + (s.streams.filter fun t => t.gen == gen && !t.flight.isEmpty).length

/-- PROBE (R277): the count into word `w`, and the completion. -/
def State.probe (s : State) (core : Nat) (org : Origin) (gen fid w : Nat) (c : Option Cmpl) : State :=
  let v : Word := BitVec.ofNat 64 (s.genCount gen)
  match c with
  | some c => s.sendPkt (org.resp core c.tag (.complete fid [(w, v)] c.k 0))
  | none =>
    let e := (s.core core).fent fid
    if !e.v then s.record org 0x13 (frameRef core fid).toNat
    else if e.words ≤ w then s.record org 0x09 (frameRef core fid).toNat
    else if e.res then s.setSlotWord core fid w v
    else (s.changeWord core fid w fun _ => v).2

/-- The message that an ECALL of an instance with a service channel is (R279); its completion fields name the slot to which a refusal
goes (R372). -/
def State.resolve (s : State) (core : Nat) (org : Origin) (e : OutEnt) : OutEnt :=
  match e.act with
  | .ecall ws =>
    (match (s.inst? org.gen).bind (·.service) with
      | some (d, ch) =>
        let r := ws.getD 2 0
        let f := ws.getD 3 0
        let own : Option Cmpl := if f.getLsbD 13 then none
          else some ⟨core, wbits r 11 0, wbits f 8 0, if f.getLsbD 9 then wbits f 12 10 else org.tag⟩
        { e with act := .send [{ org.pkt d org.tag 2 (.chan ch (bytesOfWords ws)) with src := core, own := own }] }
      | none => e)
  | _ => e

/-- An entry takes effect, or enters the network (R33). An ECALL without a service channel is dropped (R279). -/
def State.niSend (s : State) (core : Nat) (e : NiEnt) : State :=
  match e.ent.act with
  | .send ps => s.inject core e.job e.idx ps
  | .mts num v => s.writeReg core num v
  | .win j v => s.modCluster (clOf core) fun g => { g with win := SMap.put 0 g.win j v }
  | .ffree fid ref => s.ffree core e.org fid ref
  | .timer t c => s.armTimer core e.org t c
  | .matrix c => s.toLane core { c with job := e.job, idx := e.idx }
  | .kick c => s.toEngLane core { c with job := e.job, idx := e.idx }
  | .ccon grp v arm => s.contribute core e grp v arm
  | .cviewArm c => s.armView core e.org c
  | .cjoin peer c w =>
    -- a join that names this package, a member, is refused (R384)
    if peer = ownPkg then s.sendPkt (e.org.resp c.core c.tag (.complete c.fid [(w, errorWord 0x16)] c.k 0x16))
    else { s with views := { s.views with grafts := snoc s.views.grafts (peer, c, w, e.org), tx := snoc s.views.tx (peer, .graft ownPkg (some peer)) } }
  | .watch i mode base len => s.modCore core fun k => { k with watches := SMap.put {} k.watches i { mode := mode, base := base, len := len } }
  | .watchUnit i pa len die =>
    let w : Word := if len = 0 then 0 else BitVec.ofNat 64 (2 ^ 63 + Nat.log2 len * 2 ^ 52 + pa)
    s.modDie die fun d => { d with wunit := SMap.put 0 d.wunit i w }
  | .flush inv va len priv c =>
    let o : FlushOp :=
      { inv := inv, va := va, len := len, cl := clOf core, gen := e.org.gen, priv := priv, cmpl := c, org := e.org, job := e.job, idx := e.idx }
    { s with flushes := snoc s.flushes o }
  | .tlbinv va c => { s with tlbinvs := snoc s.tlbinvs { va := va, cmpl := c, org := e.org, job := e.job, idx := e.idx } }
  | .round plate c => s.sendRound core e.org plate c
  | .probe gen fid w c => s.probe core e.org gen fid w c
  | .ecall ws => s.record e.org 0x09 ((ws.headD 0).toNat)
  | .gstop go first last t c =>
    { s with stops := snoc s.stops { go := go, first := first, last := last, at_ := t, cmpl := c, org := e.org } }
  | .opstep k c => { s with ops := snoc s.ops { k := k, cmpl := c, org := e.org } }

/-- Held entries leave while any may (R285). -/
def State.niRelease (s : State) (core : Nat) : Nat → State
  | 0 => s
  | n + 1 =>
    match s.niPick core [] (s.core core).ni with
    | none => s
    | some (e, rest) => ((s.modCore core fun k => { k with ni := rest }).niSend core e).niRelease core n

/-- Whatever may leave a core's network interface leaves. -/
def State.niRun (s : State) (core : Nat) : State := s.niRelease core (s.core core).ni.length

/-- The oldest input of an event is taken (log entry 2). -/
def State.popInput (s : State) (i : Instr) : Input × State :=
  match s.inputs.find? (·.1 == i) with
  | some x => (x.2, { s with inputs := removeOne x s.inputs })
  | none => (.none, s)

/-- An access of a core has been performed (R180): what waited for it may leave. -/
def State.performed (s : State) (p : Pkt) : State :=
  if p.body.waits.isNone || decide (noCore ≤ p.src) then s else (s.noted p).niRun p.src

/-! The issue of committed entries (R33). -/

/-- The lane of a matrix command or a kick has a place (R213, R256). -/
def Core.laneFree (k : Core) (a : OAct) : Bool :=
  match a with
  | .matrix _ => decide (k.lane.length + (k.ni.filter fun e => match e.ent.act with
      | .matrix _ => true
      | _ => false).length < 64)
  | .kick _ => decide (k.engLane.length + (k.ni.filter fun e => match e.ent.act with
      | .kick _ => true
      | _ => false).length < 32)
  | _ => true

/-- The next entry of a context in Commit can issue: behind its frame writes (R38), and with a place in its lane. -/
def Core.entryFree (k : Core) (x : Nat) : Bool :=
  !k.fwHeld x && match (k.ctx x).out[(k.ctx x).issued]? with
  | some e => k.laneFree e.act
  | none => true

/-- The context whose entry the core issues next: the earliest Commit whose entry waits for no lane (R33). -/
def Core.issuer (k : Core) : Option Nat := k.commits.find? k.entryFree

/-- The pins that an entry takes on its frame when it issues (R139, R267). -/
def OutEnt.pinCount (e : OutEnt) : List Nat :=
  let arms (f : Option Nat) (a : Option CevtArm) : List Nat :=
    match f, a with
    | some f, some a => ([a.src, a.loc, a.fin].filter (·.isSome)).map fun _ => f
    | _, _ => []
  match e.act with
  | .ccon _ _ a => arms ((a.bind fun a => a.src <|> a.loc <|> a.fin).map (·.fid)) a
  | .kick c => if c.cred.isSome then arms ((c.arm.bind fun a => a.src <|> a.loc <|> a.fin).map (·.fid)) c.arm else e.pins.toList
  | _ => e.pins.toList

/-- The held form of entry `i` of a context in Commit. -/
def Ctx.niEnt (c : Ctx) (core i : Nat) (e : OutEnt) : NiEnt :=
  let mark := (c.marks.filter (· ≤ i)).foldl max 0
  { job := c.job, idx := i, ent := e
    org := { core := core, node := c.act.node core, tag := c.act.tag, gen := c.gen }
    before := if e.rel || e.act.isKick then i else mark
    mark := mark
    acqs := (List.range i).filter fun j => (c.out[j]?.map (·.acq)).getD false }

/-- The next entry of a Commit passes to the network interface; with the last, the context is free (R33, R38). -/
def State.issueEntry (s : State) (core x : Nat) : State :=
  let c := (s.core core).ctx x
  match c.out[c.issued]? with
  | none => s.finishCommit core x
  | some e =>
    let n := c.niEnt core c.issued e
    let s := e.pinCount.foldl (fun t f => t.pin core f) s
    let s := s.modCore core fun k =>
      { k.setCtx x { c with issued := c.issued + 1 } with ni := snoc k.ni { n with ent := s.resolve core n.org (s.stampCmd core e) } }
    let s := s.niRun core
    if c.issued + 1 = c.out.length then s.finishCommit core x else s

/-- OUTBOUND_ENTRY_ISSUE (R33, R38): the context issues when its turn has come; held entries leave when they may. -/
def execOutboundEntryIssue (core ctx : Nat) (s : State) : Host.Outcome State Fault Refusal :=
  .next (if (s.core core).issuer = some ctx then s.issueEntry core ctx else s.niRun core)

/-! Dispatch (R347). -/

/-- The context an activation could start on now. -/
def Core.place (k : Core) (a : Act) : Option Nat :=
  let idle (x : Nat) : Bool := (k.ctx x).phase == .idle
  match a.aff with
  | some x => if idle x then some x else none
  | none => (List.range 4).find? idle

/-- The plate lets an activation be dispatched (R345), and its frame is resident and not being moved (R321, R347). -/
def Core.canStart (k : Core) (a : Act) : Bool :=
  let p := (k.plate a.plate).st
  (p == .active || p == .draining || p == .invalid) && (match a.fid with
    | some f => (k.fent f).res && !(k.fent f).held
    | none => true) && (k.place a).isSome

/-- The activation to dispatch: of those that can start, the oldest of the highest level. -/
def Core.nextAct (k : Core) : Option Act :=
  (k.ready.filter k.canStart).foldl (fun b a =>
    match b with
    | some c => if c.level < a.level then some a else b
    | none => some a) none

/-- The start of an activation on a context (R15, R347): an acquire. A handler that was aborted starts again (R393). -/
def State.start (s : State) (core x : Nat) (a : Act) : State :=
  let s := s.modCore core fun k => { k with ready := k.ready.erase a }
  let s := s.acquire core
  let s := match a.fid with
    | some f => s.pin core f
    | none => s
  let s := s.clearRp core a
  let gen := (s.cluster (clOf core)).gen
  -- a cancelled activation counts when it first runs (R338)
  let s := if a.cancel && !a.counted then s.modInst gen fun i => { i with canc := i.canc + 1 } else s
  let b := { a with hand := none, counted := a.cancel }
  let c := startCtx b (s.privOf gen) gen a.plate (8 * a.off8)
  let c := match a.hand with
    | some (cause, tval, epc) => handlerCtx c { act := b, cause := cause, tval := tval, epc := epc } (s.core core).tvec
    | none => c
  s.modCore core fun k => k.setCtx x c

/-- ACTIVATION_DISPATCH (R347). -/
def State.dispatchOne (s : State) (core : Nat) : State :=
  if (s.cluster (clOf core)).stopped then s
  else
    match (s.core core).nextAct with
    | none => s
    | some a =>
      match (s.core core).place a with
      | none => s
      | some x => s.start core x a

def execActivationDispatch (core : Nat) (s : State) : Host.Outcome State Fault Refusal := .next (s.dispatchOne core)

/-! The starvation lift and the watchdog. -/

/-- An entry has waited STARVW core cycles below level 255 (R348). -/
def State.starved (s : State) (core : Nat) (a : Act) : Bool :=
  let w := (s.core core).starvw.toNat
  w != 0 && decide (a.level < 255) && decide (a.since + s.cyc w ≤ s.time) && !(s.cluster (clOf core)).stopped

/-- STARVATION_LIFT (R348). -/
def State.lift (s : State) (core : Nat) : State :=
  s.modCore core fun k =>
    { k with ready := k.ready.filter (fun a => !s.starved core a)
        ++ (k.ready.filter (s.starved core)).map fun a => { a with level := a.level + 1, since := s.time } }

def execStarvationLift (core : Nat) (s : State) : Host.Outcome State Fault Refusal := .next (s.lift core)

/-- The running activation has used up its watchdog limit (R115). -/
def State.wdogDue (s : State) (core x : Nat) : Bool :=
  let k := s.core core
  (k.ctx x).phase == .running && decide (k.wdog.toNat ≤ (k.ctx x).ran)

/-- WATCHDOG (R115, R390). -/
def execWatchdog (core ctx : Nat) (s : State) : Host.Outcome State Fault Refusal :=
  .next (if s.wdogDue core ctx then s.takeTrap core ctx 0x0F ((s.core core).ctx ctx).ran else s)

end Sys2Proof.Machine
end

