-- ==== Sys2Proof/Machine/Ports.lean ====
section
/-! DEFINITION. Arrivals at the frame ports and channels of a core (R126, R127, R132–R134, R140), frame allocation (R137),
release (R22) and reload (R23, R460). -/
namespace Sys2Proof.Machine

open Sys2Proof

/-! Frame updates. A packet's content is applied as `State.applyPort` lays down. -/

/-- SLOT_SIGNAL (R38, R127): a signal, or a completion with its words (R132). -/
def execSlotSignal (p : Pkt) (s : State) : Host.Outcome State Fault Refusal := .next (s.arrive p)
/-- SIGR_ARRIVAL (R126). -/
def execSigrArrival (p : Pkt) (s : State) : Host.Outcome State Fault Refusal := .next (s.arrive p)
/-- SLOTADD_ARRIVAL (R126). -/
def execSlotaddArrival (p : Pkt) (s : State) : Host.Outcome State Fault Refusal := .next (s.arrive p)
/-- SLOTSET_ARRIVAL (R126). -/
def execSlotsetArrival (p : Pkt) (s : State) : Host.Outcome State Fault Refusal := .next (s.arrive p)
/-- SENDF_ARRIVAL (R132). -/
def execSendfArrival (p : Pkt) (s : State) : Host.Outcome State Fault Refusal := .next (s.arrive p)
/-- LDFAR_COMPLETION (R169). -/
def execLdfarCompletion (p : Pkt) (s : State) : Host.Outcome State Fault Refusal := .next (s.arrive p)
/-- ATOMIC_COMPLETION (R178). -/
def execAtomicCompletion (p : Pkt) (s : State) : Host.Outcome State Fault Refusal := .next (s.arrive p)

/-! Channels. -/

/-- CHANNEL_MESSAGE (R28, R133). -/
def execChannelMessage (p : Pkt) (s : State) : Host.Outcome State Fault Refusal :=
  .next (match p.body with
    | .chan ch payload => s.arriveChan p ch payload
    | _ => s)

/-- BLK of a channel set or cleared; a channel that is not defined raises a record (R134). -/
def State.gate (s : State) (p : Pkt) (ch : Nat) (blk : Bool) (f : State → State) : State :=
  let s := s.noted p
  let k := s.core p.dst
  let t := SMap.get 0 k.tasks ch
  if s.stale p then s.dropStale p
  else if !taskVal t then s.raise { p.org with tag := p.tag, gen := p.gen } 0x1B true ch (.chan p.dst ch)
  else f (s.setCore p.dst { k with tasks := SMap.put 0 k.tasks ch (setBits t 30 30 (if blk then 1 else 0)) })

/-- CHBLK_ARRIVAL (R134): from now on no message of the channel is queued. -/
def execChblkArrival (p : Pkt) (s : State) : Host.Outcome State Fault Refusal :=
  .next (match p.body with
    | .chblk ch => s.gate p ch true fun s => s.rehold p.dst ch
    | _ => s)

/-- Held messages delivered in order; to a channel that the error token has reached they are dropped (R351). -/
def State.deliverAll (s : State) (ch : Nat) : List Pkt → State
  | [] => s
  | p :: t =>
    match p.body with
    | .chan _ payload =>
      if s.reachedChan p.gen p.dst ch then (s.dropped p.gen 1).deliverAll ch t
      else (s.deliverChan p ch payload).deliverAll ch t
    | _ => s.deliverAll ch t

/-- The held messages of a channel are queued, first those of the input queue, then those of the galley (R134); others of the core
move up. -/
def State.unblock (s : State) (core ch : Nat) : State :=
  let k := s.core core
  let g := s.cluster (clOf core)
  let here (p : Pkt) : Bool := p.toChan core ch
  let held := k.inputQ.filter here ++ g.galley.filter here
  let s := s.setCore core { k with inputQ := k.inputQ.filter fun p => !here p }
  let s := s.setCluster (clOf core) { g with galley := g.galley.filter fun p => !here p }
  (s.deliverAll ch held).moveUp core

/-- CHUNB_ARRIVAL (R134). -/
def execChunbArrival (p : Pkt) (s : State) : Host.Outcome State Fault Refusal :=
  .next (match p.body with
    | .chunb ch => s.gate p ch false fun s => s.unblock p.dst ch
    | _ => s)

/-! Granules and homes. -/

/-- The places where `n` contiguous granules are free (R137, R298). -/
def State.runs (s : State) (core n : Nat) : List Nat :=
  (List.range (257 - n)).filter fun g => (List.range n).all fun i => s.freeGran core (g + i)

/-- One of several places, as the part chooses. -/
def State.chooseRun (s : State) (core n : Nat) : Option (Nat × State) :=
  match s.runs core n with
  | [] => none
  | [g] => some (g, s)
  | g :: t => some ((g :: t).getD (Config.victim s.freeCtr % (t.length + 1)) g, s.fresh)

/-- A spill home that no spilled frame holds, and that no frame is about to move to. -/
def Core.homeFree (k : Core) (h : Nat) : Bool := !(k.ftab.any fun (_, e) => e.v && ((!e.res && e.home == h) || e.dest == some (.home h)))

/-- The frames that wait for a reload (R23). -/
def Core.waiting (k : Core) : List Nat := (k.ftab.filter fun (_, e) => e.v && !e.res && e.rld).map (·.1)

/-- `n` zero bytes. -/
def zeros (n : Nat) : List Byte := List.replicate n 0

/-- The poison of words of frame SRAM. -/
def Core.poisonWords (k : Core) (w n : Nat) (b : Nat → Bool) : Core :=
  { k with fpoison := (List.range n).foldl (fun m i => SMap.put false m (w + i) (b i)) k.fpoison
           fbad := (List.range n).foldl (fun m i => SMap.put false m (w + i) false) k.fbad }

/-- A zero frame of `n` granules in frame SRAM. -/
def State.newResident (s : State) (core fid n g : Nat) : State :=
  s.modCore core fun k =>
    ({ k with fsram := storeBytes k.fsram (256 * g) (zeros (256 * n)) }.poisonWords (32 * g) (32 * n) fun _ => false).setFent fid
      { v := true, res := true, len := n - 1, gran := g }

/-- Whole lines written to a spill home: their poison goes, but for the lines of `bad` (R308). -/
def State.writeHomeLines (s : State) (core h : Nat) (bs : List Byte) (bad : List Nat) : State :=
  let base := (s.core core).spillBase.toNat + 4096 * h
  let lines := (List.range (bs.length / 64)).map (base / 64 + ·)
  { s with
    hbm := storeBytes s.hbm base bs
    hpoison := lines.foldl (fun m l => SMap.put false m l (bad.contains l)) s.hpoison
    hbad := lines.foldl (fun m l => SMap.put false m l false) s.hbad }

/-- A zero frame of `n` granules at a spill home. -/
def State.newSpilled (s : State) (core fid n h : Nat) : State :=
  let s := s.modCore core fun k => k.setFent fid { v := true, len := n - 1, home := h }
  if s.homeOk core fid then s.writeHomeLines core h (zeros (256 * n)) [] else s.homeFault core fid

/-- FALLOC_SERVE (R137). -/
def State.falloc (s : State) (p : Pkt) (n w : Nat) (c : Cmpl) : State :=
  let core := p.dst
  let k := s.core core
  match (List.range 4096).find? fun f => !(k.fent f).v with
  | none => s.signal p.org c 0x12 true p.backFrom
  | some fid =>
    let done (s : State) : State :=
      s.sendPkt (p.org.resp c.core c.tag (.complete c.fid [(w, frameRef core fid)] c.k 0) p.backFrom)
    match if k.waiting.isEmpty then s.chooseRun core n else none with
    | some (g, t) => done (t.newResident core fid n g)
    | none =>
      match (List.range 256).find? k.homeFree with
      | some h => done (s.newSpilled core fid n h)
      | none => s.signal p.org c 0x12 true p.backFrom

def execFallocServe (p : Pkt) (s : State) : Host.Outcome State Fault Refusal :=
  .next (match p.body with
    | .falloc n w c => if s.stale p then (s.dropStale p).noted p else (s.falloc p n w c).noted p
    | _ => s)

/-- Whether a frame is released (R22): FREQ = 1, PIN = 0 and no slot with RP set. The frame's slots are taken to be the words of its
slot map (R23; DEDUCED, log entry 24): in other words the bit is data. -/
def State.releasable (s : State) (core fid : Nat) : Bool :=
  let e := (s.core core).fent fid
  e.v && e.freq && e.pin == 0 && (List.range 512).all fun i => !e.marked i || !(s.slotWord core fid i).getLsbD 45

/-- FRAME_RELEASE (R22): V clears, and the granules and the home return. -/
def execFrameRelease (core fid : Nat) (s : State) : Host.Outcome State Fault Refusal :=
  .next (if s.releasable core fid then
      s.modCore core fun k => k.setFent fid { k.fent fid with v := false, held := false, dest := none }
    else s)

/-- SP of every word of a frame's slot map (R23). -/
def State.setSp (s : State) (core fid b : Nat) : State :=
  let e := (s.core core).fent fid
  (List.range e.words).foldl (fun t i =>
    if e.marked i then t.setSlotWord core fid i (setBits (t.slotWord core fid i) 44 44 b) else t) s

/-- The frame that reloads next: the lowest of those that wait whose granules are free (R23). -/
def State.nextReload (s : State) (core : Nat) : Option Nat :=
  (s.core core).waiting.find? fun f => !s.homeOk core f || !(s.runs core (((s.core core).fent f).len + 1)).isEmpty

/-- Activations that waited for a reload pass the frame port in order (R23, R346). -/
def State.portActs (s : State) (core : Nat) : List Act → State
  | [] => s
  | a :: t =>
    let k := s.core core
    (if k.portQ.isEmpty && k.room then s.enqueue core a
     else s.setCore core { k with portQ := snoc k.portQ (.act a) }).portActs core t

/-- A spilled frame's bytes come back into granules from `g` (R23, R402). -/
def State.reloadAt (s : State) (core fid g : Nat) : State :=
  let k := s.core core
  let e := k.fent fid
  let n := e.len + 1
  let base := k.spillBase.toNat + 4096 * e.home
  let bad (i : Nat) : Bool := SMap.get false s.hpoison ((base + 8 * i) / 64) || SMap.get false s.hbad ((base + 8 * i) / 64)
  let s := s.setCore core
    (({ k with fsram := storeBytes k.fsram (256 * g) (loadBytes s.hbm base (256 * n))
               spillQ := k.spillQ.filter (·.fid != some fid) }.poisonWords (32 * g) (32 * n) bad).setFent fid
      { e with res := true, rld := false, gran := g })
  -- SP clears without touching poison
  let s := (List.range e.words).foldl (fun t i =>
    if e.marked i then t.setFrameN core fid (8 * i) 8 (setBits (t.slotWord core fid i) 44 44 0).toNat else t) s
  s.portActs core (k.spillQ.filter (·.fid == some fid))

/-- FRAME_RELOAD (R23, R460). -/
def State.reload (s : State) (core fid : Nat) : State :=
  if s.nextReload core ≠ some fid then s
  else if !s.homeOk core fid then
    (s.modCore core fun k => k.setFent fid { k.fent fid with rld := false }).homeFault core fid
  else
    match s.chooseRun core (((s.core core).fent fid).len + 1) with
    | some (g, t) => t.reloadAt core fid g
    | none => s

def execFrameReload (core fid : Nat) (s : State) : Host.Outcome State Fault Refusal := .next (s.reload core fid)

end Sys2Proof.Machine
end

