-- ==== Sys2Proof/Machine/Arrivals.lean ====
section
/-! DEFINITION. Memory accesses where they are performed (R158, R167, R169, R173, R177–R179, R295), write-once words
(R144–R147), the routing log (R149, R150), timers (R151), L1 fills (R164–R166) and page walks (R412–R414). -/
namespace Sys2Proof.Machine

open Sys2Proof

/-- A memory packet whose place is a scratchpad takes the check of R340 at its cluster. -/
def State.staleAt (s : State) (p : Pkt) : Bool :=
  match p.locs with
  | .spad c _ :: _ => !(s.cluster c).loaded || (s.cluster c).gen != p.gen
  | _ => false

/-- A failure reported to a completion slot, or as a fault record (R146, R169, R173). -/
def State.report (s : State) (p : Pkt) (c : Option Cmpl) (cause va : Nat) : State :=
  s.complete p.org c cause va c.isSome p.backFrom

/-! Stores. -/

/-- STORE_PERFORM (R158, R173, R295, R308): one piece is performed; with the last, the store is. A store that a window refuses changes
nothing. -/
def State.performStore (s : State) (p : Pkt) (ws : List (Loc × Byte)) (va : Nat) (full : List Nat) : State :=
  if s.staleAt p then (s.dropStale p).performed p
  else if !p.passed && !s.windowsOk (clOf p.org.core) (ws.map (·.1)) true then (s.record p.org 0x0A va).performed p
  else
    let ps := pieces (clOf p.org.core) (fun (x : Loc × Byte) => x.1) ws
    let i := if ps.length ≤ 1 then 0 else Config.pick s.freeCtr % ps.length
    let s := if ps.length ≤ 1 then s else s.fresh
    let s := match s.performRuns full p.org (runsOf (ps.getD i [])) with
      | .done t => t
      | .fail c t => t.record p.org c va
    let left := (ps.eraseIdx i).flatten
    if left.isEmpty then s.performed p else { s with net := { p with passed := true, body := .store left va full } :: s.net }

def execStorePerform (p : Pkt) (s : State) : Host.Outcome State Fault Refusal :=
  .next (match p.body with
    | .store ws va full => s.performStore p ws va full
    | _ => s)

/-! Split-phase loads. -/

/-- The completion of an LDFAR (R169). -/
def State.ldfarDone (s : State) (p : Pkt) (ws : List (Nat × Word)) (err : Nat) (c : Cmpl) : State :=
  (s.sendPkt (p.org.answer (p.locs.head?) c.core 0 4 (.ldfarResp ws err c))).performed p

/-- The words that an LDFAR's bytes make (R167, R169). -/
def ldfarWords (got : List (Nat × Byte)) (sz : Nat) (blk : Bool) (w : Nat) : List (Nat × Word) :=
  let n := if blk then 64 else sizeBytes sz
  let bs := (List.range n).map fun i => ((got.find? fun (j, _) => j == i).map (·.2)).getD 0
  if blk then wordsFrom w (wordsOfBytes 8 bs) else [(w, sizeValue sz (natOfBytes bs))]

/-- The addresses of the words that hold `n` bytes from an address. -/
def indices8 (pa n : Nat) : List Nat := (List.range ((pa + n + 7) / 8 - pa / 8)).map fun i => 8 * (pa / 8 + i)

/-- LDFAR_READ (R167, R173, R179): one piece is read (R295); with the last, the completion is sent. -/
def State.readFar (s : State) (p : Pkt) (locs : List (Nat × Loc)) (got : List (Nat × Byte)) (va sz : Nat) (blk : Bool)
    (fault w : Nat) (c : Cmpl) : State :=
  if fault ≠ 0 then s.ldfarDone p [(w, errorWord fault)] fault c
  else if s.staleAt p then (s.dropStale p).performed p
  else if !p.passed && !s.windowsOk (clOf p.org.core) (locs.map (·.2)) false then s.ldfarDone p [(w, errorWord 0x0A)] 0x0A c
  else
    let p := { p with passed := true }
    let ps := pieces (clOf p.org.core) (fun (x : Nat × Loc) => x.2) locs
    let i := if ps.length ≤ 1 then 0 else Config.pick s.freeCtr % ps.length
    let s := if ps.length ≤ 1 then s else s.fresh
    match ps.getD i [] with
    | [] => s.ldfarDone p (ldfarWords got sz blk w) 0 c
    | (j, l) :: rest =>
      match l with
      | .peer st _ => s.toPeer st p
      | _ =>
        match s.readPiece l (rest.length + 1) va p.org with
        | .fail e _ t => t.ldfarDone p [(w, errorWord e)] e c
        | .wait t => t
        | .ok bs t =>
          let t := match l with
            | .mem pa => if p.org.kind = 0 then (indices8 pa bs.length).foldl (fun (u : State) a => u.sawHome p.org.core a) t else t
            | _ => t
          let got := got ++ bs.mapIdx fun n b => (j + n, b)
          let left := locs.filter fun x => !((j, l) :: rest).contains x
          if left.isEmpty then t.ldfarDone p (ldfarWords got sz blk w) 0 c
          else { t with net := { p with body := .ldfar left got va sz blk fault w c } :: t.net }

def execLdfarRead (p : Pkt) (s : State) : Host.Outcome State Fault Refusal :=
  .next (match p.body with
    | .ldfar locs got va sz blk fault w c => s.readFar p locs got va sz blk fault w c
    | _ => s)

/-! Atomics. -/

/-- The answer to an atomic (R178). -/
def State.atomicDone (s : State) (p : Pkt) (r : AtReq) (old : Except Nat Nat) : State :=
  match r.res, old with
  | some (w, c), .ok v => (s.sendPkt (p.org.answer (some r.loc) c.core 0 4 (.atomicResp (wordsFrom w (atomicWords r v)) 0 c))).performed p
  | some (w, c), .error e => (s.sendPkt (p.org.answer (some r.loc) c.core 0 4 (.atomicResp [(w, errorWord e)] e c))).performed p
  | none, .ok _ => s.performed p
  | none, .error e => (s.record p.org e r.va).performed p

/-- ATOMIC_AT_TARGET (R176–R179). -/
def State.atomicAt (s : State) (p : Pkt) (r : AtReq) : State :=
  if r.fault = 0 && s.staleAt p then (s.dropStale p).performed p
  else
    match s.atomicDo r p.org p with
    | .ok old t => t.atomicDone p r (.ok old)
    | .fail c t => t.atomicDone p r (.error c)
    | .sent t => t

def execAtomicAtTarget (p : Pkt) (s : State) : Host.Outcome State Fault Refusal :=
  .next (match p.body with
    | .atomic r => s.atomicAt p r
    | _ => s)

/-! Write-once words (R144–R147). -/

/-- A place on a guarded page (R411). -/
def Loc.isGuard : Loc → Bool
  | .guard _ => true
  | _ => false

/-- State of the write-once word at a place; `none` where there is none (R144). -/
def State.woState (s : State) (l : Loc) : Option WoState :=
  match l with
  | .spad c off => some (SMap.get .empty (s.cluster c).wo (off / 8))
  | .side pa true => some (SMap.get .empty s.hwo (pa / 8))
  | _ => none

def State.setWo (s : State) (l : Loc) (w : WoState) : State :=
  match l with
  | .spad c off => s.modCluster c fun k => { k with wo := SMap.put .empty k.wo (off / 8) w }
  | .side pa _ => { s with hwo := SMap.put .empty s.hwo (pa / 8) w }
  | _ => s

/-- The offset or address by which a deferred reader names its word. -/
def woKey (l : Loc) : Nat :=
  match l with
  | .spad _ off => off
  | .side pa _ => pa
  | _ => 0

/-- The deferred readers of a word, in list order. -/
def State.readersOf (s : State) (l : Loc) : List Reader :=
  match l with
  | .spad c _ => (s.cluster c).readers.filter (·.addr == woKey l)
  | _ => s.hreaders.filter (·.addr == woKey l)

/-- The readers of a word return to the pool. -/
def State.dropReaders (s : State) (l : Loc) : State :=
  match l with
  | .spad c _ => s.modCluster c fun k => { k with readers := k.readers.filter (·.addr != woKey l) }
  | _ => { s with hreaders := s.hreaders.filter (·.addr != woKey l) }

/-- A pool has an entry: 1,024 of a cluster, 4,096 of a stack (R144). -/
def State.poolFree (s : State) (l : Loc) : Bool :=
  match l with
  | .spad c _ => decide ((s.cluster c).readers.length < 1024)
  | _ => decide ((s.hreaders.filter fun r => r.addr / 2 ^ 36 == woKey l / 2 ^ 36).length < 4096)

def State.addReader (s : State) (l : Loc) (r : Reader) : State :=
  match l with
  | .spad c _ => s.modCluster c fun k => { k with readers := snoc k.readers r }
  | _ => { s with hreaders := snoc s.hreaders r }

/-- The reply to a reader (R146). -/
def State.reply (s : State) (l : Loc) (r : Reader) (v : Word) : State :=
  s.sendPkt (r.org.answer (some l) r.cmpl.core r.cmpl.tag 2 (.complete r.cmpl.fid [(r.w, v)] r.cmpl.k 0))

/-- Whether the requester may reach a write-once word: the cause of a refusal (R173, R300). -/
def State.woDenied (s : State) (l : Loc) (org : Origin) (write : Bool) : Nat :=
  match l with
  | .spad c off =>
    if !s.windowOk c (clOf org.core) off 8 write then 0x0A
    else if !(s.cluster c).usable off 8 then 0x12 else 0
  | _ => 0

/-- ISTW at its word (R146). -/
def State.istw (s : State) (p : Pkt) (l : Loc) (va : Nat) (v : Word) (fault : Nat) (c : Option Cmpl) : State :=
  if fault ≠ 0 then s.report p c fault va
  else if s.staleAt p then s.dropStale p
  else if l.isGuard then (s.record p.org 0x0B va).complete p.org c 0 va c.isSome p.backFrom
  else
    match s.woState l with
    | none => s.report p c 0x0C va
    | some st =>
      let d := s.woDenied l p.org true
      if d ≠ 0 then s.report p c d va
      else if st = .full then s.report p c 0x0C va
      else
        match s.performPiece l (bytesOfNat 8 v.toNat) [] p.org with
        | .fail e t => t.report p c e va
        | .done t =>
          let rs := t.readersOf l
          let t := (t.setWo l .full).dropReaders l
          (rs.foldl (fun u r => u.reply l r v) t).complete p.org c 0 va c.isSome p.backFrom

def execIstwArrival (p : Pkt) (s : State) : Host.Outcome State Fault Refusal :=
  .next (match p.body with
    | .istw l va v fault c => s.istw p l va v fault c
    | _ => s)

/-- ISTW.CLR at its word (R146). -/
def State.istwClr (s : State) (p : Pkt) (l : Loc) (va fault : Nat) (c : Option Cmpl) : State :=
  if fault ≠ 0 then s.report p c fault va
  else if s.staleAt p then s.dropStale p
  else if l.isGuard then (s.record p.org 0x0B va).complete p.org c 0 va c.isSome p.backFrom
  else
    match s.woState l with
    | none => s.report p c 0x0C va
    | some st =>
      let d := s.woDenied l p.org true
      if d ≠ 0 then s.report p c d va
      else if st = .deferred then s.report p c 0x0C va
      else (s.setWo l .empty).complete p.org c 0 va c.isSome p.backFrom

def execIstwClrArrival (p : Pkt) (s : State) : Host.Outcome State Fault Refusal :=
  .next (match p.body with
    | .istwClr l va fault c => s.istwClr p l va fault c
    | _ => s)

/-- A failed ISRD writes the error word into its result word and error-signals its slot (R146, R147, R390). -/
def State.isrdFail (s : State) (p : Pkt) (c : Cmpl) (w cause : Nat) : State :=
  s.sendPkt (p.org.answer p.locs.head? c.core c.tag 2 (.complete c.fid [(w, errorWord cause)] c.k cause))

/-- ISRD at its word (R146, R147); `tries` counts its refusals. -/
def State.isrd (s : State) (p : Pkt) (l : Loc) (va fault w : Nat) (c : Cmpl) (tries : Nat) : State :=
  if fault ≠ 0 then s.isrdFail p c w fault
  else if s.staleAt p then s.dropStale p
  else
    let r : Reader := { addr := woKey l, w := w, cmpl := c, gen := p.gen, org := p.org }
    if l.isGuard then (s.record p.org 0x0B va).reply l r 0
    else
      match s.woState l with
      | none => s.isrdFail p c w 0x0C
      | some st =>
        let d := s.woDenied l p.org false
        if d ≠ 0 then s.isrdFail p c w d
        else if st = .full then
          match s.readPiece l 8 va p.org with
          | .fail e _ t => t.isrdFail p c w e
          | .wait t => t
          | .ok bs t => t.reply l r (BitVec.ofNat 64 (natOfBytes bs))
        else if s.poolFree l then (s.addReader l r).setWo l .deferred
        else if 16 ≤ tries then s.isrdFail p c w 0x12
        else s.after (s.cyc 256) (.isrdRetry { p with body := .isrd l va fault w c (tries + 1) })

/-- ISRDs that wait to be tried again (R147). -/
def State.retries (s : State) : Nat :=
  (s.timed.filter fun t => match t.2 with
    | .isrdRetry _ => true
    | _ => false).length

/-- ISRD_ARRIVAL (R146): answered, deferred or given up, it has been performed (R171). -/
def State.isrdNow (s : State) (p : Pkt) : State :=
  match p.body with
  | .isrd l va fault w c tries =>
    let t := s.isrd p l va fault w c tries
    if t.retries = s.retries then t.performed p else t
  | _ => s

def execIsrdArrival (p : Pkt) (s : State) : Host.Outcome State Fault Refusal := .next (s.isrdNow p)
/-- ISRD_RETRY (R147). -/
def execIsrdRetry (p : Pkt) (s : State) : Host.Outcome State Fault Refusal := .next (s.isrdNow p)

/-! The routing log (R149, R150). -/

/-- Bit `pos` of the occupancy bitmap and its byte. -/
def State.rlogBit (s : State) (u : Accessor) (a : RlogAt) : Except Nat (Bool × Nat × State) :=
  match s.readNow u a.occ 1 with
  | .ok bs s => .ok ((natOfBytes bs).testBit (a.pos % 8), natOfBytes bs, s)
  | .fail c _ _ => .error c
  | .wait _ => .error 0x09

/-- Writes one after another; the cause of the first that fails. -/
def writeAll (u : Accessor) (s : State) : List (Nat × List Byte) → Except (Nat × State) State
  | [] => .ok s
  | (a, bs) :: t =>
    match s.writeNow u a bs with
    | .ok _ s => writeAll u s t
    | .fail c _ s => .error (c, s)
    | .wait s => .error (0x09, s)

/-- The end of a put or a retire: its slot is signalled. -/
def State.rlogDone (s : State) (p : Pkt) (c : Cmpl) (err : Nat) : State :=
  (s.signal p.org c err true p.backFrom).performed p

/-- Half `h` of a put's entry, or all of it. -/
def rlogEntry (a : RlogAt) (data : VReg) : Option Nat → Nat × List Byte
  | none => (a.entry, bytesOfNat 128 data.toNat)
  | some h => (a.entry + 64 * h, ((bytesOfNat 128 data.toNat).drop (64 * h)).take 64)

/-- A put takes its free position (R150): what is left of the entry, the bit, the count and the signal. -/
def State.rlogTake (s : State) (p : Pkt) (dva : Nat) (a : RlogAt) (byte : Nat) (data : VReg) (c : Cmpl) (half : Option Nat := none) : State :=
  match writeAll (s.rlogUser p) s
      [rlogEntry a data half, (a.occ, [BitVec.ofNat 8 (Nat.lor byte (2 ^ (a.pos % 8)))]),
       (dva + 32, bytesOfNat 8 (a.used + 1))] with
  | .ok t => t.rlogDone p c 0
  | .error (e, t) => t.rlogDone p c e

/-- The die whose slice holds a descriptor. -/
def rlogDie (a : RlogAt) : Nat := homeDie a.desc

/-- A put at its free position: its two 64-byte halves are written together, or one before the other (R295; log entry 46). -/
def State.rlogStart (s : State) (p : Pkt) (dva : Nat) (a : RlogAt) (byte : Nat) (data : VReg) (c : Cmpl) : State :=
  match Sys2Proof.Config.alone s.freeCtr with
  | 0 => s.rlogTake p dva a byte data c
  | n =>
    let e := rlogEntry a data (some (n % 2))
    match s.writeNow (s.rlogUser p) e.1 e.2 with
    | .ok _ t =>
      t.modDie (rlogDie a) fun d => { d with rlog := snoc d.rlog { pkt := p, desc := a.desc, pos := a.pos, half := some (1 - n % 2) } }
    | _ => s.rlogTake p dva a byte data c

/-- RLOG_PUT_ARRIVAL (R150): an occupied position, or one that an earlier put waits for, holds the put at the slice; a frozen instance's is
dropped (R349, R356). -/
def State.rlogPut (s : State) (p : Pkt) (dva layer mb : Nat) (data : VReg) (c : Cmpl) : State :=
  match s.rlogPlace p dva layer mb with
  | .error e => s.rlogDone p c e
  | .ok (a, s) =>
    match s.rlogBit (s.rlogUser p) a with
    | .error e => s.rlogDone p c e
    | .ok (set, byte, s) =>
      let d := s.die (rlogDie a)
      if set || d.rlog.any (fun w => w.desc == a.desc && w.pos == a.pos) then
        if (s.inst? p.gen).any (·.st == .frozen) then ((s.dropped p.gen 1).unpin c.core c.fid).performed p
        else if (d.rlog.filter (·.half.isNone)).length < 64 then s.setDie (rlogDie a) { d with rlog := snoc d.rlog { pkt := p, desc := a.desc, pos := a.pos } }
        else s.rlogDone p c 0x12
      else s.rlogStart p dva a byte data c

def execRlogPutArrival (p : Pkt) (s : State) : Host.Outcome State Fault Refusal :=
  .next (match p.body with
    | .rlogPut dva layer mb data c => s.rlogPut p dva layer mb data c
    | _ => s)

/-- RLOG_RETIRE_ARRIVAL (R150). -/
def State.rlogRetire (s : State) (p : Pkt) (dva layer mb : Nat) (c : Cmpl) : State :=
  match s.rlogPlace p dva layer mb with
  | .error e => s.rlogDone p c e
  | .ok (a, s) =>
    match s.rlogBit (s.rlogUser p) a with
    | .error e => s.rlogDone p c e
    | .ok (set, byte, s) =>
      if !set then s.rlogDone p c 0x09
      else
        match writeAll (s.rlogUser p) s
            [(a.occ, [BitVec.ofNat 8 (byte - 2 ^ (a.pos % 8))]), (dva + 32, bytesOfNat 8 ((a.used + 2 ^ 64 - 1) % 2 ^ 64))] with
        | .ok t => t.rlogDone p c 0
        | .error (e, t) => t.rlogDone p c e

def execRlogRetireArrival (p : Pkt) (s : State) : Host.Outcome State Fault Refusal :=
  .next (match p.body with
    | .rlogRet dva layer mb c => s.rlogRetire p dva layer mb c
    | _ => s)

/-- The position of a waiting put is free, and no earlier put waits for it: the put can go on. -/
def State.rlogFree (s : State) (die ix : Nat) : Option (RlogWait × RlogAt × Nat × State) :=
  let q := (s.die die).rlog
  match q[ix]? with
  | none => none
  | some w =>
    if (q.take ix).any fun v => v.desc == w.desc && v.pos == w.pos then none
    else
      match w.pkt.body with
      | .rlogPut dva layer mb _ _ =>
        (match s.rlogPlace w.pkt dva layer mb with
          | .error _ => none
          | .ok (a, t) =>
            match t.rlogBit (t.rlogUser w.pkt) a with
            | .ok (false, byte, t) => some (w, a, byte, t)
            | _ => none)
      | _ => none

/-- RLOG_WAITING_PUT (R150): the oldest put that waits for a retired position, or that has written half of its entry, completes. -/
def execRlogWaitingPut (die ix : Nat) (s : State) : Host.Outcome State Fault Refusal :=
  .next (match s.rlogFree die ix with
    | some (w, a, byte, t) =>
      let t := t.modDie die fun d => { d with rlog := d.rlog.eraseIdx ix }
      (match w.pkt.body with
        | .rlogPut dva _ _ data c => t.rlogTake w.pkt dva a byte data c w.half
        | _ => t)
    | none => s)

/-! Timers (R151). -/

/-- TIMER_FIRE (R151). -/
def execTimerFire (core ix : Nat) (s : State) : Host.Outcome State Fault Refusal :=
  .next (match (s.core core).timers[ix]? with
    | some t =>
      if t.at_ ≤ s.time && !(s.cluster (clOf core)).stopped then
        (s.modCore core fun k => { k with timers := k.timers.eraseIdx ix }).signal
          { core := core, node := .slot core t.cmpl.fid t.cmpl.k, tag := t.cmpl.tag, gen := t.gen } t.cmpl 0 true
      else s
    | none => s)

/-! L1 fills (R164–R166). -/

/-- The activations of a core that wait for a line or a page, and those that then wait for nothing are queued. -/
def State.served (s : State) (core : Nat) (f : MissWait → MissWait) : State :=
  let ms := (s.core core).misses.map f
  let ready (m : MissWait) : Bool := m.lines.isEmpty && m.pages.isEmpty && !m.forBuf
  let s := s.modCore core fun k => { k with misses := ms.filter fun m => !ready m }
  (ms.filter ready).foldl (fun t m => t.rejoin core m.act) s

/-- The line as a fill brings it: from the home slice, with its poison (R164, R179). -/
def State.fetchLine (s : State) (core line : Nat) : Option (L1Line × State) :=
  let org : Origin := { core := core, node := .chan core 0, gen := (s.cluster (clOf core)).gen }
  match s.readSlice (64 * line) 64 org with
  | .ok bs t => some ({ data := bs, valid := 255 }, t)
  | .fail 0x08 _ => none
  | .fail _ t => some ({ data := List.replicate 64 0, valid := 255, poison := true }, t)

/-- Where a fill goes: the line's own way, an enabled way, or, with every way pinned, nowhere (R164–R166, R304). -/
def State.wayFor (s : State) (c : Nat) (fused : Bool) (line : Nat) : Option State :=
  let k := s.core c
  let set := l1Set fused line
  let same := k.l1.filter fun (l, _) => l1Set fused l == set
  if same.any fun (l, _) => l == line then some s
  else if same.length < s.l1Ways c set then some s
  else
    let free := same.filter fun (_, e) => match e with
      | some l => l.pins.isEmpty
      | none => true
    if s.l1Ways c set ≤ same.length - free.length then none
    else (free[Config.victim s.freeCtr % free.length]?).map fun (l, _) => (s.evictL1 c l).fresh

/-- L1_FILL (R165, R166, R170): the line arrives for the activations that wait for it, or for a prefetch. -/
def State.fill (s : State) (core line : Nat) : State :=
  let fused := (s.core core).l1mode
  let c := s.l1Core core line
  let mine := (s.core core).misses.filter fun m => m.lines.contains line && !m.forBuf
  let ids := mine.map (·.act.id)
  let got (m : MissWait) : MissWait := if ids.contains m.act.id then { m with lines := m.lines.filter (· != line) } else m
  match s.fetchLine core line with
  | none =>
    -- no window covers the line any more: the access faults when it replays
    s.served core got
  | some (l, t) =>
    let buf := (SMap.get none (t.core core).rb line).isSome && (SMap.get none (t.core c).l1 line).isNone
      && ((t.core core).rbOwner.map ids.contains).getD false
    match if buf then none else t.wayFor c fused line with
    | some t =>
      let old := ((SMap.get none (t.core c).l1 line).map (·.pins)).getD []
      let pins := (old ++ ids).eraseDups
      let t := t.modCore c fun k =>
        { k with l1 := SMap.put none k.l1 line (some { l with pins := pins }), l1bad := SMap.put false k.l1bad line false }
      -- copies in replay buffers that share the slice do not stay older (R292)
      let t := (t.sharers core).foldl (fun t d => t.modCore d fun k =>
        if (SMap.get none k.rb line).isSome then { k with rb := SMap.put none k.rb line (some l) } else k) t
      t.served core got
    | none =>
      if ids.isEmpty then s
      else
        let k := t.core core
        let owner := k.rbOwner.getD (ids.headD 0)
        if ids.contains owner then
          -- a fifth line finds no place: the activation traps when it replays (R166)
          let full := (SMap.get none k.rb line).isNone && decide (4 ≤ k.rb.length)
          let t := t.setCore core { k with
            rbOwner := some owner
            rb := if full then k.rb else SMap.put none k.rb line (some l)
            misses := k.misses.map fun m => if ids.contains m.act.id && m.act.id != owner then { m with forBuf := true } else m }
          t.served core fun m => if m.act.id == owner then { m with lines := m.lines.filter (· != line) } else m
        else
          t.setCore core { k with misses := k.misses.map fun m => if ids.contains m.act.id then { m with forBuf := true } else m }

def execL1Fill (core line : Nat) (s : State) : Host.Outcome State Fault Refusal := .next (s.fill core line)

/-! Page walks (R412–R414). -/

/-- The walk that the event of a cluster and a page is for, and the clusters that still wait for it. -/
def State.walkAt (s : State) (cl page : Nat) : Option (Walk × List Nat) :=
  ((s.die (dieOf cl)).walks.find? fun w => w.cl == cl && w.page == page).map fun w =>
    (w, (w.cl :: w.more).filter fun c => (s.cluster c).gen == w.gen)

/-- A walk ends; the TLBINVs that restarted it wait for it no longer (R413). -/
def State.dropWalk (s : State) (w : Walk) : State :=
  let d := dieOf w.cl
  { s.modDie d fun k => { k with walks := k.walks.filter fun x => !(x.gen == w.gen && x.page == w.page) } with
    tlbinvs := s.tlbinvs.map fun o => { o with walks := o.walks.filter (· != (d, w.gen, w.page)) } }

/-- A walk's result at a cluster that waits for it (R413, R414). -/
def State.walked (s : State) (page : Nat) (r : Except Nat Tlb) (cl : Nat) : State :=
  let got (m : MissWait) : MissWait := { m with pages := m.pages.filter (· != page) }
  match r with
  | .ok t => (coresOf cl).foldl (fun u c => u.served c got) (s.fillTlb cl t)
  | .error e =>
    (coresOf cl).foldl (fun u c =>
      let ids := ((u.core c).misses.filter (·.pages.contains page)).map (·.act.id)
      let u := u.modCore c fun k => { k with walkFaults := k.walkFaults ++ ids.map fun i => { act := i, page := page, cause := e } }
      u.served c got) s

/-- TLB_WALK (R413, R414): the next entry is read at its home; after the last the translation enters the TLB of each cluster that waits, or its
fault is handed to the accesses that wait. -/
def State.walkStep (s : State) (cl page : Nat) : State :=
  match s.walkAt cl page with
  | none => s
  | some (w, []) => s.dropWalk w
  | some (w, cls) =>
    match w.base <|> (s.cluster (cls.headD 0)).root with
    | none => cls.foldl (fun t c => t.walked page (.error 0x08) c) (s.dropWalk w)
    | some b =>
      match s.walkRead w.gen (page * 2 ^ 16) w.left b with
      | .table b =>
        s.modDie (dieOf cl) fun k => { k with walks := k.walks.map fun x => if x == w then { w with left := w.left - 1, base := some b } else x }
      | .leaf e => cls.foldl (fun t c => t.walked page (.ok e) c) (s.dropWalk w)
      | .fault e => cls.foldl (fun t c => t.walked page (.error e) c) (s.dropWalk w)

def execTlbWalk (cl page : Nat) (s : State) : Host.Outcome State Fault Refusal := .next (s.walkStep cl page)

end Sys2Proof.Machine
end

