-- ==== Sys2Proof/Machine/HostRing.lean ====
section
/-! DEFINITION. The event ring in host memory and the MSI-X vectors (R422). -/
namespace Sys2Proof.Machine

open Sys2Proof

/-- Bytes posted to a host address; the write leaves in order (R416). -/
def State.msix (s : State) (v : Nat) : State := { s with host := { s.host with msix := snoc s.host.msix v } }

/-- An event written into the ring (R422): the record, EVHEAD, then vector 0. A full ring drops it. Types: 1 capacity, 2
partition, 3 degraded unit, 4 thermal, 5 power limit. -/
def State.hostEvent (s : State) (kind : Nat) (detail : List Nat) : State :=
  let h := s.host
  let size := 2 ^ h.evlsz
  if (h.evhead + 1) % size = h.evtail % size then { s with host := { h with evlost := h.evlost + 1 } }
  else
    let w (i : Nat) : Nat := Config.eventWord i kind detail
    let ws : List Word := [BitVec.ofNat 64 (kind + w 0 % 2 ^ 56 * 2 ^ 8), BitVec.ofNat 64 s.time, BitVec.ofNat 64 (w 2), BitVec.ofNat 64 (w 3)]
    let t := s.writeHost (h.evbase.toNat + 32 * (h.evhead % size)) (bytesOfWords ws)
    { t with host := { t.host with evhead := (h.evhead + 1) % size } }.msix 0

end Sys2Proof.Machine
end

