-- ==== Sys2Proof/Machine/VecMath.lean ====
section
/-! DEFINITION. The functions of the transcendental instructions (R188), to more bits than any result holds, and the
values near them that the manual allows; which of these a part gives is its own (`Config.approx`, log entry 9). -/
namespace Sys2Proof.Machine

open Sys2Proof

/-- Fraction bits of the fixed-point numbers here. -/
def fixBits : Nat := 320
/-- 1.0. -/
def fixOne : Nat := 2 ^ fixBits

/-- Σ z^(2j+1) / (2j+1) from term `j`, `pw` the power at hand. -/
def atanhSum (z2 : Nat) : (fuel j pw acc : Nat) → Nat
  | 0, _, _, acc => acc
  | n + 1, j, pw, acc => atanhSum z2 n (j + 1) (pw * z2 / fixOne) (acc + pw / (2 * j + 1))

/-- atanh (num / den), for a ratio of at most 1/3. -/
def atanhFix (num den : Nat) : Nat :=
  let z := num * fixOne / den
  atanhSum (z * z / fixOne) 110 0 z 0

/-- ln 2. -/
def ln2Fix : Nat := 2 * atanhFix 1 3

/-- Σ r^k / k! from the term `t` of index `k`. -/
def expSum (r : Nat) : (fuel k t acc : Nat) → Nat
  | 0, _, _, acc => acc
  | n + 1, k, t, acc => expSum r n (k + 1) (t * r / fixOne / (k + 1)) (acc + t)

/-- e^r for 0 ≤ r < 1. -/
def expFix (r : Nat) : Nat := expSum r 80 0 fixOne 0

/-- A finite value as a fixed-point integer. -/
def fixOf (neg : Bool) (m : Nat) (e : Int) : Int :=
  let k := e + fixBits
  let a : Nat := if 0 ≤ k then m * 2 ^ k.toNat else m / 2 ^ (-k).toNat
  if neg then -(a : Int) else a

/-- A finite value lies at or beyond 2^k in magnitude. -/
def beyond (m : Nat) (e k : Int) : Bool := m != 0 && decide (k ≤ e + (Nat.log2 m : Nat))

/-- base^x of a finite x: 2 or e. -/
def expVal (natural : Bool) (neg : Bool) (m : Nat) (e : Int) : Val :=
  if beyond m e 12 then (if neg then .fin false 1 (-4000) true else .fin false 1 4000 true)
  else
    let x := fixOf neg m e
    let unit : Nat := if natural then ln2Fix else fixOne
    let n := x.fdiv unit
    let r := (x - n * unit).toNat
    .fin false (expFix (if natural then r else r * ln2Fix / fixOne)) (n - fixBits) true

/-- log of a positive finite x, to base 2 or e. -/
def logVal (natural : Bool) (m : Nat) (e : Int) : Val :=
  let k := Nat.log2 m
  let l : Int := (e + k) * ln2Fix + 2 * (atanhFix (m - 2 ^ k) (m + 2 ^ k) : Nat)
  let l := if natural then l else l * (fixOne : Int) / (ln2Fix : Int)
  .fin (decide (l < 0)) l.natAbs (-fixBits) true

/-- tanh of a finite x ≠ 0. -/
def tanhVal (neg : Bool) (m : Nat) (e : Int) : Val :=
  if beyond m e 6 then .fin neg (fixOne - 1) (-fixBits) true
  else
    match expVal true false m (e + 1) with
    | .fin _ q k _ =>
      let y := (fixOf false q k).toNat
      .fin neg ((y - fixOne) * fixOne / (y + fixOne)) (-fixBits) true
    | v => v

/-- 1 / (1 + e^−x) of a finite x. -/
def sigVal (neg : Bool) (m : Nat) (e : Int) : Val :=
  match expVal true true m e with
  | .fin _ q k _ =>
    if beyond m e 7 then (if neg then .fin false q k true else .fin false (fixOne - 1) (-fixBits) true)
    else
      let y := (fixOf false q k).toNat
      .fin false ((if neg then y else fixOne) * fixOne / (fixOne + y)) (-fixBits) true
  | v => v

/-- A finite magnitude is within `bound` units of the last place of F32 at the value `m·2^e`. -/
def unitsNear (f : BinFmt) (bound m : Nat) (e : Int) (code : Nat) : Bool :=
  let (cm, ce) := f.mag code
  let u := max f.ulp (lastPlace m e (f.fb + 1))
  let lo := min (min e ce) u
  decide ((scaled false cm ce lo - scaled false m e lo).natAbs ≤ bound * pow2 (u - lo))

/-- The result that the part gives near the exact value `y` (R188): an F32 result within `bound` units of the spacing at
`y`, a BF16 or F16 result one of the two neighbours. -/
def approxSel (f : BinFmt) (narrow : Bool) (bound choice : Nat) (y : Val) : Nat × FFlags :=
  let (c, fl) := f.encode 0 true y
  let fl := { fl with nx := true }
  match y with
  | .fin _ m e _ =>
    if fl.of then (c, fl)
    else if narrow then ((f.encode (if choice % 2 = 0 then 2 else 3) true y).1, fl)
    else
      let sg := c / 2 ^ (f.eb + f.fb) * 2 ^ (f.eb + f.fb)
      let mag := c % 2 ^ (f.eb + f.fb)
      let all := (List.range (4 * bound + 1)).map (fun d => mag + d - 2 * bound)
      let near := all.filter (fun k => k ≤ f.maxCode && unitsNear f bound m e k)
      (sg + near.getD (choice % near.length) mag, fl)
  | _ => (c, fl)

/-- VRCP, VRSQ, VEXP, VLOG, VTANH and VSIG on one element's value (R188). `op` is the opcode; `natural` is `.e`. -/
def transcend (f : BinFmt) (narrow : Bool) (op : Nat) (natural : Bool) (choice : Nat) (x : Val) : Nat × FFlags :=
  let inf (n : Bool) (fl : FFlags) : Nat × FFlags := (f.infCode n, fl)
  let exact (v : Val) : Nat × FFlags := ((f.encode 0 true v).1, {})
  let nan : Nat × FFlags := (f.nanCode, { nv := true })
  let near (bound : Nat) (v : Val) : Nat × FFlags := approxSel f narrow bound choice v
  match x with
  | .nan sg => (f.nanCode, { nv := sg })
  | .inf n =>
    match op with
    | 0x92 => exact (.fin n 0 0 false)
    | 0x8F => if n then nan else exact .zero
    | 0x90 => if n then exact .zero else inf false {}
    | 0x91 => if n then nan else inf false {}
    | 0x93 => exact (.fin n 1 0 false)
    | _ => exact (if n then .zero else .ofInt 1)
  | .fin n m e _ =>
    if m = 0 then
      match op with
      | 0x92 | 0x8F => inf n { dz := true }
      | 0x90 => if natural then near 2 (.ofInt 1) else exact (.ofInt 1)
      | 0x91 => inf true { dz := true }
      | 0x93 => exact x
      | _ => exact (.fin false 1 (-1) false)
    else
      let l := Nat.log2 m
      let pow2? := m == 2 ^ l
      match op with
      | 0x92 => near 1 ((Val.ofInt 1).div x).1
      | 0x8F => if n then nan else near 1 ((Val.ofInt 1).div x).1.sqrt.1
      | 0x90 =>
        let whole := decide (0 ≤ e) || m % 2 ^ (-e).toNat == 0
        if !natural && whole && !beyond m e 9 then
          let k : Int := if 0 ≤ e then (m * 2 ^ e.toNat : Nat) else (m / 2 ^ (-e).toNat : Nat)
          let r := f.encode 0 true (.fin false 1 (if n then -k else k) false)
          if r.2 = {} then r else near 2 (expVal natural n m e)
        else near 2 (expVal natural n m e)
      | 0x91 =>
        if n then nan
        else if pow2? && (!natural || e + l = 0) then exact (.ofInt (e + l))
        else near 2 (logVal natural m e)
      | 0x93 => near 2 (tanhVal n m e)
      | _ => near 2 (sigVal n m e)

end Sys2Proof.Machine
end

