-- ==== Sys2Proof/Machine/Vector.lean ====
section
/-! DEFINITION. Vector instructions: lanes, types and counts (R182–R185), elementwise arithmetic (R186–R188), tables
(R189, R190), conversion (R191, R192), compares and masks (R193, R194), and double firing (R398). -/
namespace Sys2Proof.Machine

open Sys2Proof

/-! Types and lanes. -/

/-- An element type (R182): its width, whether it is a signed integer, its float format. -/
structure VTy where
  w : Nat
  sg : Bool
  flt : Option BinFmt

/-- The type that FN[5:0] names. -/
def vtyOf (t : Nat) : VTy :=
  match t with
  | 4 => ⟨8, true, none⟩
  | 5 => ⟨8, false, none⟩
  | 6 => ⟨16, true, none⟩
  | 7 => ⟨16, false, none⟩
  | 32 => ⟨32, true, none⟩
  | 33 => ⟨32, false, none⟩
  | 34 => ⟨64, true, none⟩
  | 35 => ⟨64, false, none⟩
  | 10 => ⟨32, false, some f32⟩
  | 12 => ⟨16, false, some bf16⟩
  | 13 => ⟨16, false, some f16⟩
  | 14 => ⟨8, false, some f8e5⟩
  | _ => ⟨8, false, some f8e4⟩

def VTy.lanes (t : VTy) : Nat := 1024 / t.w
/-- Group size in mask bits. -/
def VTy.grp (t : VTy) : Nat := t.w / 8

/-- The type of an instruction. -/
def vty (o : Ops) : VTy := vtyOf o.fn6
/-- OPF (R183). -/
def opf (o : Ops) : Nat := o.modBits 52 45
/-- ZI. -/
def zi (o : Ops) : Bool := o.modBits 44 44 == 1
/-- OPX. -/
def opx (o : Ops) : Bool := o.fnBits 6 6 == 1

/-- Element `i` of width `w`. -/
def elem (x : VReg) (w i : Nat) : Nat := x.toNat / 2 ^ (w * i) % 2 ^ w

/-- A register of elements of width `w`, element 0 first. -/
def packElems (w : Nat) : List Nat → Nat
  | [] => 0
  | v :: t => v % 2 ^ w + 2 ^ w * packElems w t
def vreg (w : Nat) (l : List Nat) : VReg := BitVec.ofNat 1024 (packElems w l)

/-- The count n (R184) among `l` elements. -/
def vcount (o : Ops) (s : State) (l : Nat) : Nat :=
  match o.form with
  | .xtd _ _ _ => if o.extBits 13 13 = 1 then min (s.rg (o.extBits 12 8)).toNat l else min (o.extBits 7 0) l
  | _ => l

/-- The mask MK. -/
def vmask (o : Ops) (s : State) : MReg := s.rm (o.modBits 43 41)

/-- Whether element `i` is active (R184). -/
def vactive (o : Ops) (s : State) (t : VTy) (i : Nat) : Bool :=
  decide (i < vcount o s t.lanes) && (vmask o s).getLsbD (t.grp * i)

/-- The active elements in ascending order. -/
def vactives (o : Ops) (s : State) (t : VTy) : List Nat := (List.range t.lanes).filter (vactive o s t)

/-- Either set of flags, over a list. -/
def orFlags (l : List FFlags) : FFlags := l.foldl FFlags.or {}

/-- A destination register from the results of its active elements (R184). -/
def vdest (o : Ops) (s : State) (t : VTy) (old : VReg) (f : Nat → Nat) : VReg :=
  vreg t.w ((List.range t.lanes).map fun i =>
    if vactive o s t i then f i else if zi o then 0 else elem old t.w i)

/-- A result written to v[D], with its flags. -/
def vput (o : Ops) (s : State) (t : VTy) (f : Nat → Nat × FFlags) : State :=
  let rs := (List.range t.lanes).map fun i => if vactive o s t i then f i else (0, {})
  let old := s.rv o.d.toNat
  let x := vreg t.w (rs.mapIdx fun i r =>
    if vactive o s t i then r.1 else if zi o then 0 else elem old t.w i)
  (s.wv o.d.toNat x).flag (orFlags (rs.map (·.2)))

/-- Source elements; B is g[B] broadcast under OPX (R185). -/
def vsrcA (o : Ops) (s : State) (t : VTy) (i : Nat) : Nat := elem (s.rv o.a.toNat) t.w i
def vsrcB (o : Ops) (s : State) (t : VTy) (i : Nat) : Nat :=
  if opx o then (s.rg o.b.toNat).toNat % 2 ^ t.w else elem (s.rv o.b.toNat) t.w i
def vsrcC (o : Ops) (s : State) (t : VTy) (i : Nat) : Nat := elem (s.rv o.form.c.toNat) t.w i

/-- The value of an integer element. -/
def VTy.int (t : VTy) (x : Nat) : Int := if t.sg then toSigned t.w x else x
/-- The least and the greatest value of an integer type. -/
def VTy.lo (t : VTy) : Int := if t.sg then -2 ^ (t.w - 1) else 0
def VTy.hi (t : VTy) : Int := if t.sg then 2 ^ (t.w - 1) - 1 else 2 ^ t.w - 1
/-- An integer as an element, wrapped or limited (R187). -/
def VTy.wrap (t : VTy) (sat : Bool) (i : Int) : Nat := ofSigned t.w (if sat then clamp t.lo t.hi i else i)

/-! Double firing (R397–R399). -/

/-- The unit that executes array column or vector lane `u` in the region of a core: itself, or the spare it has been remapped to, once the
region has come to a command boundary (R399). -/
def Cluster.unitOf (k : Cluster) (core u : Nat) : Nat :=
  let e := SMap.get ({} : Suspect) k.suspects u
  if !e.quar then u else if e.left.contains core then e.was else e.map

/-- The suspect score of unit `u` of a cluster after a mismatch (R399). -/
def State.charge (s : State) (cl u : Nat) (settled : Bool) : State :=
  let k := s.cluster cl
  let e := SMap.get ({} : Suspect) k.suspects u
  let e := if settled then { e with mism := (e.mism + 1) % 2 ^ 32, score := min 255 (e.score + 16) } else { e with unres := min 255 (e.unres + 1) }
  let thr := k.sethr.toNat % 256
  let s := s.setCluster cl { k with suspects := SMap.put ({} : Suspect) k.suspects u e }
  if thr ≠ 0 ∧ thr ≤ e.score ∧ e.quar = false then s.after 0 (.quarantineRemap cl u) else s

/-- The outcome of double firing for the next vector instruction of a core (R398): a settled mismatch charges the lane; an
unresolved one delivers the activation again, the second time it traps. -/
def laneCheck (s : State) (f : State → Res) : Res :=
  match s.cur with
  | .hart _ _ => f s
  | .ctx c x =>
    match (s.core c).vmism with
    | [] => f s
    | (lane, ok) :: t =>
      let s := (s.modCore c fun k => { k with vmism := t }).charge (clOf c) ((s.cluster (clOf c)).unitOf c (256 + 35 * (c % 16) + lane)) ok
      if ok then f s
      else if 1 ≤ s.cx.act.vmis then .done (s.takeTrap c x 0x19 lane)
      else .done ((s.modCx fun k => { k with act := { k.act with vmis := k.act.vmis + 1 } }).abort c x true)

/-- A vector instruction. -/
def vrun (o : Ops) (s : State) (f : State → Res) : Host.Outcome State Fault Refusal := run o s fun s => laneCheck s f

/-- An elementwise instruction. -/
def vmap1 (o : Ops) (s : State) (f : State → VTy → Nat → Nat × FFlags) : Host.Outcome State Fault Refusal :=
  vrun o s fun s => .ok (vput o s (vty o) fun i => f s (vty o) i)

/-- An integer result without flags. -/
def noFlags (n : Nat) : Nat × FFlags := (n, {})

/-- A float operation on codes with FTZ where the type is F32 (R83, R185). -/
def flt2 (s : State) (f : BinFmt) (g : Nat → Nat → Nat × FFlags) (a b : Nat) : Nat × FFlags :=
  let z := s.ftz && f == f32
  f.flushOut z (g (f.flushIn z a) (f.flushIn z b))

/-- A two-source operation: on integers, or on floats (R186). -/
def vbin (o : Ops) (s : State) (int : VTy → Nat → Nat → Nat) (flt : BinFmt → Nat → Nat → Nat × FFlags) :
    Host.Outcome State Fault Refusal :=
  vmap1 o s fun s t i =>
    let a := vsrcA o s t i
    let b := vsrcB o s t i
    match t.flt with
    | some f => flt2 s f (flt f) a b
    | none => noFlags (int t a b)

/-! Elementwise arithmetic (R186, R187). -/

def execVadd (o : Ops) (s : State) : Host.Outcome State Fault Refusal :=
  vbin o s (fun t a b => t.wrap (opf o == 1) (t.int a + t.int b)) fun f => fpAdd f false
def execVsub (o : Ops) (s : State) : Host.Outcome State Fault Refusal :=
  vbin o s (fun t a b => t.wrap (opf o == 1) (t.int a - t.int b)) fun f => fpAdd f true
def execVmul (o : Ops) (s : State) : Host.Outcome State Fault Refusal :=
  vbin o s (fun t a b =>
    let p := t.int a * t.int b
    ofSigned t.w (if opf o = 1 then p.fdiv (2 ^ t.w : Nat) else p)) fun f => fpMul f

/-- VFMA: float signs as FFMA (R107). -/
def execVfma (o : Ops) (s : State) : Host.Outcome State Fault Refusal :=
  vmap1 o s fun s t i =>
    let a := vsrcA o s t i
    let b := vsrcB o s t i
    let c := vsrcC o s t i
    match t.flt with
    | some f =>
      let z := s.ftz && f == f32
      f.flushOut z (fpFma f ((opf o).testBit 1) ((opf o).testBit 0) (f.flushIn z a) (f.flushIn z b) (f.flushIn z c))
    | none => noFlags ((a * b + c) % 2 ^ t.w)

/-- The integer quotient of R187. -/
def vquot (t : VTy) (a b : Nat) : Nat := if b = 0 then 2 ^ t.w - 1 else ofSigned t.w (Int.tdiv (t.int a) (t.int b))

def execVdiv (o : Ops) (s : State) : Host.Outcome State Fault Refusal := vbin o s vquot fun f => fpDiv f
def execVmin (o : Ops) (s : State) : Host.Outcome State Fault Refusal :=
  vbin o s (fun t a b => if t.int b < t.int a then b else a) fun f => f.minMax true (opf o == 1)
def execVmax (o : Ops) (s : State) : Host.Outcome State Fault Refusal :=
  vbin o s (fun t a b => if t.int a < t.int b then b else a) fun f => f.minMax false (opf o == 1)

/-- |A| of a float (R186, R84). -/
def fpAbs (f : BinFmt) (a : Nat) : Nat × FFlags :=
  match f.decode a with
  | .nan sg => (f.nanCode, { nv := sg })
  | _ => (a % 2 ^ (f.eb + f.fb), {})

/-- A one-source operation. -/
def vuna (o : Ops) (s : State) (int : VTy → Nat → Nat) (flt : BinFmt → Nat → Nat × FFlags) :
    Host.Outcome State Fault Refusal :=
  vmap1 o s fun s t i =>
    let a := vsrcA o s t i
    match t.flt with
    | some f => flt2 s f (fun a _ => flt f a) a 0
    | none => noFlags (int t a)

def execVabs (o : Ops) (s : State) : Host.Outcome State Fault Refusal :=
  vuna o s (fun t a => t.wrap (opf o == 1) ((t.int a).natAbs : Nat)) fpAbs

/-- A bitwise operation on element patterns of any type. -/
def vbits (o : Ops) (s : State) (f : Nat → Nat → Nat) : Host.Outcome State Fault Refusal :=
  vmap1 o s fun s t i =>
    let b := vsrcB o s t i
    noFlags (f (vsrcA o s t i) (if opf o = 1 then 2 ^ t.w - 1 - b else b))

def execVand (o : Ops) (s : State) : Host.Outcome State Fault Refusal := vbits o s Nat.land
def execVor (o : Ops) (s : State) : Host.Outcome State Fault Refusal := vbits o s Nat.lor
def execVxor (o : Ops) (s : State) : Host.Outcome State Fault Refusal := vbits o s Nat.xor

/-- An operation that only integer types have. -/
def vint (o : Ops) (s : State) (f : VTy → Nat → Nat → Nat) : Host.Outcome State Fault Refusal :=
  vmap1 o s fun s t i => noFlags (f t (vsrcA o s t i) (vsrcB o s t i))

def execVshl (o : Ops) (s : State) : Host.Outcome State Fault Refusal :=
  vint o s fun t a b => if b < t.w then a * 2 ^ b % 2 ^ t.w else 0
def execVshr (o : Ops) (s : State) : Host.Outcome State Fault Refusal :=
  vint o s fun t a b => if b < t.w then a / 2 ^ b else 0
def execVsar (o : Ops) (s : State) : Host.Outcome State Fault Refusal :=
  vint o s fun t a b => ofSigned t.w ((toSigned t.w a).fdiv (2 ^ min b (t.w - 1) : Nat))

def execVsqrt (o : Ops) (s : State) : Host.Outcome State Fault Refusal := vuna o s (fun _ a => a) fpSqrt

/-- A transcendental (R188): the same input gives the same bits (`Config.approx`). -/
def vtrans (o : Ops) (s : State) (op : Nat) : Host.Outcome State Fault Refusal :=
  vuna o s (fun _ a => a) fun f a =>
    transcend f (f != f32) op (opf o == 1) (Config.approx op (opf o) o.fn6 a) (f.decode a)

def execVrsq (o : Ops) (s : State) : Host.Outcome State Fault Refusal := vtrans o s 0x8F
def execVexp (o : Ops) (s : State) : Host.Outcome State Fault Refusal := vtrans o s 0x90
def execVlog (o : Ops) (s : State) : Host.Outcome State Fault Refusal := vtrans o s 0x91
def execVrcp (o : Ops) (s : State) : Host.Outcome State Fault Refusal := vtrans o s 0x92
def execVtanh (o : Ops) (s : State) : Host.Outcome State Fault Refusal := vtrans o s 0x93
def execVsig (o : Ops) (s : State) : Host.Outcome State Fault Refusal := vtrans o s 0x94

/-! Table interpolation (R189, R190). -/

/-- floor(u) limited to 0 .. N−1, for a u that is no NaN. -/
def segment (u : Val) (n : Nat) : Nat :=
  match u with
  | .inf neg => if neg then 0 else n - 1
  | .fin neg m e _ => if neg then 0 else min (n - 1) (if 0 ≤ e then m * 2 ^ e.toNat else m / 2 ^ (-e).toNat)
  | .nan _ => 0

/-- RoundNE(x · scale + offset) of R190; FTZ acts on x, where it is an F32 element (R83, R185; DEDUCED, log entry 110). -/
def tblIndex (s : State) (o : Ops) (t : VTy) (x : Nat) : Nat × FFlags :=
  let wide := match t.flt with
    | some f => if f == f32 then f32.flushIn s.ftz x else (f32.encode 0 true (match f.decode x with
        | .nan _ => .nan false
        | v => v)).1
    | none => 0
  let sig : FFlags := { nv := match t.flt with
    | some f => (f.decode x).isSig
    | none => false }
  let (u, fl) := fpFma f32 false false wide (o.form.ext % 2 ^ 32) (o.form.ext / 2 ^ 32)
  (u, fl.or sig)

/-- The element of R190 from its index value and its segment's words; FTZ acts on an F32 result alone (R83; DEDUCED, log entry 110). -/
def tblElem (s : State) (clampIt : Bool) (t : VTy) (u n c0 c1 : Nat) : Nat × FFlags :=
  let seg := segment (f32.decode u) n
  let (f, fl1) := f32.arith ((f32.decode u).add (.ofInt (-(seg : Int))))
  let v := f32.decode f
  let f := if !clampIt then f else if v.lt .zero then 0 else if (Val.ofInt 1).lt v then 0x3F800000 else f
  let (y, fl2) := fpFma f32 false false c1 f c0
  let (r, fl3) : Nat × FFlags := match t.flt with
    | some g => if g == f32 then f32.flushOut s.ftz (y, {}) else g.arith (f32.decode y, false)
    | none => (y, {})
  (r, (fl1.or fl2).or fl3)

/-- VTBL (R189, R190): the segments of the active elements are read as synchronous loads. -/
def execVtbl (o : Ops) (s : State) : Host.Outcome State Fault Refusal :=
  vrun o s fun s =>
    let t := vty o
    let n := opf o + 1
    let a := (s.rg o.a.toNat).toNat
    let own (off : Nat) : Res :=
      if a % 8 ≠ 0 then .trap 0x03 a
      else if 2 ^ 22 < off + 8 * n then .trap 0x09 a
      else
        let src := s.rv o.b.toNat
        let us := ((List.range t.lanes).filter fun i => (vmask o s).getLsbD (t.grp * i)).map fun i =>
          (i, tblIndex s o t (elem src t.w i))
        let live := us.filter fun (_, u, _) => !(f32.decode u).isNan
        loadElems s false (live.map fun (_, u, _) => a + 8 * segment (f32.decode u) n) 8 fun ws s' =>
          let segs := (List.zip live ws).map fun ((i, _, _), bs) => (i, natOfBytes (bs.take 4), natOfBytes (bs.drop 4))
          let res := us.map fun (i, u, fl) =>
            match segs.find? (·.1 == i) with
            | some (_, c0, c1) =>
              let (r, g) := tblElem s (opx o) t u n c0 c1
              (i, r, fl.or g)
            | none => (i, (t.flt.map BinFmt.nanCode).getD 0, fl)
          let old := s.rv o.d.toNat
          let x := vreg t.w ((List.range t.lanes).map fun i =>
            match res.find? (·.1 == i) with
            | some (_, r, _) => r
            | none => if zi o then 0 else elem old t.w i)
          .ok ((s'.wv o.d.toNat x).flag (orFlags (res.map fun r => r.2.2)))
    match spaceOf s.cur.cl a with
    | .spad cl off => if cl = s.cur.cl then own off else .trap 0x09 a
    | _ => .trap 0x09 a

/-! Conversion (R191, R192). -/

/-- The lane type W: width, float format, signedness. -/
def laneTy (w : Nat) : VTy :=
  match w with
  | 0 => vtyOf 10
  | 1 => vtyOf 12
  | 2 => vtyOf 13
  | 3 => vtyOf 32
  | 4 => vtyOf 33
  | 5 => vtyOf 6
  | _ => vtyOf 4

/-- The value of a W lane. -/
def laneDecode (s : State) (w : Nat) (x : Nat) : Val :=
  let t := laneTy w
  match t.flt with
  | some f => f.decode (f.flushIn (s.ftz && w == 0) x)
  | none => .ofInt (t.int x)

/-- A value as a W lane. With FTZ an F32 subnormal result is flushed with UF and NX, of an exact decode too (R83, R87; DESIGN CHOICE, log
entry 107). -/
def laneEncode (s : State) (w rm : Nat) (v : Val) : Nat × FFlags :=
  let t := laneTy w
  match t.flt with
  | some f => f.flushOut (s.ftz && w == 0) (f.encode rm false v)
  | none =>
    let (i, f) := encodeRange t.lo t.hi rm v
    (ofSigned t.w i, f)

/-- X is W (R192): rounding to an integral value. -/
def sameType (x w : Nat) : Bool := (x == 0x0A && w == 0) || (x == 0x0C && w == 1) || (x == 0x0D && w == 2)

/-- A value rounded to an integral one under RM, in a float lane type. -/
def integral (s : State) (w rm : Nat) (v : Val) : Nat × FFlags :=
  match v with
  | .fin neg m e st =>
    let (q, x) := roundAt rm neg m e st 0
    let (r, fl) := laneEncode s w 0 (.fin neg q 0 false)
    (r, { fl with nx := fl.nx || x })
  | v => laneEncode s w rm v

/-- One element of VCVT: `up` from X to W. -/
def cvtElem (s : State) (up : Bool) (x w rm : Nat) (c : Int) (a : Nat) : Nat × FFlags :=
  let xin := if x = 0x0A then f32.flushIn s.ftz a else a
  let v := if up then fmtDecode x c xin else laneDecode s w a
  if sameType x w then integral s w rm v
  else if up then laneEncode s w rm v
  else
    let r := fmtEncode x rm c v
    if x = 0x0A then f32.flushOut s.ftz r else r

/-- VCVT (R191, R192). -/
def execVcvt (o : Ops) (s : State) : Host.Outcome State Fault Refusal :=
  vrun o s fun s =>
    let x := o.fnBits 4 0
    let up := o.fnBits 5 5 == 1
    let w := opf o % 8
    let rm := opf o / 8 % 8
    let part := o.modBits 57 53
    let t := laneTy w
    let nx := fmtBits x
    let m := min (1024 / t.w) (1024 / nx)
    let bad := if nx ≤ t.w then decide (1024 < (part + 1) * m * nx) else decide (1024 / t.w < (part + 1) * m)
    if bad then .trap 0x01 (opWord 0x96 o)
    else
      let src := s.rv o.a.toNat
      let cen := s.rg o.form.c.toNat
      -- stream position and lane of element j
      let pos (j : Nat) : Nat × Nat := if nx ≤ t.w then (part * m + j, j) else (j, part * m + j)
      let res := (List.range m).map fun j =>
        let (q, l) := pos j
        let c := if fmtSprig x && o.form.c != 0 then centreOf (cen.toNat / 2 ^ (8 * (q / 64)) % 256) else 0
        if vactive o s t l then some (cvtElem s up x w rm c (if up then elem src nx q else elem src t.w l)) else none
      let dw := if up then t.w else nx
      let old := (s.rv o.d.toNat).toNat
      let x := (List.zip (List.range m) res).foldl (fun a (j, r) =>
        let p := if up then (pos j).2 else (pos j).1
        let put (v : Nat) : Nat := a - a / 2 ^ (dw * p) % 2 ^ dw * 2 ^ (dw * p) + v % 2 ^ dw * 2 ^ (dw * p)
        match r with
        | some (v, _) => put v
        | none => if zi o then put 0 else a) old
      .ok ((s.wv o.d.toNat (BitVec.ofNat 1024 x)).flag (orFlags (res.filterMap fun r => r.map (·.2))))

/-! Compares and masks (R193, R194). -/

/-- The condition of VCMP, with NV. -/
def vcmpCond (s : State) (t : VTy) (c a b : Nat) : Bool × Bool :=
  match t.flt with
  | some f =>
    let z := s.ftz && f == f32
    let va := f.decode (f.flushIn z a)
    let vb := f.decode (f.flushIn z b)
    (match c with
      | 4 => fpCompare 2 vb va
      | 5 => fpCompare 3 vb va
      | 6 => fpCompare 4 va vb
      | c => fpCompare c va vb)
  | none =>
    let x := t.int a
    let y := t.int b
    (match c with
      | 0 => decide (x = y)
      | 1 => decide (x ≠ y)
      | 2 => decide (x < y)
      | 3 => decide (x ≤ y)
      | 4 => decide (y < x)
      | _ => decide (y ≤ x), false)

/-- A mask from a bit per mask position. -/
def maskOf (f : Nat → Bool) : MReg := BitVec.ofNat 128 (packElems 1 ((List.range 128).map fun j => if f j then 1 else 0))

/-- VCMP (R193). -/
def execVcmp (o : Ops) (s : State) : Host.Outcome State Fault Refusal :=
  vrun o s fun s =>
    let t := vty o
    let rs := (List.range t.lanes).map fun i => vcmpCond s t (opf o % 16) (vsrcA o s t i) (vsrcB o s t i)
    let old := s.rm o.d.toNat
    let m := maskOf fun j =>
      let i := j / t.grp
      if vactive o s t i then combine (opf o / 16) (old.getLsbD j) (rs.getD i (false, false)).1
      else if zi o then false else old.getLsbD j
    .ok ((s.wm o.d.toNat m).flag { nv := (vactives o s t).any fun i => (rs.getD i (false, false)).2 })

/-- m[D] from m[A] and m[B], the latter inverted under `.n` (R194). -/
def maskOp (o : Ops) (s : State) (f : MReg → MReg → MReg) : Host.Outcome State Fault Refusal :=
  vrun o s fun s =>
    let b := s.rm o.b.toNat
    .ok (s.wm o.d.toNat (f (s.rm o.a.toNat) (if opf o = 1 then ~~~b else b)))

def execMand (o : Ops) (s : State) : Host.Outcome State Fault Refusal := maskOp o s fun a b => a &&& b
def execMor (o : Ops) (s : State) : Host.Outcome State Fault Refusal := maskOp o s fun a b => a ||| b
def execMxor (o : Ops) (s : State) : Host.Outcome State Fault Refusal := maskOp o s fun a b => a ^^^ b
def execMnot (o : Ops) (s : State) : Host.Outcome State Fault Refusal :=
  vrun o s fun s => .ok (s.wm o.d.toNat (~~~(s.rm o.a.toNat)))

/-- MPOP (R194). -/
def execMpop (o : Ops) (s : State) : Host.Outcome State Fault Refusal :=
  vrun o s fun s =>
    let t := vty o
    let n := vcount o s t.lanes
    let hits := (List.range n).filter fun i => (s.rm o.a.toNat).getLsbD (t.grp * i)
    .ok (s.wg o.d.toNat (BitVec.ofNat 64 (if opf o = 1 then hits.headD n else hits.length)))

end Sys2Proof.Machine
end

