-- ==== Sys2Proof/Machine/MatrixUnit.lean ====
section
/-! DEFINITION. The cluster array: acceptance, start and completion of matrix commands (R207–R212, R216, R218, R223–R233),
cooperative results (R223–R225, R461), double firing and quarantine (R220, R398, R399). -/
namespace Sys2Proof.Machine

open Sys2Proof

/-! Slots. -/

/-- The accumulator format of a slot (R18, R88). -/
def ASlot.fmt (a : ASlot) : BinFmt := if a.st == .state then f40 else f32

/-- Element (i, j), as its code. -/
def ASlot.el (a : ASlot) (i j : Nat) : Nat := (SMap.get 0 a.acc (32 * i + j)).toNat

/-- A slot with every element given by its code. -/
def ASlot.fill (a : ASlot) (f : Nat → Nat → Nat) : ASlot :=
  { a with acc := (List.range 1024).foldl (fun m e => SMap.put 0 m e (BitVec.ofNat 40 (f (e / 32) (e % 32)))) [] }

/-- One element replaced. -/
def ASlot.setEl (a : ASlot) (i j v : Nat) : ASlot := { a with acc := SMap.put 0 a.acc (32 * i + j) (BitVec.ofNat 40 v) }

/-- A command of a region queue replaced. -/
def State.modCmd (s : State) (core ix : Nat) (f : MCmd → MCmd) : State :=
  s.modCore core fun k => { k with regionQ := k.regionQ.mapIdx fun i c => if i = ix then f c else c }

/-- The command has had its effect and can complete, with a cause of failure or 0. -/
def State.cmdDone (s : State) (core ix err tval : Nat) : State :=
  s.modCmd core ix fun c => { c with phase := .done, err := err, tval := tval }

def State.modSlot (s : State) (core sl : Nat) (f : ASlot → ASlot) : State :=
  s.modCore core fun k => k.setAslot sl (f (k.aslot sl))

/-! Acceptance (R209, R241, R244, R248, R249). -/

/-- The commands that claim a FREE slot. -/
def MOp.claims (op : MOp) : Bool := [.mzero, .mldc, .mma, .mmag, .sbcfg].contains op

/-- Whether a command is accepted on a slot in a state; `own` when the slot's tag names the issuing context. -/
def MOp.accepts (op : MOp) (st : SlotState) (own : Bool) : Bool :=
  match st with
  | .free => op.claims || op == .mrel
  | .busy | .held => own && op != .sbstep
  | .orphaned => op == .mrel
  | .state => own && [.mma, .mmag, .mrel, .sbcfg, .sbstep, .sbread].contains op

/-- The completion of a command (R207, R208): its signal carries the context of its slot's tag as affinity; a failed command without a
completion slot raises a record of its own cause. -/
def State.cmdSignal (s : State) (core : Nat) (c : MCmd) (err : Nat) (failed : Bool) : State :=
  match c.cmpl with
  | some k => s.sendPkt { (c.org.resp k.core k.tag (.sig k.fid k.k err (some c.tagCtx) true)) with dst := core }
  | none => if failed then s.record c.org (if c.err ≠ 0 then c.err else err) c.tval else s

/-- A slot on which no command is outstanding and none waits in the lane returns to HELD, or enters ORPHANED when it is
marked (R210, R211). -/
def Core.settle (k : Core) (sl : Nat) : Core :=
  let a := k.aslot sl
  if a.busy ≠ 0 || a.st == .free then k
  else if a.orphan then
    if k.lane.any fun c => c.sl == sl && c.ctx == a.ctx then k else k.setAslot sl { a with st := .orphaned, orphan := false }
  else if a.st == .busy then k.setAslot sl { a with st := .held }
  else k

/-- The state and tag that decide a command's acceptance (R209): a slot in STATE is FREE behind an accepted MREL, and BUSY under the next
command's tag behind that. -/
def ASlot.seen (a : ASlot) : SlotState × Nat :=
  match a.rel, a.next with
  | true, some x => (.busy, x)
  | true, none => (.free, 0)
  | false, _ => (a.st, a.ctx)

/-- The context of the tag that a command on the slot meets; a FREE slot has none, and the command's own stands for it (R208). -/
def ASlot.tagOf (a : ASlot) (c : MCmd) : Nat := if a.seen.1 == .free then c.ctx else a.seen.2

/-- A slot released with zero contents (R233). -/
def ASlot.freed (a : ASlot) : ASlot := { a with st := .free, ctx := 0, orphan := false, acc := [], bank := {}, rel := false, next := none, nextOrphan := false }

/-- A slot once a command has been accepted on it (R209). An MREL with nothing before it frees an ORPHANED slot, or one in STATE, at
once. A command that was marked in the lane marks the slot that it claims (R211). -/
def ASlot.accept (a : ASlot) (c : MCmd) : ASlot :=
  let b := { a with busy := a.busy + 1 }
  if a.rel then (if a.next.isNone && c.op.claims then { b with next := some c.ctx, nextOrphan := c.marked } else b)
  else if c.op == .mrel then
    if a.st == .orphaned || (a.st == .state && a.busy == 0) then b.freed
    else if a.st == .state then { b with rel := true }
    else b
  else if a.st == .free && c.op.claims then { b with st := .busy, ctx := c.ctx, orphan := c.marked }
  else if a.st == .held then { b with st := .busy }
  else b

/-- Ticks of `n` arithmetic cycles, two core cycles each (R6). -/
def State.arith (s : State) (n : Nat) : Nat := s.cyc (2 * n)

/-- MATRIX_COMMAND_ACCEPT (R209, R213): the lane's first command enters the region queue, or is refused. -/
def State.acceptCmd (s : State) (core : Nat) : State :=
  let k := s.core core
  match k.lane with
  | [] => s
  | c :: t =>
    if 16 ≤ k.regionQ.length then s
    else
      let a := k.aslot c.sl
      let k := { k with lane := t }
      let c := { c with tagCtx := a.tagOf c }
      if c.op.accepts a.seen.1 (a.seen.2 == c.ctx) then
        let c := { c with since := s.time, claimed := a.seen.1 == .free && c.op.claims }
        let s := s.setCore core { k.setAslot c.sl (a.accept c) with regionQ := snoc k.regionQ c }
        -- the time of a group command counts from here (R225)
        if c.op = .mmag then s.after (s.arith (2 ^ 20)) (.groupCommandTimeout core c.seq) else s
      else (s.setCore core (k.settle c.sl)).cmdSignal core c 0x1A true

def execMatrixCommandAccept (core : Nat) (s : State) : Host.Outcome State Fault Refusal := .next (s.acceptCmd core)

/-! Operand reads (R214–R216, R302, R461). -/

/-- What an operand element reads as: its code and 0, or the cause with which its data are bad (R461). -/
structure OpEl where
  code : Nat
  bad : Nat := 0
  deriving DecidableEq, Repr

/-- Element `e` of `n` bits of the row at `off`, in the own scratchpad, as a command of `core` reads it that issued behind the first `past`
overwritten bytes (R216). -/
def Cluster.opEl (k : Cluster) (core past off n e : Nat) : OpEl :=
  let lo := off + n * e / 8
  let len := (n * e % 8 + n + 7) / 8
  let bs := (List.range len).map fun i => if k.guarded (lo + i) then 0 else k.cmdByte core past (lo + i)
  { code := natOfBytes bs / 2 ^ (n * e % 8) % 2 ^ n
    bad := if anyPoison k.sbad lo len then 0x10 else if anyPoison k.spoison lo len then 0x11 else 0 }

/-- The elements `els` of one row read by a command: furniture is logged, uncorrectable words become poisoned. -/
def State.opRow (s : State) (cl off n : Nat) (els : List Nat) (org : Origin) (past : Nat) : List (Nat × OpEl) × State :=
  let k := s.cluster cl
  let vs := els.map fun e => (e, k.opEl org.core past off n e)
  let s := els.foldl (fun t e => t.poisonSpad cl (off + n * e / 8) ((n * e % 8 + n + 7) / 8)) s
  let touch := els.findSome? fun e => k.firstGuarded (off + n * e / 8) ((n * e % 8 + n + 7) / 8)
  (vs, match touch with
    | some o => s.logGuard cl o org
    | none => s)

/-- The elements of a panel by row, as they are read. -/
abbrev Panel := List (Nat × List (Nat × OpEl))

/-- The bytes read lie below the usable groups (R461). -/
def State.rowsUsable (s : State) (cl off stride n : Nat) (rows els : List Nat) : Bool :=
  rows.all fun r => els.all fun e => decide (off + r * stride + (n * (e + 1) + 7) / 8 ≤ 2048 * (s.cluster cl).ug)

/-- A panel read from the scratchpad: `rows` and, in each, `els`. -/
def State.readPanel (s : State) (cl off stride n : Nat) (rows els : List Nat) (org : Origin) (past : Nat) : Panel × State :=
  rows.foldl (fun (r : Panel × State) i =>
    let (vs, t) := r.2.opRow cl (off + i * stride) n els org past
    (snoc r.1 (i, vs), t)) ([], s)

/-- A panel of a stream: `nr` rows of `ne` elements, whole (R214). -/
def panelOfBytes (n nr ne : Nat) (bs : List Byte) : Panel :=
  let w := (ne * n + 7) / 8
  (List.range nr).map fun i =>
    let v := natOfBytes ((bs.drop (i * w)).take w)
    (i, (List.range ne).map fun e => (e, { code := v / 2 ^ (n * e) % 2 ^ n }))

/-- The element of a panel; `none` where it was not read. -/
def Panel.at_ (p : Panel) (i e : Nat) : Option OpEl :=
  ((p.find? fun r => r.1 == i).map (·.2)).bind fun r => (r.find? fun x => x.1 == e).map (·.2)

/-- The value of an operand element: bad data enter as a NaN (R461). -/
def OpEl.val (fmt : Nat) (c : Int) (x : OpEl) : Val := if x.bad ≠ 0 then .nan false else fmtDecode fmt c x.code

/-- Indices whose bit is set. -/
def maskIdx (m : Nat) : List Nat := (List.range 32).filter m.testBit

/-- What reading an operand answers: a panel, a failure, or that a stream has not delivered it. -/
inductive OpRead where
  | ok (p : Panel) (s : State)
  | fail (cause tval : Nat) (s : State)
  | wait (s : State)

/-- The bytes of a stream panel taken by a region. -/
def State.streamPanel (s : State) (core gen : Nat) (v : Word) (n nr ne : Nat) : OpRead :=
  match s.streamTake gen (wbits v 7 0) ⟨1, clOf core, core % 16⟩ (nr * ((ne * n + 7) / 8)) with
  | .ok bs t => .ok (panelOfBytes n nr ne bs) t
  | .fail c v t => .fail c v t
  | .wait t => .wait t

/-! Sums (R88, R218). -/

/-- R88 from the code `c`: `k` products, of which those given are taken and the others are +0. -/
def mmaSum (f : BinFmt) (c : Nat) : List Val → Nat
  | [] => c
  | p :: t => mmaSum f (roundNE f ((f.decode c).add p).1) t

/-- The products of one element. -/
def products (n : Nat) (f : Nat → Option (Val × Val)) : List Val :=
  (List.range n).map fun k =>
    match f k with
    | some (x, y) => (x.mul y).1
    | none => .zero

/-- The PEs of a cluster array whose next firings disagree (R398), as they fall into the region of a core: row and column
within it, and whether a spare settles it. -/
def State.mismatches (s : State) (core : Nat) : List (Nat × Nat × Bool) :=
  let r := core % 16
  (s.cluster (clOf core)).pmism.filterMap fun (col, row, ok) =>
    if row / 32 = r / 4 ∧ col / 32 = r % 4 then some (row % 32, col % 32, ok) else none

/-- The mismatches of a region taken and charged (R399). -/
def State.takeMismatches (s : State) (core : Nat) : State :=
  let cl := clOf core
  let r := core % 16
  let mine (x : Nat × Nat × Bool) : Bool := x.2.1 / 32 == r / 4 && x.1 / 32 == r % 4
  let all := (s.cluster cl).pmism
  let s := s.modCluster cl fun k => { k with pmism := k.pmism.filter fun x => !mine x }
  (all.filter mine).foldl (fun t (col, _, ok) => t.charge cl ((t.cluster cl).unitOf core col) ok) s

/-- One member of a multiplication: what it needs beside its operands. -/
structure MmaJob where
  core : Nat
  cmd : MCmd
  /-- Effective masks. -/
  rows : Nat
  cols : Nat
  /-- The panels, and where this member's rows and columns stand in them. -/
  a : Panel
  b : Panel

/-- The factors of element (i, j) at depth `k`; `none` where R88 takes +0. -/
def MmaJob.factors (m : MmaJob) (i j k : Nat) : Option (Val × Val) :=
  let d := m.cmd.desc
  if !m.rows.testBit i || !m.cols.testBit j || mmaDepth d ≤ k then none
  else
    match m.a.at_ i k, m.b.at_ k j with
    | some x, some y => some (x.val (mmaFa d) (mmaCa d), y.val (mmaFb d) (mmaCb d))
    | _, _ => none

/-- The cause with which bad operand data that reach the member's slot end it (R461). -/
def MmaJob.badCause (m : MmaJob) : Nat :=
  let d := m.cmd.desc
  let ks := List.range (mmaDepth d)
  let as := (maskIdx m.rows).flatMap fun i => ks.filterMap fun k => (m.a.at_ i k).map (·.bad)
  let bs := (maskIdx m.cols).flatMap fun j => ks.filterMap fun k => (m.b.at_ k j).map (·.bad)
  if m.rows % 2 ^ 32 = 0 || m.cols % 2 ^ 32 = 0 then 0
  else if (as ++ bs).contains 0x10 then 0x10
  else if (as ++ bs).contains 0x11 then 0x11
  else 0

/-- A member's slot once its sums are formed (R218, R398), and its command done. -/
def State.mmaFinish (s : State) (m : MmaJob) (ix : Nat) : State :=
  let a := (s.core m.core).aslot m.cmd.sl
  let f := a.fmt
  let wrong := (s.mismatches m.core).filter fun (_, _, ok) => !ok
  let sum (i j : Nat) : Nat :=
    if wrong.any fun (r, c, _) => r == i && c == j then f.nanCode
    else mmaSum f (a.el i j) (products (mmaK m.cmd.desc) (m.factors i j))
  let s := (s.modSlot m.core m.cmd.sl fun a => a.fill sum).takeMismatches m.core
  let (err, tval) : Nat × Nat :=
    match wrong with
    | (r, c, _) :: _ => (0x19, (32 * (m.core % 16 / 4) + r) * 128 + 32 * (m.core % 16 % 4) + c)
    | [] => (m.badCause, 0)
  s.cmdDone m.core ix err tval

/-- The depth positions read. -/
def depthIdx (d : Nat) : List Nat := List.range (mmaDepth d)

/-- The A panel of a member at row offset `add` (R214, R224): rows by mask, elements below DEPTH. -/
def State.readA (s : State) (core : Nat) (c : MCmd) (rows add : Nat) : OpRead :=
  let n := fmtBits (mmaFa c.desc)
  if epStream c.ga then s.streamPanel core c.org.gen c.ga n 32 (mmaK c.desc)
  else
    let off := epOff c.ga + add
    let (p, t) := s.readPanel (clOf core) off (epStride c.ga) n (maskIdx rows) (depthIdx c.desc) c.org c.past
    .ok p t

/-- The B panel of a member at column offset `add`. -/
def State.readB (s : State) (core : Nat) (c : MCmd) (cols add : Nat) : OpRead :=
  let n := fmtBits (mmaFb c.desc)
  if epStream c.gb then s.streamPanel core c.org.gen c.gb n (mmaK c.desc) 32
  else
    let (p, t) := s.readPanel (clOf core) (epOff c.gb + add) (epStride c.gb) n (depthIdx c.desc) (maskIdx cols) c.org c.past
    .ok p t

/-- Whether a command's reads lie below the usable groups (R461). -/
def State.mmaUsable (s : State) (core : Nat) (c : MCmd) (r : MmaReads) : Bool :=
  (epStream c.ga || s.rowsUsable (clOf core) (epOff c.ga + r.aOff) (epStride c.ga) (fmtBits (mmaFa c.desc)) (maskIdx r.rows) (depthIdx c.desc))
    && (epStream c.gb
      || s.rowsUsable (clOf core) (epOff c.gb + r.bOff) (epStride c.gb) (fmtBits (mmaFb c.desc)) (depthIdx c.desc) (maskIdx r.cols))

/-- What the streams of `u` still need is noted in `s`, from which nothing is taken. -/
def State.noteWants (s u : State) : State :=
  { s with streams := s.streams.map fun x =>
      match u.streams.find? (fun y => y.gen == x.gen && y.port == x.port && y.branch == x.branch) with
      | some y => if y.want = 0 then x else { x with want := y.want + (x.here.length - y.here.length) }
      | none => x }

/-- A plain MMA (R218). Both operands from one stream: the A panel comes first. -/
def State.runMma (s : State) (core ix : Nat) (c : MCmd) : State :=
  let r := mmaReads false c.geom c.ga c.gc c.desc
  if !s.mmaUsable core c r then s.cmdDone core ix 0x12 0
  else
    match s.readA core c r.rows r.aOff with
    | .fail e v t => t.cmdDone core ix e v
    | .wait t => t
    | .ok a t =>
      match t.readB core c r.cols r.bOff with
      | .fail e v t => t.cmdDone core ix e v
      -- nothing is taken before both panels are there
      | .wait u => s.noteWants u
      | .ok b t => t.mmaFinish { core := core, cmd := c, rows := wbits c.gc 31 0, cols := wbits c.gc 63 32, a := a, b := b } ix

/-! Group commands (R223–R225, R461). -/

/-- The member cores of a group with their places (R221). -/
def Geom.members (g : Geom) : List (Nat × Nat × Nat) :=
  (List.range g.gr).flatMap fun a => (List.range g.gc).map fun b => (a, b, g.core a b)

/-- The group command that stands at the head of a member's queue. -/
def State.headMmag (s : State) (core key seq : Nat) : Option MCmd :=
  match (s.core core).regionQ with
  | c :: _ => if c.op = .mmag ∧ c.phase ≠ .done ∧ mseqKey c.geom c.org.gen = key ∧ c.seq = seq then some c else none
  | [] => none

/-- Every own store before the command has been performed (R216). -/
def State.storesIn (s : State) (core : Nat) (c : MCmd) : Bool :=
  let now := s.pendingOwn core
  !(c.behind.any now.contains)

/-- The group's commands, if every member's stands at the head of its queue. -/
def State.atHeads (s : State) (c : MCmd) : Option (List (Nat × Nat × Nat × MCmd)) :=
  let key := mseqKey c.geom c.org.gen
  let ms := (geomOf c.geom).members.map fun (a, b, m) => (a, b, m, s.headMmag m key c.seq)
  if ms.all fun (_, _, _, x) => x.isSome then some (ms.filterMap fun (a, b, m, x) => x.map fun d => (a, b, m, d)) else none

/-- The group's commands, once they can start. -/
def State.assembled (s : State) (c : MCmd) : Option (List (Nat × Nat × Nat × MCmd)) :=
  match s.atHeads c with
  | some ms => if ms.all fun (_, _, m, d) => s.storesIn m d then some ms else none
  | none => none

/-- The panels of the group's edge members, in member order; `none` while a stream has not delivered. -/
def State.groupPanels (s : State) (west : Bool) : List (Nat × Nat × Nat × MCmd) → Except (Option (Nat × Nat) × State) (List (Nat × Panel) × State)
  | [] => .ok ([], s)
  | (a, b, m, c) :: t =>
    let r := mmaReads true c.geom c.ga c.gc c.desc
    let here := if west then b = 0 else a = 0
    if here then
      match (if west then s.readA m c r.rows r.aOff else s.readB m c r.cols r.bOff) with
      | .fail e v u => .error (some (e, v), u)
      | .wait u => .error (none, u)
      | .ok p u =>
        (match u.groupPanels west t with
          | .ok (ps, u) => .ok ((if west then a else b, p) :: ps, u)
          | .error (some e, u) => .error (some e, u)
          | .error (none, u) => .error (none, s.noteWants u))
    else s.groupPanels west t

/-- Every member's command ends alike. -/
def State.groupEnd (s : State) (ms : List (Nat × Nat × Nat × MCmd)) (err : Nat) : State :=
  ms.foldl (fun t (_, _, m, _) => t.cmdDone m 0 err 0) s

/-- The fields of R225 agree at every member. -/
def sameDesc (ms : List (Nat × Nat × Nat × MCmd)) : Bool :=
  match ms with
  | [] => true
  | (_, _, _, c) :: t => t.all fun (_, _, _, d) => d.desc == c.desc

/-- A group command runs (R223–R225, R461); one that waits for stream bytes has started (R212). -/
def State.runGroup (s : State) (ms : List (Nat × Nat × Nat × MCmd)) : State :=
  let s := ms.foldl (fun t (_, _, m, _) => t.modCmd m 0 fun c => { c with phase := .running }) s
  if !sameDesc ms then s.groupEnd ms 0x1A
  else if !(ms.all fun (_, _, m, c) => s.mmaUsable m c (mmaReads true c.geom c.ga c.gc c.desc)) then s.groupEnd ms 0x12
  else
    match s.groupPanels true ms with
    | .error (some (e, _), t) => t.groupEnd ms e
    | .error (none, t) => t
    | .ok (as, t) =>
      match t.groupPanels false ms with
      | .error (some (e, _), t) => t.groupEnd ms e
      | .error (none, t) => s.noteWants t
      | .ok (bs, t) =>
        let panel (l : List (Nat × Panel)) (i : Nat) : Panel := ((l.find? fun x => x.1 == i).map (·.2)).getD []
        ms.foldl (fun u (a, b, m, c) =>
          let g := geomOf c.geom
          u.mmaFinish
            { core := m, cmd := c, rows := Nat.land (wbits c.gc 31 0) (edgeMask g.m a), cols := Nat.land (wbits c.gc 63 32) (edgeMask g.n b)
              a := panel as a, b := panel bs b } 0) t

/-- A group command at the head of its region: it runs when it is assembled, and does nothing once it has been given up. -/
def State.runMmag (s : State) (core ix : Nat) (c : MCmd) : State :=
  if s.mfail.contains (mseqKey c.geom c.org.gen, c.seq) then s.cmdDone core ix 0x1A 0
  else if ix ≠ 0 then s
  else
    match s.assembled c with
    | some ms => s.runGroup ms
    | none => s

/-- GROUP_COMMAND_TIMEOUT (R225): group commands of sequence number `ix` that have waited 2^20 arithmetic cycles since this
member's acceptance without all of them at the heads of their queues are given up at every member. -/
def State.giveUp (s : State) (core ix : Nat) : State :=
  (s.core core).regionQ.foldl (fun t c =>
    let e := (mseqKey c.geom c.org.gen, c.seq)
    if c.op = .mmag ∧ c.phase = .queued ∧ c.seq = ix ∧ c.since + s.arith (2 ^ 20) ≤ s.time ∧ t.mfail.contains e = false
      ∧ (s.atHeads c).isNone
    then { t with mfail := snoc t.mfail e } else t) s

def execGroupCommandTimeout (core ix : Nat) (s : State) : Host.Outcome State Fault Refusal := .next (s.giveUp core ix)

/-! Writes of MSTC and SBREAD (R229, R230, R248). -/

/-- A row's elements as bytes with masks: offset from the row, value, mask of bits. -/
def rowBytes (n : Nat) (els : List (Nat × Nat)) : List (Nat × Nat × Nat) :=
  let v := els.foldl (fun a (j, x) => a + x % 2 ^ n * 2 ^ (n * j)) 0
  let m := els.foldl (fun a (j, _) => a + (2 ^ n - 1) * 2 ^ (n * j)) 0
  let len := els.foldl (fun a (j, _) => max a ((n * (j + 1) + 7) / 8)) 0
  ((List.range len).map fun b => (b, v / 256 ^ b % 256, m / 256 ^ b % 256)).filter fun (_, _, k) => k != 0

/-- What a byte of a place holds, without an access. -/
def State.rawByte (s : State) (l : Loc) : Byte :=
  match l with
  | .spad c o => SMap.get 0 (s.cluster c).spad o
  | .mem a => s.homeByte a
  | .side a _ => s.hbmByte a
  | .dev a =>
    let (cl, off) := winOfPa a
    s.winByte cl off
  | _ => 0

/-- The bits of a mask replaced (R229). -/
def mergeByte (old v m : Nat) : Byte := BitVec.ofNat 8 (old - Nat.land old m + Nat.land v m)

/-- One piece written, merged with what is there. -/
def State.mergePiece (s : State) (org : Origin) (ws : List (Loc × Nat × Nat)) : WriteRes :=
  s.performRuns (fullLines ((ws.filter fun (_, _, m) => m == 255).map fun (l, v, _) => (l, BitVec.ofNat 8 v))) org
    (runsOf (ws.map fun (l, v, m) => (l, mergeByte (s.rawByte l).toNat v m)))

/-- The pieces of placed rows (R295). -/
def todoOf (cl : Nat) (rows : List (Nat × List (Loc × Nat × Nat))) : List (Nat × List (Loc × Nat × Nat)) :=
  rows.flatMap fun (i, bs) => (pieces cl (fun (x : Loc × Nat × Nat) => x.1) bs).map fun p => (i, p)

/-- A piece of the lowest row left is written: of several, the part takes any. -/
def State.writeOne (s : State) (core ix : Nat) (c : MCmd) : State :=
  match c.todo with
  | [] => s.cmdDone core ix c.err c.tval
  | (i, _) :: _ =>
    let row := c.todo.filter fun (r, _) => r == i
    let n := if row.length ≤ 1 then 0 else Config.pick s.freeCtr % row.length
    let s := if row.length ≤ 1 then s else s.fresh
    let ws := (row.getD n (0, [])).2
    let left := (row.eraseIdx n) ++ c.todo.filter fun (r, _) => r != i
    match s.memPort (clOf core) (ws.map (·.1)) ws.length with
    | none => s
    | some s =>
    let (s, e) := match s.mergePiece c.org ws with
      | .done t => (t, 0)
      | .fail e t => (t, e)
    let err := if c.err ≠ 0 then c.err else e
    let tval := if c.err ≠ 0 then c.tval else if e ≠ 0 then c.ga.toNat else 0
    if left.isEmpty then (s.modCmd core ix fun c => { c with todo := [] }).cmdDone core ix err tval
    else s.modCmd core ix fun c => { c with phase := .running, todo := left, err := err, tval := tval }

/-- The addresses of rows placed; every one is checked before anything is written (R230). -/
def State.placeRows (s : State) (u : Accessor) : List (Nat × List (Nat × Nat × Nat)) →
    Except (Nat × Nat) (List (Nat × List (Loc × Nat × Nat)) × State)
  | [] => .ok ([], s)
  | (_, []) :: t => s.placeRows u t
  | (i, (a, v, m) :: bs) :: t =>
    let rec go (s : State) : List (Nat × Nat × Nat) → Except (Nat × Nat) (List (Loc × Nat × Nat) × State)
      | [] => .ok ([], s)
      | (a, v, m) :: r =>
        match s.placeNow u .write a with
        | .error c => .error (c, a)
        | .ok (.host _ _, _) | .ok (.peer _ _, _) => .error (0x09, a)
        | .ok (l, s) =>
          match go s r with
          | .error e => .error e
          | .ok (ls, s) => .ok ((l, v, m) :: ls, s)
    match go s ((a, v, m) :: bs) with
    | .error e => .error e
    | .ok (ls, s) =>
      match s.placeRows u t with
      | .error e => .error e
      | .ok (rs, s) => .ok ((i, ls) :: rs, s)

/-- The checks at the scratchpads that the bytes reach, each taken as one access (R229, R230, R300). -/
def State.spadRefused (s : State) (cl : Nat) (ls : List Loc) : Option Nat :=
  let at_ (o : Nat) : List Nat := ls.filterMap fun
    | .spad c x => if c = o then some x else none
    | _ => none
  ((ls.filterMap fun
    | .spad c _ => some c
    | _ => none).eraseDups).findSome? fun o =>
      let xs := at_ o
      if !s.windowsOk cl (xs.map (Loc.spad o)) true then some 0x0A
      else if !(xs.all fun x => (s.cluster o).usable x 1) then some 0x12
      else none

/-- Rows to be written at addresses: checked whole, then written piece by piece. -/
def State.startWrite (s : State) (core ix : Nat) (c : MCmd) (rows : List (Nat × List (Nat × Nat × Nat))) : State :=
  let u : Accessor := { cl := clOf core, gen := c.org.gen, priv := c.priv, org := c.org }
  match s.placeRows u rows with
  | .error (e, a) => s.cmdDone core ix e a
  | .ok (ls, t) =>
    match t.spadRefused (clOf core) (ls.flatMap fun (_, bs) => bs.map (·.1)) with
    | some e => t.cmdDone core ix e c.ga.toNat
    | none =>
      let todo := todoOf (clOf core) ls
      if todo.isEmpty then t.cmdDone core ix 0 0
      else t.modCmd core ix fun c => { c with phase := .running, todo := todo }

/-- The unmasked elements of row `i` of a slot, converted. -/
def ASlot.rowEls (a : ASlot) (gc : Word) (conv : Val → Nat) (i : Nat) : List (Nat × Nat) :=
  (maskIdx (wbits gc 63 32)).map fun j => (j, conv (a.fmt.decode (a.el i j)))

/-- MSTC starts (R229, R230). -/
def State.startMstc (s : State) (core ix : Nat) (c : MCmd) : State :=
  let d := c.desc
  let f := bits d 4 0
  let n := fmtBits f
  let stride := bits d 31 16
  let a := (s.core core).aslot c.sl
  let base (i : Nat) : Nat := (c.ga.toNat + i * stride) % 2 ^ 64
  if [8, 16, 32].contains n && (c.ga.toNat % (n / 8) != 0 || stride % (n / 8) != 0) then s.cmdDone core ix 0x03 c.ga.toNat
  else
    s.startWrite core ix c ((maskIdx (wbits c.gc 31 0)).map fun i =>
      (i, (rowBytes n (a.rowEls c.gc (fun v => (fmtEncode f (bits d 7 5) (centre7 (bits d 14 8)) v).1) i)).map
        fun (b, v, m) => ((base i + b) % 2 ^ 64, v, m)))

/-- An element as SBREAD writes it (R248). -/
def sbreadEl (d : Nat) (v : Val) : Nat :=
  if d.testBit 5 then roundNE f40 v else (fmtEncode (bits d 4 0) (bits d 8 6) (centre7 (bits d 15 9)) v).1

/-- A panel of free values takes the place of masked elements that a stream must carry (R248; log entry 1). -/
def State.streamRow (s : State) (a : ASlot) (c : MCmd) (i : Nat) : List Byte × State :=
  let n := sbreadBits c.desc
  let free := (s.freeNat, s.fresh)
  let all := wbits c.gc 63 32 = 2 ^ 32 - 1 ∧ (wbits c.gc 31 0).testBit i
  let (fv, s) := if all then (0, s) else free
  let el (j : Nat) : Nat :=
    if (wbits c.gc 31 0).testBit i && (wbits c.gc 63 32).testBit j then sbreadEl c.desc (a.fmt.decode (a.el i j)) % 2 ^ n
    else fv / 2 ^ (n * j) % 2 ^ n
  (bytesOfNat ((32 * n + 7) / 8) ((List.range 32).foldl (fun x j => x + el j * 2 ^ (n * j)) 0), s)

/-- SBREAD starts (R248): into the own scratchpad, or row by row into a stream. -/
def State.startSbread (s : State) (core ix : Nat) (c : MCmd) : State :=
  let a := (s.core core).aslot c.sl
  if epStream c.gb then s.modCmd core ix fun c => { c with phase := .running, left := 32 }
  else
    let n := sbreadBits c.desc
    let spad (o : Nat) : Nat := 2 ^ 63 + 2 ^ 31 + o
    s.startWrite core ix c ((maskIdx (wbits c.gc 31 0)).map fun i =>
      (i, (rowBytes n (a.rowEls c.gc (sbreadEl c.desc) i)).map fun (b, v, m) =>
        (spad (epOff c.gb + i * epStride c.gb + b), v, m)))

/-- The next row of an SBREAD pushed to its stream (R248, R370). -/
def State.pushRow (s : State) (core ix : Nat) (c : MCmd) : State :=
  let port := wbits c.gb 7 0
  let (bs, t) := s.streamRow ((s.core core).aslot c.sl) c (32 - c.left)
  match t.streamPush c.org.gen port ⟨1, clOf core, core % 16⟩ (s.branchesOf c.org.gen port) bs with
  | .fail e v t => t.cmdDone core ix e v
  | .wait _ => s
  | .ok _ t =>
    if c.left ≤ 1 then t.cmdDone core ix 0 0 else t.modCmd core ix fun c => { c with left := c.left - 1 }

/-! The other commands. -/

/-- MLDC (R227, R461). -/
def State.runMldc (s : State) (core ix : Nat) (c : MCmd) : State :=
  let f := bits c.desc 4 0
  let n := fmtBits f
  let rows := maskIdx (wbits c.gc 31 0)
  let cols := maskIdx (wbits c.gc 63 32)
  let load (s : State) (p : Panel) : State :=
    let g := ((s.core core).aslot c.sl).fmt
    let el (i j : Nat) : Option OpEl := if rows.contains i && cols.contains j then p.at_ i j else none
    let bads := rows.flatMap fun i => cols.filterMap fun j => (el i j).map (·.bad)
    let s := s.modSlot core c.sl fun a => a.fill fun i j =>
      match el i j with
      | some x => roundNE g (x.val f (centre7 (bits c.desc 11 5)))
      | none => 0
    s.cmdDone core ix (if bads.contains 0x10 then 0x10 else if bads.contains 0x11 then 0x11 else 0) 0
  if epStream c.ga then
    match s.streamPanel core c.org.gen c.ga n 32 32 with
    | .fail e v t => t.cmdDone core ix e v
    | .wait t => t
    | .ok p t => load t p
  else if !s.rowsUsable (clOf core) (epOff c.ga) (epStride c.ga) n rows cols then s.cmdDone core ix 0x12 0
  else
    let (p, t) := s.readPanel (clOf core) (epOff c.ga) (epStride c.ga) n rows cols c.org c.past
    load t p

/-- MQUE (R231, R232): it waits while the collective queue is full. -/
def State.runMque (s : State) (core ix : Nat) (c : MCmd) : State :=
  let g := s.cluster (clOf core)
  if 16 ≤ g.colq.length then s
  else
    let f := bits c.desc 4 0
    let a := (s.core core).aslot c.sl
    let e : CqEntry :=
      { tag := bits c.desc 23 8, core := core, masks := c.gc, fmt := f
        els := (List.range 1024).map fun x =>
          if c.gc.getLsbD (x / 32) && c.gc.getLsbD (32 + x % 32) then (fmtEncode f 0 0 (a.fmt.decode (a.el (x / 32) (x % 32)))).1 else 0 }
    (s.setCluster (clOf core) { g with colq := snoc g.colq e }).cmdDone core ix 0 0

/-! State banks at their start: SBCFG (R236, R241). -/

/-- Words 0–3 of a descriptor. -/
structure BankDesc where
  w0 : Word
  w1 : Word
  outref : Word
  w3 : Word
  deriving DecidableEq, Repr

def BankDesc.ofWords (l : List Word) : BankDesc := ⟨l.getD 0 0, l.getD 1 0, l.getD 2 0, l.getD 3 0⟩
def BankDesc.start (d : BankDesc) : Nat := wbits d.w0 31 16
def BankDesc.oe (d : BankDesc) : Bool := d.w0.getLsbD 2
def BankDesc.rs (d : BankDesc) : Bool := d.w0.getLsbD 1
def BankDesc.fe (d : BankDesc) : Bool := d.w0.getLsbD 0
def BankDesc.nsrc (d : BankDesc) : Nat := wbits d.w1 43 32
def BankDesc.woff (d : BankDesc) : Nat := wbits d.w1 21 0
def BankDesc.outn (d : BankDesc) : Nat := wbits d.w3 47 44
def BankDesc.srcbase (d : BankDesc) : Nat := wbits d.w3 43 32
def BankDesc.outv (d : BankDesc) : Nat := wbits d.w3 31 0

/-- The check of R241. -/
def State.descOk (s : State) (cl gen : Nat) (d : BankDesc) : Bool :=
  let t := s.cluster (bankCl d.outref cl)
  wbits d.w0 63 32 == 0 && wbits d.w0 15 3 == 0 && wbits d.w1 63 44 == 0 && wbits d.w1 31 22 == 0 && wbits d.w3 63 48 == 0
    && d.woff % 4 == 0 && decide (d.woff + 128 * (d.nsrc + 1) ≤ 2 ^ 22) && decide (d.srcbase + 31 ≤ 4095)
    && (!d.oe || (wbits d.outref 63 21 == 0 && bankRow d.outref == 0 && decide (bankReg d.outref + d.outn ≤ 15)
      && t.loaded && t.gen == gen))

/-- The hardware fields of a descriptor written (R236, R246): false where they lie beyond the usable groups. -/
def State.writeFields (s : State) (core : Nat) (b : Bank) (org : Origin) : State × Bool :=
  let cl := clOf core
  let bs := bytesOfWords [BitVec.ofNat 64 b.nxt, BitVec.ofNat 64 b.late, BitVec.ofNat 64 b.dropped, BitVec.ofNat 64 b.fired]
  match s.performPiece (.spad cl (b.off + 0x20)) bs [] org with
  | .done t => (t, true)
  | .fail _ t => (t, false)

/-- SBCFG starts (R241). -/
def State.runSbcfg (s : State) (core ix : Nat) (c : MCmd) : State :=
  let cl := clOf core
  let off := wbits c.ga 21 0
  match s.readPort cl off 320 c.org with
  | .fail e t => t.cmdDone core ix e c.ga.toNat
  | .ok bs t =>
    let bs := bs.mapIdx fun i b => if (t.cluster cl).guarded (off + i) then b else ((t.cluster cl).pastByte core c.past (off + i)).getD b
    let d := BankDesc.ofWords (wordsOfBytes 4 bs)
    if !t.descOk cl c.org.gen d then t.cmdDone core ix 0x09 c.ga.toNat
    else
      let col (at_ : Nat) : SMap Word := (List.range 32).foldl
        (fun m j => SMap.put 0 m j (BitVec.ofNat 64 (natOfBytes ((bs.drop (at_ + 4 * j)).take 4)))) []
      let b : Bank := { nxt := d.start, late := 0, dropped := 0, fired := 0, off := off, desc := wordsOfBytes 4 bs, alpha := col 0x40, theta := col 0xC0 }
      let t := t.modSlot core c.sl fun a =>
        if a.st == .state then { a with bank := b }
        else { a.fill (fun i j => roundNE f40 (f32.decode (a.el i j))) with st := .state, bank := b }
      let (t, _) := t.writeFields core b c.org
      t.cmdDone core ix 0 0

/-! MATRIX_COMMAND_START (R212, R216, R235). -/

/-- A command that writes memory (R235). -/
def MOp.writesMem (op : MOp) : Bool := [.mstc, .sbread, .sbcfg, .sbstep].contains op

/-- The stream ports that a command's operands come from. -/
def MCmd.ports (c : MCmd) : List Nat :=
  match c.op with
  | .mma | .mmag => ([c.ga, c.gb].filter epStream).map (wbits · 7 0)
  | .mldc => ([c.ga].filter epStream).map (wbits · 7 0)
  | _ => []

/-- Whether the command at `ix` may start: every earlier command has started, and has taken what it needs of a port of both (R214); earlier commands on its slot have completed,
or, before an MMA, are MMAs that have run; and it keeps the order of memory writes. -/
def Core.turn (k : Core) (ix : Nat) (c : MCmd) : Bool :=
  (k.regionQ.take ix).all fun q =>
    q.phase != .queued && (q.sl != c.sl || (c.op == .mma && q.op == .mma && q.phase == .done))
      && (!([MOp.mstc, .sbread, .sbcfg].contains c.op && q.op.writesMem) || q.phase == .done)
      && (q.phase == .done || !q.ports.any c.ports.contains)

/-- The command at `ix` starts, or goes on with its writes. -/
def State.startCmd (s : State) (core ix : Nat) : State :=
  let k := s.core core
  match k.regionQ[ix]? with
  | none => s
  | some c =>
    match c.phase with
    | .done => s
    | .running =>
      (match c.op with
        | .mma => s.runMma core ix c
        | .mmag => s.runMmag core ix c
        | .mldc => s.runMldc core ix c
        | .mstc => s.writeOne core ix c
        | .sbread => if epStream c.gb then s.pushRow core ix c else s.writeOne core ix c
        | _ => s)
    | .queued =>
      if !k.turn ix c || !s.storesIn core c then s
      else
        -- a command that waits for stream bytes has started, and holds no other slot's command back (R212); one that waits for the
        -- collective queue has not (R232)
        let s := if [MOp.mma, .mldc].contains c.op then s.modCmd core ix fun c => { c with phase := .running } else s
        match c.op with
        | .mzero => (s.modSlot core c.sl fun a => { a with acc := [] }).cmdDone core ix 0 0
        | .mldc => s.runMldc core ix c
        | .mma => s.runMma core ix c
        | .mmag => s.runMmag core ix c
        | .mstc => s.startMstc core ix c
        | .mque => s.runMque core ix c
        | .mrel => s.cmdDone core ix 0 0
        | .sbcfg => s.runSbcfg core ix c
        | .sbstep => s.modCmd core ix fun c => { c with phase := .running, late0 := (k.aslot c.sl).bank.late }
        | .sbread => s.startSbread core ix c

def execMatrixCommandStart (core ix : Nat) (s : State) : Host.Outcome State Fault Refusal := .next (s.startCmd core ix)

/-! MATRIX_COMMAND_COMPLETE (R207, R210, R211, R241, R249). -/

/-- The slot once one of its commands completes. An MREL accepted on a FREE slot changes nothing but its contents, which are zero. -/
def ASlot.complete (a : ASlot) (c : MCmd) : ASlot :=
  let n := a.busy - 1
  match c.op with
  | .mrel =>
    let a := { a with acc := [], bank := {}, busy := n }
    if a.rel then
      match a.next with
      | some x => { a.freed with st := .busy, ctx := x, orphan := a.nextOrphan, busy := n }
      | none => a.freed
    else if n = 0 || a.st == .free then a.freed
    else { a with st := .busy }
  | .sbcfg =>
    if c.err ≠ 0 && c.claimed && n = 0 && !a.orphan then { a with st := .free, ctx := 0, acc := [], busy := n }
    else { a with busy := n }
  | _ => { a with busy := n }

/-- A region comes to a command boundary: the spares mapped meanwhile serve it (R399). -/
def Cluster.boundary (g : Cluster) (core : Nat) : Cluster :=
  { g with suspects := g.suspects.map fun (u, e) => (u, { e with left := e.left.filter (· != core) }) }

/-- The command at `ix`, executed, completes when no earlier one on its slot is left. -/
def State.completeCmd (s : State) (core ix : Nat) : State :=
  let k := s.core core
  match k.regionQ[ix]? with
  | none => s
  | some c =>
    if c.phase ≠ .done || (k.regionQ.take ix).any (·.sl == c.sl) then s
    else
      let a := k.aslot c.sl
      -- the mark of R211, or an error of the command itself
      let err := if a.orphan || c.marked then 0x1A else c.err
      let k := { k.setAslot c.sl (a.complete c) with regionQ := k.regionQ.eraseIdx ix }
      let s := s.setCore core (k.settle c.sl)
      let s := if c.op = .mrel then
          s.modCluster (clOf core) fun g => { g with evq := g.evq.filter fun e => !(e.core == core && e.slot == c.sl) }
        else s
      let s := s.modCluster (clOf core) fun g => g.boundary core
      (s.cmdSignal core c err (c.err != 0)).niRun core

def execMatrixCommandComplete (core ix : Nat) (s : State) : Host.Outcome State Fault Refusal := .next (s.completeCmd core ix)

/-! Quarantine (R399). -/

/-- Spares of a unit's kind: of the array, or of the lanes of its core. -/
def sparesOf (u : Nat) : List Nat :=
  if u < 132 then [128, 129, 130, 131] else (List.range 3).map fun i => 256 + 35 * ((u - 256) / 35) + 32 + i

/-- A free spare; the last one is kept for third executions (R397). -/
def Cluster.freeSpare (k : Cluster) (u : Nat) : Option Nat :=
  match (sparesOf u).filter fun x => x != u && !(SMap.get ({} : Suspect) k.suspects x).quar
    && !(k.suspects.any fun (_, e) => e.quar && e.map == x) with
  | x :: _ :: _ => some x
  | _ => none

/-- The cores of a cluster whose regions array column `u` crosses and that run a command now (R216, R399). -/
def State.crossed (s : State) (cl u : Nat) : List Nat :=
  if 132 ≤ u then []
  else (coresOf cl).filter fun c => c % 4 == u / 32 && (s.core c).regionQ.any fun m => m.phase == .running

/-- QUARANTINE_REMAP: the unit is mapped to a free spare, in each region that it crosses from its next command boundary on; with none free it
stays in service and the runtime is told. -/
def State.quarantine (s : State) (cl u : Nat) : State :=
  let k := s.cluster cl
  let e := SMap.get ({} : Suspect) k.suspects u
  if e.quar then s
  else
    match k.freeSpare u with
    | some x =>
      -- a quarantined unit served by this one moves along
      let m := k.suspects.map fun (v, f) => if f.quar && f.map == u then (v, { f with map := x, left := s.crossed cl v, was := u }) else (v, f)
      s.setCluster cl { k with suspects := SMap.put ({} : Suspect) m u { e with quar := true, map := x, left := s.crossed cl u, was := u } }
    | none => s.hostEvent 3 [cl, u]

def execQuarantineRemap (cl u : Nat) (s : State) : Host.Outcome State Fault Refusal := .next (s.quarantine cl u)

/-- SUSPECT_SCORE_DECAY (R399). -/
def State.decay (s : State) : State :=
  let one (g : Cluster) : Cluster :=
    { g with suspects := g.suspects.foldl (fun m (u, e) => SMap.put ({} : Suspect) m u { e with score := e.score - 1 }) [] }
  let s := s.clusters.foldl (fun t (c, g) => if g.suspects.isEmpty then t else t.modCluster c one) s
  s.after (s.arith (2 ^ 24)) .suspectScoreDecay

def execSuspectScoreDecay (s : State) : Host.Outcome State Fault Refusal := .next s.decay

end Sys2Proof.Machine
end

