-- ==== Sys2Proof/Machine/BankStep.lean ====
section
/-! DEFINITION. State banks at work: the event queue with its retries (R242, R243) and the steps of SBSTEP (R92,
R244–R246). -/
namespace Sys2Proof.Machine

open Sys2Proof

/-! The event queue. -/

/-- The bank reference of a slot (R237). -/
def bankRef (cl reg sl row : Nat) : Nat := cl + reg * 2 ^ 9 + sl * 2 ^ 13 + row * 2 ^ 15

/-- An emitted event given up (R243): DROPPED counts it, and the command keeps the first cause (R246). -/
def State.givenUp (s : State) (core sl cause : Nat) : State :=
  let s := s.modSlot core sl fun a => { a with bank := { a.bank with dropped := a.bank.dropped + 1 } }
  s.modCore core fun k => { k with regionQ := k.regionQ.map fun c =>
    if c.op = .sbstep ∧ c.sl = sl ∧ c.phase = .running ∧ c.evErr = 0 then { c with evErr := cause } else c }

/-- The end of an event's way: acceptance (`cause` 0) or refusal (R242, R243); the entry that sent it is performed. -/
def State.eventEnd (s : State) (p : Pkt) (c : Option Cmpl) (emit : Option (Nat × Nat)) (cause tval : Nat) : State :=
  match emit with
  | some (core, sl) => if cause = 0 then s else s.givenUp core sl cause
  | none => (s.complete p.org c cause tval c.isSome p.backFrom).noted p

/-- Whether stamp `t` is late at step `nxt` (R238). -/
def late (t nxt : Nat) : Bool := decide (32768 ≤ (t + 65536 - nxt % 65536) % 65536)

/-- An event at the queue of its cluster (R242). -/
def State.eventAt (s : State) (p : Pkt) : State :=
  match p.body with
  | .sbevt cl reg sl row ev c tries emit =>
    if s.stale p then (s.dropStale p).noted p
    else
      let core := 16 * cl + reg
      let a := (s.core core).aslot sl
      let g := s.cluster cl
      if a.st ≠ .state then s.eventEnd p c emit 0x1A 0
      else if (BankDesc.ofWords a.bank.desc).nsrc < evSrc ev then s.eventEnd p c emit 0x09 ev.toNat
      else if late (evTime ev) a.bank.nxt then
        (s.modSlot core sl fun a => { a with bank := { a.bank with late := a.bank.late + 1 } }).eventEnd p c emit 0 0
      else if 4096 ≤ g.evq.length then
        if 16 ≤ tries then s.eventEnd p c emit 0x14 (bankRef cl reg sl row)
        else s.after (s.cyc 256) (.eventRetry { p with body := .sbevt cl reg sl row ev c (tries + 1) emit })
      else
        (s.setCluster cl { g with evq := snoc g.evq { core := core, slot := sl, row := row, ev := ev } }).eventEnd p c emit 0 0
  | _ => s

/-- EVENT_QUEUE_ARRIVAL (R242). -/
def execEventQueueArrival (p : Pkt) (s : State) : Host.Outcome State Fault Refusal := .next (s.eventAt p)
/-- EVENT_RETRY (R243). -/
def execEventRetry (p : Pkt) (s : State) : Host.Outcome State Fault Refusal := .next (s.eventAt p)

/-! Steps. -/

/-- An emission of the bank `b`. -/
def Body.emittedBy (x : Body) (b : Nat × Nat) : Bool :=
  match x with
  | .sbevt _ _ _ _ _ _ _ (some e) => e == b
  | _ => false

/-- An emitted event that is not settled yet (R244). -/
def State.emitting (s : State) (core sl : Nat) : Bool :=
  s.net.any (fun p => p.body.emittedBy (core, sl)) || (s.cluster (clOf core)).held.any (fun p => p.body.emittedBy (core, sl))
    || s.timed.any fun (_, i) =>
    match i with
    | .eventRetry p => p.body.emittedBy (core, sl)
    | _ => false

/-- The key by which R92 sorts the events of one step. -/
def BankEvent.key (e : BankEvent) : Nat := evSrc e.ev * 2 ^ 32 + evValue e.ev

/-- The order of R92. -/
def sortEvents (l : List BankEvent) : List BankEvent := sortBy (fun a b => decide (a.key ≤ b.key)) l

/-- Decoded parameters of a column. -/
def Bank.alphaOf (b : Bank) (j : Nat) : Val := f32.decode (SMap.get 0 b.alpha j).toNat
def Bank.thetaOf (b : Bank) (j : Nat) : Val := f32.decode (SMap.get 0 b.theta j).toNat

/-- Leak (R92). -/
def ASlot.leak (a : ASlot) : ASlot := a.fill fun i j => roundNE f40 ((a.bank.alphaOf j).mul (f40.decode (a.el i j))).1

/-- One event added to its row (R92, R245). -/
def ASlot.integrate (a : ASlot) (row : Nat) (v : Val) (w : Nat → Val) : ASlot :=
  (List.range 32).foldl (fun b j => b.setEl row j (roundNE f40 ((f40.decode (b.el row j)).add (v.mul (w j)).1).1)) a

/-- The events of a step integrated in order: the slot, whether a weight row lay beyond the usable groups, and the cause of
bad weights. -/
def State.integrateAll (s : State) (cl woff : Nat) (org : Origin) (past : Nat) (a : ASlot) (out : Bool) (bad : Nat) :
    List BankEvent → ASlot × Bool × Nat × State
  | [] => (a, out, bad, s)
  | e :: t =>
    let off := woff + 128 * evSrc e.ev
    if !(s.cluster cl).usable off 128 then s.integrateAll cl woff org past a true bad t
    else
      let (ws, s) := s.opRow cl off 32 (List.range 32) org past
      let w (j : Nat) : OpEl := ((ws.find? fun x => x.1 == j).map (·.2)).getD { code := 0 }
      let bads := ws.map fun x => x.2.bad
      let bad := if bad ≠ 0 then bad else if bads.contains 0x10 then 0x10 else if bads.contains 0x11 then 0x11 else 0
      s.integrateAll cl woff org past (a.integrate e.row (f32.decode (evValue e.ev)) fun j => (w j).val 0x0A 0) out bad t

/-- Whether state h reaches its threshold (R244): exact, and never for a NaN. -/
def fires (h th : Val) : Bool := !h.isNan && !th.isNan && !h.lt th

/-- Compare and reset (R244): the slot and the elements that fired, in order. -/
def ASlot.fireAll (a : ASlot) (d : BankDesc) : ASlot × List (Nat × Nat) :=
  if !d.fe then (a, [])
  else
    (List.range 1024).foldl (fun (r : ASlot × List (Nat × Nat)) e =>
      let i := e / 32
      let j := e % 32
      let h := f40.decode (r.1.el i j)
      let th := a.bank.thetaOf j
      if fires h th then
        (r.1.setEl i j (if d.rs then roundNE f40 (h.add th.negate).1 else 0), snoc r.2 (i, j))
      else r) (a, [])

/-- The events that a step emits (R244). -/
def emissions (core : Nat) (c : MCmd) (d : BankDesc) (t : Nat) (fired : List (Nat × Nat)) : List Pkt :=
  if !d.oe then []
  else
    let cl := bankCl d.outref (clOf core)
    fired.flatMap fun (i, j) => (List.range (d.outn + 1)).map fun g =>
      let ev : Word := BitVec.ofNat 64 (d.outv * 2 ^ 32 + (d.srcbase + j) * 2 ^ 16 + (t + 1) % 2 ^ 16)
      { c.org.pkt (16 * cl) 0 3 (.sbevt cl (bankReg d.outref + g) (bankSl d.outref) i ev none 0 (some (core, c.sl))) with
        src := core, job := c.job, idx := c.idx }

/-- One step of an SBSTEP (R244). -/
def State.bankStep (s : State) (core ix : Nat) (c : MCmd) : State :=
  let cl := clOf core
  let a := (s.core core).aslot c.sl
  let d := BankDesc.ofWords a.bank.desc
  let t := a.bank.nxt
  let due (e : BankEvent) : Bool := e.core == core && e.slot == c.sl && evTime e.ev == t
  let evs := sortEvents ((s.cluster cl).evq.filter due)
  let s := s.modCluster cl fun g => { g with evq := g.evq.filter fun e => !due e }
  let a := { a.leak with bank := { a.bank with nxt := (t + 1) % 2 ^ 16 } }
  let (a, out, bad, s) := s.integrateAll cl d.woff c.org c.past a false c.bad evs
  let (a, fired) := a.fireAll d
  let a := { a with bank := { a.bank with fired := a.bank.fired + fired.length } }
  let s := s.modSlot core c.sl fun _ => a
  let s := (emissions core c d t fired).foldl (fun u p => u.sendPkt p) s
  s.modCmd core ix fun c => { c with left := c.left - 1, bad := bad, err := if out then 0x12 else c.err }

/-- The end of an SBSTEP (R246): the hardware fields are written, then the cause is settled. -/
def State.bankEnd (s : State) (core ix : Nat) (c : MCmd) : State :=
  let b := ((s.core core).aslot c.sl).bank
  let d := BankDesc.ofWords b.desc
  let (s, ok) := s.writeFields core b c.org
  if !ok || c.err = 0x12 then s.cmdDone core ix 0x12 0
  else if c.bad ≠ 0 then s.cmdDone core ix c.bad 0
  else if c.evErr ≠ 0 then s.cmdDone core ix c.evErr (if c.evErr = 0x14 then d.outref.toNat else 0)
  else if c.late0 < b.late then s.cmdDone core ix 0x14 (bankRef (clOf core) (core % 16) c.sl 0)
  else s.cmdDone core ix 0 0

/-- The earlier memory writes of the region are over (R235). -/
def Core.writesOver (k : Core) (ix : Nat) : Bool := (k.regionQ.take ix).all fun q => !q.op.writesMem || q.phase == .done

/-- SB_STEP (R244): a step, once every event that the last one emitted is settled; after the last step, the end. -/
def State.sbStep (s : State) (core ix : Nat) : State :=
  match (s.core core).regionQ[ix]? with
  | none => s
  | some c =>
    if c.op ≠ .sbstep ∨ c.phase ≠ .running ∨ s.emitting core c.sl = true then s
    else if c.left ≠ 0 then s.bankStep core ix c
    else if (s.core core).writesOver ix then s.bankEnd core ix c
    else s

def execSbStep (core ix : Nat) (s : State) : Host.Outcome State Fault Refusal := .next (s.sbStep core ix)

end Sys2Proof.Machine
end

