-- ==== Sys2Proof/Machine/EngineUnit.lean ====
section
/-! DEFINITION. Engine harts (R251–R261): kicks reaching their hart, the checks at a command's start, the standard
microcode one element piece at a time, completion and the watchdog; and the events of a collective (R267). -/
namespace Sys2Proof.Machine

open Sys2Proof

/-! Events of a collective (R267). -/

/-- The slot of an event: 0 source reusable, 1 local result, 2 all finished. -/
def CevtArm.slot (a : CevtArm) (e : Nat) : Option Cmpl :=
  match e with
  | 0 => a.src
  | 1 => a.loc
  | _ => a.fin
/-- The arm without that event. -/
def CevtArm.clear (a : CevtArm) (e : Nat) : CevtArm :=
  match e with
  | 0 => { a with src := none }
  | 1 => { a with loc := none }
  | _ => { a with fin := none }

/-- The events still armed by a core for operation `n` of a group. -/
def Core.armAt (k : Core) (grp n : Nat) : Option CevtArm := (k.evArms.find? fun (m, a) => m == n && a.grp == grp).map (·.2)

/-- An event signals its slot once, or error-signals it, and the frame's pin ends. -/
def State.groupEvent (s : State) (core grp n e err : Nat) : State :=
  let k := s.core core
  match k.armAt grp n with
  | none => s
  | some a =>
    match a.slot e with
    | none => s
    | some c =>
      let rest := k.evArms.filter fun (m, b) => !(m == n && b.grp == grp)
      let b := a.clear e
      let arms := if (b.src <|> b.loc <|> b.fin).isSome then snoc rest (n, b) else rest
      (s.setCore core { k with evArms := arms }).signal
        { core := core, node := .slot core c.fid c.k, tag := c.tag, gen := (s.cluster (clOf core)).gen } c err true

/-! Kicks (R256). -/

/-- The hart of a kick: 3 is the copy hart with fewer queued commands (R255). -/
def Cluster.kickHart (g : Cluster) (h : Nat) : Nat :=
  if h = 3 then (if (g.hart 1).q.length < (g.hart 0).q.length then 1 else 0) else h

/-- A command with its hart in w7 (R252). -/
def ECmd.onHart (c : ECmd) (h : Nat) : ECmd :=
  { c with hart := h, w := c.w.set 7 (BitVec.ofNat 64 ((c.w.getD 7 0).toNat % 2 ^ 30 + h * 2 ^ 30)) }

/-- ENGINE_KICK_ARRIVAL (R252, R256): an entry of the core's engine lane enters its hart's queue of 16. -/
def State.kickArrive (s : State) (core ix : Nat) : State :=
  let k := s.core core
  let g := s.cluster (clOf core)
  match k.engLane[ix]? with
  | none => s
  | some c =>
    let h := g.kickHart c.hart
    let behind := (k.engLane.take ix).any fun d => d.hart == h || (d.hart == 3 && h != 2)
    if behind || 16 ≤ (g.hart h).q.length then s
    else
      (s.setCore core { k with engLane := k.engLane.eraseIdx ix }).modCluster (clOf core) fun g =>
        g.setHart h { g.hart h with q := snoc (g.hart h).q (c.onHart h) }

def execEngineKickArrival (core ix : Nat) (s : State) : Host.Outcome State Fault Refusal := .next (s.kickArrive core ix)

/-! The start of a command (R257). -/

def ECmd.wd (c : ECmd) (i : Nat) : Nat := (c.w.getD i 0).toNat
def ECmd.entry (c : ECmd) : Nat := bits (c.wd 0) 9 0
def ECmd.size (c : ECmd) : Nat := 2 ^ bits (c.wd 0) 12 10
/-- Who its accesses act for. -/
def ECmd.user (c : ECmd) (cl : Nat) : Accessor := { cl := cl, gen := c.org.gen, priv := c.priv, org := c.org }
/-- It takes its source from the collective queue (R266). -/
def ECmd.queued (c : ECmd) : Bool :=
  match c.cred with
  | some (_, _, q) => q
  | none => false

/-- What reading the records of a command comes to: a value, a failure with cause and address, or no progress yet (a peer). -/
inductive Shaped (α : Type) where
  | ok (v : α) (s : State)
  | fail (cause tval : Nat) (s : State)
  | wait (s : State)

/-- An 8-byte word of a shape record or an extent pointer (R257). -/
def State.shapeWord (s : State) (u : Accessor) (a : Nat) : Shaped Nat :=
  match s.readNow u (a % 2 ^ 64) 8 with
  | .ok bs t => .ok (natOfBytes bs) t
  | .fail c v t => .fail c v t
  | .wait t => .wait t

/-- The extents and strides read so far, and the pointer words with their values (R257). -/
structure Dims where
  ds : List (Nat × Int) := []
  ptrs : List (Nat × Nat) := []

/-- An extent pointer, read once for the whole command (R257). -/
def State.pointer (s : State) (u : Accessor) (ptrs : List (Nat × Nat)) (a : Nat) : Shaped Nat :=
  match ptrs.find? (·.1 == a) with
  | some (_, v) => .ok v s
  | none => s.shapeWord u a

/-- Dimensions `d`, `d + 1`, … of the shape record at `a` (R254). -/
def State.readDims (s : State) (u : Accessor) (a : Nat) (ptrs : List (Nat × Nat)) : (n d : Nat) → Shaped Dims
  | 0, _ => .ok { ptrs := ptrs } s
  | n + 1, d =>
    match s.shapeWord u (a + 16 + 16 * d) with
    | .fail c v s => .fail c v s
    | .wait s => .wait s
    | .ok ext s =>
      match s.shapeWord u (a + 24 + 16 * d) with
      | .fail c v s => .fail c v s
      | .wait s => .wait s
      | .ok str s =>
        let ptr := bits str 48 48 = 1
        if bits str 63 49 ≠ 0 || (!ptr && 2 ^ 48 ≤ ext) then .fail 0x09 a s
        else if ptr && ext % 8 ≠ 0 then .fail 0x03 ext s
        else
          match if ptr then s.pointer u ptrs ext else .ok ext s with
          | .fail c v s => .fail c v s
          | .wait s => .wait s
          | .ok e s =>
            if 2 ^ 48 ≤ e then .fail 0x09 ext s
            else
              match s.readDims u a (if ptr then (ext, e) :: ptrs else ptrs) n (d + 1) with
              | .ok r s => .ok { r with ds := (e, toSigned 48 (str % 2 ^ 48)) :: r.ds } s
              | r => r

/-- A shape record (R254): extents and strides. -/
def State.readShape (s : State) (u : Accessor) (ptrs : List (Nat × Nat)) (a : Nat) : Shaped Dims :=
  if a % 8 ≠ 0 then .fail 0x03 a s
  else
    match s.shapeWord u a with
    | .fail c v s => .fail c v s
    | .wait s => .wait s
    | .ok w0 s =>
      match s.shapeWord u (a + 8) with
      | .fail c v s => .fail c v s
      | .wait s => .wait s
      | .ok w1 s => if bits w0 63 3 ≠ 0 || w0 = 0 || w1 ≠ 0 then .fail 0x09 a s else s.readDims u a ptrs w0 0

/-- Elements of a shape (R254). -/
def shapeCount (ds : List (Nat × Int)) : Nat := ds.foldl (fun n (e, _) => n * e) 1

/-- Byte offset of element `i` of a shape, dimension 0 varying fastest (R254). -/
def shapeOff : List (Nat × Int) → Nat → Int
  | [], _ => 0
  | (e, st) :: t, i => (i % e : Nat) * st + shapeOff t (i / e)

/-- An endpoint moved by an offset; a stream port stays (R258). -/
def endpointAt (a : Nat) (off : Int) : Nat := if isStream a then a else ((a + off) % (2 ^ 64 : Nat)).toNat

/-- The command moves elements from `SRC` by address or port, and to `DST`. -/
def ECmd.usesSrc (c : ECmd) : Bool := !c.queued
def ECmd.usesDst (c : ECmd) : Bool := c.entry != 16

/-- An endpoint names a port that no stream of the forme declares, or sets reserved bits (R253, R257). -/
def State.badPort (s : State) (gen a : Nat) : Bool :=
  isStream a && (bits a 59 8 != 0 || (s.branchesOf gen (a % 256)).isEmpty)

/-- A stream endpoint of hart `h` of `cl` that is not its own (R370). -/
def State.wrongEnd (s : State) (gen cl h a : Nat) (src : Bool) : Bool :=
  isStream a &&
    if src then (s.streamAt gen (a % 256) ⟨0, cl, h⟩).isNone
    else s.streams.any fun t => t.gen == gen && t.port == a % 256 && (t.pkind != 0 || t.pcl != cl || t.punit != h)

/-- The port and branches of a COPYM (R255, R260). -/
def State.badBranches (s : State) (gen v : Nat) : Bool :=
  let bs := s.branchesOf gen (v % 256)
  bits v 63 12 != 0 || decide (bs.length < 2) || bits v 11 8 == 0 || (List.range 4).any fun i => v.testBit (8 + i) && !bs.contains i

/-- The context with which a forme's own microcode starts (R251, R252). -/
def hartCtx (c : ECmd) : Ctx :=
  (List.range 8).foldl (fun k i => k.wg (i + 1) (c.w.getD i 0)) (startCtx {} c.priv c.org.gen 0 (8 * c.entry))

/-- The checks on a command whose shapes have been read (R257, R255, R266): the cause, 0 for none. -/
def State.startCause (s : State) (cl h : Nat) (c : ECmd) (d1 d2 : List (Nat × Int)) (std : Bool) : Nat :=
  let gen := c.org.gen
  if c.entry = 8 && shapeCount d1 ≠ shapeCount d2 then 0x09
  else if std && (c.usesSrc && s.wrongEnd gen cl h (c.wd 2) true || c.usesDst && s.wrongEnd gen cl h (c.wd 3) false) then 0x09
  else if std && c.entry = 16 && s.badBranches gen (c.wd 5) then 0x09
  else if std && c.queued && shapeCount d1 % 1024 ≠ 0 then 0x09
  else 0

/-- The completion slot of its own that a command names (R259, R372); a CRED has none (R266). -/
def ECmd.ownSlot (c : ECmd) : Option Cmpl := if c.kick then c.cmpl else none

/-- A CRED has read every element (R266, R267): its source is reusable, its elements go to the site, and the hart gives way. -/
def State.credSend (s : State) (cl h : Nat) (c : ECmd) (grp n : Nat) : State :=
  let t := (s.cluster cl).hart h
  let core := c.org.core
  let s := s.modCluster cl fun g =>
    g.setHart h { t with cmd := none, begun := false, pos := 0, vals := [], dims := [], waiting := snoc t.waiting { c with dims := t.dims } }
  let s := s.groupEvent core grp n 0 0
  let p := c.org.pkt (16 * cl) c.org.tag 3 (.contrib grp n (core % 16) (some t.vals))
  s.sendAll { p with src := core, vtag := s.viewTag cl grp, job := c.job, idx := c.idx, own := c.ownSlot }

/-- A command with an extent of 0 completes at once, and its microcode does not run (R257). A CRED's result is ready, and it takes part in
its operation with no elements. -/
def State.emptyDone (s : State) (cl h : Nat) (c : ECmd) : State :=
  match c.cred with
  | some (grp, n, _) => (s.credSend cl h c grp n).groupEvent c.org.core grp n 1 0
  | none => s.hartTrap cl h 0 0

/-- The start of a command at its hart (R257); while a peer's data of its records is on the way it is tried again. -/
def State.hartBegin (s : State) (cl h : Nat) (c : ECmd) : State :=
  let u := c.user cl
  let w0 := c.wd 0
  if bits w0 63 19 ≠ 0 || bits w0 15 13 ≠ 0 || bits w0 12 10 = 7 then s.hartTrap cl h 0x09 w0
  else if (c.usesSrc && s.badPort c.org.gen (c.wd 2)) || (c.usesDst && s.badPort c.org.gen (c.wd 3)) then
    s.hartTrap cl h 0x09 (if c.usesSrc && s.badPort c.org.gen (c.wd 2) then c.wd 2 else c.wd 3)
  else
    match s.readShape u [] (c.wd 1) with
    | .fail e a s => s.hartTrap cl h e a
    | .wait t => s.waits t
    | .ok r1 s1 =>
      match if c.entry = 8 || c.wd 4 ≠ 0 then s1.readShape u r1.ptrs (c.wd 4) else .ok {} s1 with
      | .fail e a s => s.hartTrap cl h e a
      | .wait t => s.waits t
      | .ok r2 s =>
        let t := (s.cluster cl).hart h
        let e := s.startCause cl h c r1.ds r2.ds t.std
        if e ≠ 0 then s.hartTrap cl h e (c.wd 1)
        else
          let t := { t with begun := true, dims := r1.ds, dims2 := r2.ds }
          let t := if t.std then t else { t with ctx := hartCtx c }
          let s := s.modCluster cl fun g => g.setHart h t
          if shapeCount r1.ds = 0 || shapeCount r2.ds = 0 then s.emptyDone cl h c
          else if t.std && !([0, 8, 16].contains c.entry) && !(c.entry = 24 && h = 2) then s.hartTrap cl h 0x1A 0
          else s

/-! The standard microcode (R258, R260, R266). -/

/-- The hart after a piece of element has been written, or all of it. -/
def Hart.written (t : Hart) (left : List (List (Loc × Byte))) : Hart :=
  { t with left := left, pos := if left.isEmpty then t.pos + 1 else t.pos
           finished := left.isEmpty && decide (t.pos + 1 = shapeCount t.dims) }

/-- An element read is passed on: to a stream at once, to memory piece by piece. -/
def State.hartPut (s : State) (cl h : Nat) (c : ECmd) (bs : List Byte) : Option State :=
  let t := (s.cluster cl).hart h
  let u := c.user cl
  let set (s : State) (t : Hart) : State := s.modCluster cl fun g => g.setHart h t
  if c.entry = 16 then
    match s.streamPush u.gen (c.wd 5 % 256) ⟨0, cl, h⟩ ((List.range 4).filter fun i => (c.wd 5).testBit (8 + i)) bs with
    | .ok _ s => some (set s (t.written []))
    | .fail e v s => some (s.hartTrap cl h e v)
    | .wait _ => none
  else
    let dst := endpointAt (c.wd 3) (shapeOff (if c.entry = 8 then t.dims2 else t.dims) t.pos)
    if isStream dst then
      match s.hartWrite u h dst bs with
      | .ok _ s => some (set s (t.written []))
      | .fail e v s => some (s.hartTrap cl h e v)
      | .wait _ => none
    else
      match s.placesNow u .write dst bs.length with
      | .error (e, a) => some (s.hartTrap cl h e a)
      | .ok (ls, s) =>
        if !s.windowsOk cl ls true then some (s.hartTrap cl h 0x0A dst)
        else some (set s { t with left := pieces cl (fun (x : Loc × Byte) => x.1) (List.zip ls bs) })

/-- One step of a copy: the next element is read, or a piece of it written, in any order of its pieces (R295). -/
def State.copyStep (s : State) (cl h : Nat) (c : ECmd) : State :=
  let t := (s.cluster cl).hart h
  match t.left with
  | _ :: _ =>
    let i := if t.left.length ≤ 1 then 0 else Config.pick s.freeCtr % t.left.length
    let s := if t.left.length ≤ 1 then s else s.fresh
    (match s.memPort cl ((t.left.getD i []).map (·.1)) (t.left.getD i []).length with
    | none => s
    | some s => match s.performRuns [] c.org (runsOf (t.left.getD i [])) with
      | .fail e s => s.hartTrap cl h e ((c.wd 3 + (shapeOff (if c.entry = 8 then t.dims2 else t.dims) t.pos)) % (2 ^ 64 : Nat)).toNat
      | .done s => s.modCluster cl fun g => g.setHart h ((g.hart h).written (t.left.eraseIdx i)))
  | [] =>
    match s.hartRead (c.user cl) h (endpointAt (c.wd 2) (shapeOff t.dims t.pos)) c.size with
    | .fail e v s => s.hartTrap cl h e v
    | .wait s => s
    | .ok bs u => (u.hartPut cl h c bs).getD s

/-- The R82 code of a group's element type; the integer types have none. -/
def typeFmt (ty : Nat) : Option Nat :=
  match ty with
  | 0 => some 0x0A
  | 1 => some 0x0C
  | 2 => some 0x0D
  | _ => none

/-- Free values in the place of elements whose format the group does not have. -/
def State.freeWords (s : State) : (n : Nat) → List Word × State
  | 0 => ([], s)
  | n + 1 =>
    let (ws, t) := s.fresh.freeWords n
    (s.freeWord :: ws, t)

/-- The oldest entry of the collective queue for a CRED is taken (R232, R266); with the last, its source is read. -/
def State.credTake (s : State) (cl h : Nat) (c : ECmd) (grp n : Nat) : State :=
  match (s.cluster cl).colq.find? fun e => e.core == c.org.core && e.tag == c.wd 2 % 2 ^ 16 with
  | none => s
  | some e =>
    let (vs, s) := if typeFmt (espType (s.espOf cl grp)) = some e.fmt then (e.els.map (BitVec.ofNat 64), s) else s.freeWords 1024
    let t := (s.cluster cl).hart h
    let t := { t with pos := t.pos + 1024, vals := t.vals ++ vs }
    let s := s.modCluster cl fun g => { g.setHart h t with colq := removeOne e g.colq }
    if t.pos = shapeCount t.dims then s.credSend cl h c grp n else s

/-- One step of a CRED: the next element is read. -/
def State.credStep (s : State) (cl h : Nat) (c : ECmd) (grp n : Nat) : State :=
  let t := (s.cluster cl).hart h
  if t.pos = shapeCount t.dims then s.credSend cl h c grp n
  else if c.queued then s.credTake cl h c grp n
  else
    match s.hartRead (c.user cl) h (endpointAt (c.wd 2) (shapeOff t.dims t.pos)) c.size with
    | .fail e v s => s.hartTrap cl h e v
    | .wait s => s
    | .ok bs s =>
      let t := { t with pos := t.pos + 1, vals := snoc t.vals (BitVec.ofNat 64 (natOfBytes bs)) }
      let s := s.modCluster cl fun g => g.setHart h t
      if t.pos = shapeCount t.dims then s.credSend cl h c grp n else s

/-- A command at ENTRY 24 of the collective hart that is no CRED instruction's (CKICK): it joins its core's operations of
group ARG0 (R266). -/
def State.joinGroup (s : State) (cl h : Nat) (c : ECmd) : State :=
  let grp := c.wd 5
  let k := s.core c.org.core
  if 63 < grp || !s.isMember c.org.core grp || bits (c.wd 0) 12 10 ≠ typeEsz (espType (s.espOf cl grp)) then s.hartTrap cl h 0x09 grp
  else
    let n := SMap.get 0 k.ccount grp
    let s := s.setCore c.org.core { k with ccount := SMap.put 0 k.ccount grp (n + 1) }
    s.modCluster cl fun g => g.setHart h { g.hart h with cmd := some { c with cred := some (grp, n, false), kick := true } }

/-- The harts of a stopped cluster hold (R403); those of an instance that is being reclaimed run out (R337). -/
def State.hartsHeld (s : State) (cl : Nat) : Bool :=
  let g := s.cluster cl
  g.stopped && !((s.inst? g.gen).map (·.rcl)).getD false

/-- ENGINE_COMMAND_START (R257, R258): an idle hart takes its next command and checks it; the standard microcode of a
started command goes one step on. An element that is being written is finished before a hart stops (R261). -/
def State.engineStep (s : State) (cl h : Nat) : State :=
  let g := s.cluster cl
  let t := g.hart h
  if (s.hartsHeld cl && t.left.isEmpty) || t.finished then s
  else
    match t.cmd with
    | none =>
      (match t.q with
        | [] => s
        | c :: q =>
          (s.setCluster cl (g.setHart h { t with cmd := some c, q := q, begun := false, pos := 0, vals := [], left := [], err := 0, tval := 0, since := s.time })).hartBegin
            cl h c)
    | some c =>
      if !t.begun then s.hartBegin cl h c
      else if !t.std then s
      else if c.entry = 24 then
        match c.cred with
        | some (grp, n, _) => s.credStep cl h c grp n
        | none => s.joinGroup cl h c
      else s.copyStep cl h c

def execEngineCommandStart (cl h : Nat) (s : State) : Host.Outcome State Fault Refusal := .next (s.engineStep cl h)

/-! Completion (R259, R266). -/

/-- The completion of a command: its slot and, when it failed, the mailbox of its hart, or a record (R259). -/
def State.kickDone (s : State) (c : ECmd) (h err tval : Nat) : State :=
  let s := if err ≠ 0 && c.cmpl.isSome then
      s.modCore c.org.core fun k => { k with mailbox := SMap.put 0 k.mailbox (4 + h) (errorWord err) }
    else s
  s.complete c.org c.cmpl err tval c.cmpl.isSome

/-- A collective ends at its member: a CRED through its events, or, when it failed and neither the local-result nor the all-finished event
is armed, a record (R266, R267); a CKICK by its completion (R259). -/
def State.memberDone (s : State) (c : ECmd) (grp n err tval : Nat) : State :=
  let core := c.org.core
  let armed := match (s.core core).armAt grp n with
    | some a => (a.loc <|> a.fin).isSome
    | none => false
  let s := if c.kick then s.kickDone c 2 err tval else if err = 0 || armed then s else s.record c.org err tval
  s.groupEvent core grp n 1 err

/-- A failed collective; the member takes part in the operation with no elements, which makes it fail at every member. -/
def State.credFail (s : State) (cl : Nat) (c : ECmd) (grp n err tval : Nat) : State :=
  let org := c.org
  let core := org.core
  let s := (s.groupEvent core grp n 0 0).memberDone c grp n err tval
  let s := s.modCluster cl fun g => g.setHart 2 { g.hart 2 with waiting := snoc (g.hart 2).waiting { c with failed := err } }
  s.sendPkt { org.pkt (16 * cl) org.tag 3 (.contrib grp n (core % 16) none) with
    src := core, vtag := s.viewTag cl grp, job := c.job, idx := c.idx, own := c.ownSlot }

/-- A packet of a cluster's combining site. -/
def State.siteMsg (s : State) (cl grp dst : Nat) (body : Body) : Pkt :=
  { org := { core := 16 * cl, node := .chan (16 * cl) 0, gen := (s.cluster cl).gen }, src := siteSrc cl, dst := dst, tag := 0,
    cls := 3, gen := (s.cluster cl).gen, vtag := s.viewTag cl grp, body := body }

/-- A member's report upwards that it has reached its local-result point (R267). -/
def State.reportDone (s : State) (core grp n err : Nat) : State :=
  s.sendPkt { s.siteMsg (clOf core) grp (16 * clOf core) (.finished grp n (core % 16) true true err) with src := noCore }

/-- ENGINE_COMMAND_COMPLETE (R259). -/
def State.engineComplete (s : State) (cl h : Nat) : State :=
  let t := (s.cluster cl).hart h
  match t.cmd with
  | none => s
  | some c =>
    if !t.finished then s
    else
      let s := s.modCluster cl fun g =>
        g.setHart h { t with cmd := none, begun := false, finished := false, ctx := {}, dims := [], dims2 := [], vals := [], left := [], pos := 0, err := 0, tval := 0 }
      match c.cred with
      | some (grp, n, _) =>
        if t.err ≠ 0 then s.credFail cl c grp n t.err t.tval
        else ((s.groupEvent c.org.core grp n 0 0).memberDone c grp n 0 0).reportDone c.org.core grp n 0
      | none => s.kickDone c h t.err t.tval

def execEngineCommandComplete (cl h : Nat) (s : State) : Host.Outcome State Fault Refusal := .next (s.engineComplete cl h)

/-- A command has run for WDOG core cycles (R261). -/
def State.engineLate (s : State) (cl h : Nat) : Bool :=
  let t := (s.cluster cl).hart h
  match t.cmd with
  | some c => !t.finished && !s.hartsHeld cl && decide (t.since + s.cyc (s.core c.org.core).wdog.toNat ≤ s.time)
  | none => false

/-- ENGINE_WATCHDOG (R261); TVAL is the core cycles used (R390). -/
def execEngineWatchdog (cl h : Nat) (s : State) : Host.Outcome State Fault Refusal :=
  .next (if s.engineLate cl h then s.hartTrap cl h 0x0F ((s.time - ((s.cluster cl).hart h).since) * coreMHz s.opclock / 1000) else s)

end Sys2Proof.Machine
end

