-- ==== Sys2Proof/Machine/Combine.lean ====
section
/-! DEFINITION. The combining network (R264–R268, R373–R376): contributions and partial results at the sites, results on
their way down, and the reports of the all-finished event. -/
namespace Sys2Proof.Machine

open Sys2Proof

/-! The fold (R264, R375). -/

/-- Two elements of a group type combined: operators 0 add, 1 min, 2 max, 3 and, 4 or, 5 xor. -/
def foldElem (ty op a b : Nat) : Nat :=
  let w := typeBits ty
  let a := a % 2 ^ w
  let b := b % 2 ^ w
  let flt (f : BinFmt) : Nat :=
    match op with
    | 0 => (fpAdd f false a b).1
    | 1 => (f.minMax true false a b).1
    | _ => (f.minMax false false a b).1
  let le : Bool := if ty = 3 || ty = 5 then decide (toSigned w a ≤ toSigned w b) else decide (a ≤ b)
  match ty with
  | 0 => flt f32
  | 1 => flt bf16
  | 2 => flt f16
  | _ =>
    match op with
    | 0 => (a + b) % 2 ^ w
    | 1 => if le then a else b
    | 2 => if le then b else a
    | 3 => Nat.land a b
    | 4 => Nat.lor a b
    | _ => Nat.xor a b

/-- Two inputs folded element by element; inputs of different lengths fail (R266). -/
def foldTwo (ty op : Nat) (a b : Option (List Word)) : Option (List Word) :=
  match a, b with
  | some x, some y =>
    if x.length = y.length then some ((List.zip x y).map fun (i, j) => BitVec.ofNat 64 (foldElem ty op i.toNat j.toNat)) else none
  | _, _ => none

/-- The left-to-right fold over inputs in order of position. -/
def foldInputs (ty op : Nat) : List (Option (List Word)) → Option (List Word)
  | [] => none
  | a :: t => t.foldl (foldTwo ty op) (a.map fun l => l.map fun x => BitVec.ofNat 64 (x.toNat % 2 ^ typeBits ty))

/-! Sites and the rank tree (R373, R376). -/

/-- Rank of a package in the view. -/
def Views.rank (v : Views) (pkg : Nat) : Nat := (v.members.filter (· < pkg)).length
/-- Child packages of this package, in ascending rank. -/
def Views.children (v : Views) : List Nat :=
  (List.range 3).filterMap fun i => v.members[3 * v.rank ownPkg + 1 + i]?
/-- The parent package; none at rank 0. -/
def Views.parent (v : Views) : Option Nat :=
  if v.rank ownPkg = 0 then none else v.members[(v.rank ownPkg - 1) / 3]?
/-- The position of a child package's input. -/
def Views.childPos (v : Views) (pkg : Nat) : Option Nat := (v.children.findIdx? (· == pkg)).map (18 + ·)

def espPar (e : Word) : Nat := wbits e 35 34

/-- The inputs that a site waits for (R375, R376). -/
def State.siteInputs (s : State) (cl grp : Nat) : List Nat :=
  let e := s.espOf cl grp
  espMembers e ++ (if e.getLsbD 32 then [16] else []) ++ (if e.getLsbD 33 then [17] else [])
    ++ (if espPar e = 0 && espXpkg e then (List.range s.views.children.length).map (18 + ·) else [])

/-- The cluster of a site's parent and the position of its input there. -/
def siteParent (e : Word) (cl : Nat) : Option (Nat × Nat) :=
  match espPar e with
  | 1 => some (cl - 1, 16)
  | 2 => some (cl - 16, 17)
  | _ => none

/-- A packet of a root site to another package of the view. -/
def State.sendPackage (s : State) (cl grp pkg : Nat) (body : Body) : State :=
  let p := s.siteMsg cl grp (16 * cl) body
  match s.inst? p.gen with
  | some i =>
    let p := { p with dpkg := some pkg, spkg := ownPkg, xfid := i.fid, xver := i.ver }
    p.split.foldl (fun t p => t.passPort p fun s => s.depart p) s
  | none => s

/-- A message to a site's parent: a site of this package, the parent package, or, at the root of them all, `top`. -/
def State.sendUp (s : State) (cl grp : Nat) (body : Nat → Body) (top : State → State) : State :=
  let e := s.espOf cl grp
  match siteParent e cl with
  | some (p, pos) => s.sendAll (s.siteMsg cl grp (16 * p) (body pos))
  | none =>
    match if espXpkg e then s.views.parent else none with
    | some pkg => s.sendPackage cl grp pkg (body 18)
    | none => top s

/-- A message to every member core of a site and every site and package below it. -/
def State.sendDown (s : State) (cl grp : Nat) (body : (site : Bool) → Body) : State :=
  let e := s.espOf cl grp
  let s := (espMembers e).foldl (fun t i => t.sendAll (t.siteMsg cl grp (16 * cl + i) (body false))) s
  let s := if e.getLsbD 32 then s.sendAll (s.siteMsg cl grp (16 * (cl + 1)) (body true)) else s
  let s := if e.getLsbD 33 then s.sendAll (s.siteMsg cl grp (16 * (cl + 16)) (body true)) else s
  if espPar e = 0 && espXpkg e then s.views.children.foldl (fun t pkg => t.sendPackage cl grp pkg (body true)) s else s

/-! Operations of a site. -/

def Cluster.op (g : Cluster) (grp n : Nat) : CombOp := (g.comb.find? fun o => o.grp == grp && o.n == n).getD { grp := grp, n := n }
def Cluster.setOp (g : Cluster) (o : CombOp) : Cluster :=
  { g with comb := snoc (g.comb.filter fun x => !(x.grp == o.grp && x.n == o.n)) o }
def Cluster.dropOp (g : Cluster) (grp n : Nat) : Cluster :=
  { g with comb := g.comb.filter fun x => !(x.grp == grp && x.n == n) }

/-- The input at a position. -/
def CombOp.part (o : CombOp) (pos : Nat) : Option (Option (List Word)) := (o.parts.find? (·.1 == pos)).map (·.2)

/-- A site with every input of an operation folds and passes the result on; at the root of all it is the final result. -/
def State.siteRun (s : State) (cl grp n : Nat) : State :=
  let o := (s.cluster cl).op grp n
  let e := s.espOf cl grp
  let ins := (s.siteInputs cl grp).map o.part
  if o.sent || ins.isEmpty || ins.any (·.isNone) then s
  else
    let v := foldInputs (espType e) (espOp e) (ins.filterMap id)
    (s.modCluster cl fun g => g.setOp { o with sent := true }).sendUp cl grp (fun pos => .contrib grp n pos v)
      fun s => s.sendAll (s.siteMsg cl grp (16 * cl) (.result grp n true 0 v))

/-- The position of an input: of a packet from another package, its rank-tree place. -/
def State.inputPos (s : State) (p : Pkt) (pos : Nat) : Option Nat :=
  if p.spkg = ownPkg then some pos else s.views.childPos p.spkg

/-- An input enters its operation at a site (R267, R375). -/
def State.siteTake (s : State) (p : Pkt) (grp n pos : Nat) (v : Option (List Word)) : State :=
  let cl := clOf p.dst
  match s.inputPos p pos with
  | none => s
  | some pos =>
    let o := (s.cluster cl).op grp n
    let s := if pos < 16 then s.groupEvent (16 * cl + pos) grp n 0 0 else s
    if (o.part pos).isSome then s
    else (s.modCluster cl fun g => g.setOp { o with parts := snoc o.parts (pos, v) }).siteRun cl grp n

/-- COMBINING_CONTRIBUTION (R268, R372, R375, R380, R382). -/
def State.contribution (s : State) (p : Pkt) (grp n pos : Nat) : State :=
  let cl := clOf p.dst
  let g := s.cluster cl
  let base := SMap.get 0 g.cbase grp
  if s.stale p then (s.dropStale p).noted p
  else if s.oldView p then
    -- a member's value goes again with the new tag, unless the group re-weights (R382, R383)
    let s := s.dropView cl
    if pos < 16 && p.spkg = ownPkg && !espReweight (s.espOf cl grp) then s.sendPkt { p with vtag := some s.views.view } else s.noted p
  else if n < base then s.noted p
  else if n ≤ base + 1 then
    (match s.gather p with
      | (some { body := .contrib _ _ _ v, .. }, s) => (s.siteTake p grp n pos v).noted p
      | (_, s) => s)
  else if g.galley.length < 64 then s.setCluster cl { g with galley := snoc g.galley p }
  else (s.refuse p p.org.node).noted p

def execCombiningContribution (p : Pkt) (s : State) : Host.Outcome State Fault Refusal :=
  .next (match p.body with
    | .contrib grp n pos _ => s.contribution p grp n pos
    | _ => s)

/-- Contributions of a group held in the galley that the window now admits (R372). -/
def State.drainComb (s : State) (cl grp : Nat) : State :=
  let g := s.cluster cl
  let lim := SMap.get 0 g.cbase grp + 1
  let now (p : Pkt) : Bool := match p.body with
    | .contrib k n _ _ => k == grp && decide (n ≤ lim) && clOf p.dst == cl
    | _ => false
  (g.galley.filter now).foldl (fun t p =>
    match p.body with
    | .contrib k n pos _ => t.contribution p k n pos
    | _ => t) (s.setCluster cl { g with galley := g.galley.filter fun p => !now p })

/-- A result passes through a site on its way down (R375, R376); the root keeps a final result of a group that spans
packages (R381): survivors can lack the last two. -/
def State.siteResult (s : State) (cl grp n : Nat) (v : Option (List Word)) : State :=
  let g := s.cluster cl
  let e := s.espOf cl grp
  if SMap.get 0 g.cbase grp ≠ n then s
  else
    let s := s.setCluster cl { g.setOp { g.op grp n with parts := [], sent := true } with cbase := SMap.put 0 g.cbase grp (n + 1) }
    let s := if espPar e = 0 && espXpkg e then
        { s with views := { s.views with
            kept := snoc (s.views.kept.filter fun x => !(x.gen == g.gen && x.grp == grp && decide (x.n + 2 ≤ n))) { gen := g.gen, grp := grp, n := n, v := v } } }
      else s
    (s.sendDown cl grp fun site => .result grp n site 0 v).drainComb cl grp

/-! Results at a member core (R265–R267). -/

/-- A CCON's local-result point at a member, and its report upwards (R267). -/
def State.localDone (s : State) (core grp n err tval : Nat) : State :=
  let cl := clOf core
  let armed := match (s.core core).armAt grp n with
    | some a => (a.loc <|> a.fin).isSome
    | none => false
  let s := if err = 0 || armed then s else s.record { core := core, node := .chan core 0, gen := (s.cluster cl).gen } err tval
  (s.groupEvent core grp n 1 err).reportDone core grp n err

/-- The CRED of a core that waits for operation `n`. -/
def State.waitingCred (s : State) (core grp n : Nat) : Option ECmd :=
  (((s.cluster (clOf core)).hart 2).waiting).find? fun c => c.org.core == core && (match c.cred with
    | some (k, m, _) => k == grp && m == n
    | none => false)

def State.dropCred (s : State) (c : ECmd) (cl : Nat) : State :=
  s.modCluster cl fun g => g.setHart 2 { g.hart 2 with waiting := removeOne c (g.hart 2).waiting }

/-- A CRED ends at its member, and reports upwards (R266, R267). -/
def State.credEnd (s : State) (c : ECmd) (core grp n err tval : Nat) : State :=
  ((s.dropCred c (clOf core)).memberDone c grp n err tval).reportDone core grp n err

/-- A CRED has written the whole result to its destination, from where it can be read again (R381). -/
def State.keepCred (s : State) (c : ECmd) (grp n : Nat) : State :=
  { s with views := { s.views with kept := s.views.kept.map fun k =>
      if k.gen == c.org.gen && k.grp == grp && k.n == n && k.cred.isNone then { k with cred := some c } else k } }

/-- A CRED's result is written element by element at its destination (R266). -/
def State.credResult (s : State) (p : Pkt) (c : ECmd) (grp n pos : Nat) (v : Option (List Word)) : State :=
  let cl := clOf p.dst
  match v with
  | none => s.credEnd c p.dst grp n 0x1A 0
  | some l =>
    match l[pos]? with
    | none => (s.keepCred c grp n).credEnd c p.dst grp n 0 0
    | some w =>
      let dst := endpointAt (c.wd 3) (shapeOff c.dims pos)
      match s.hartWrite (c.user cl) 2 dst (bytesOfNat c.size w.toNat) with
      | .ok _ t => { t with net := { p with body := .result grp n false (pos + 1) v } :: t.net }
      | .fail e a t => t.credEnd c p.dst grp n e a
      | .wait _ => { s with net := p :: s.net }

/-- A CCON's result enters the result queue, and activations that wait for the group are queued (R265). -/
def State.pushResult (s : State) (core grp n : Nat) (w : Word) : State :=
  let k := s.core core
  let s := s.setCore core { k with
    results := snoc k.results { grp := grp, n := n, v := w }, cextQ := k.cextQ.filter (·.1 != grp) }
  (k.cextQ.filter (·.1 == grp)).foldl (fun t x => t.rejoin core x.2) s

/-- A result at a member core. -/
def State.coreResult (s : State) (p : Pkt) (grp n pos : Nat) (v : Option (List Word)) : State :=
  match s.waitingCred p.dst grp n with
  | some c =>
    if c.failed ≠ 0 then (s.dropCred c (clOf p.dst)).reportDone p.dst grp n c.failed else s.credResult p c grp n pos v
  | none =>
    match v with
    | some l => (s.pushResult p.dst grp n (l.headD 0)).localDone p.dst grp n 0 0
    | none => s.localDone p.dst grp n 0x1A 0

/-! The all-finished event (R267). -/

/-- The cause of the first failure below a site, in fold order. -/
def CombOp.failure (o : CombOp) (ins : List Nat) : Nat :=
  ((ins.filterMap fun i => (o.fin.find? (·.1 == i)).map (·.2)).find? (· != 0)).getD 0

/-- A site below which every member has reached its local-result point reports upwards; the root of all reports down. -/
def State.finRun (s : State) (cl grp n : Nat) : State :=
  let o := (s.cluster cl).op grp n
  let ins := s.siteInputs cl grp
  if o.up || !(ins.all fun i => o.fin.any (·.1 == i)) then s
  else
    let err := o.failure ins
    (s.modCluster cl fun g => g.setOp { o with up := true }).sendUp cl grp (fun pos => .finished grp n pos true true err)
      fun s => s.sendPkt (s.siteMsg cl grp (16 * cl) (.finished grp n 0 false true err))

/-- A report at a site. -/
def State.siteFin (s : State) (p : Pkt) (grp n pos : Nat) (up : Bool) (err : Nat) : State :=
  let cl := clOf p.dst
  if up then
    match s.inputPos p pos with
    | none => s
    | some pos =>
      (s.modCluster cl fun g =>
        let o := g.op grp n
        if o.fin.any (·.1 == pos) then g else g.setOp { o with fin := snoc o.fin (pos, err) }).finRun cl grp n
  else
    -- of an operation in which no element moved no result has passed: the next operations are admitted now
    let s := (s.sendDown cl grp fun site => .finished grp n 0 false site err).modCluster cl fun g =>
      { g.dropOp grp n with cbase := SMap.put 0 g.cbase grp (max (n + 1) (SMap.get 0 g.cbase grp)) }
    let s := s.drainComb cl grp
    if (s.siteInputs cl grp).any (· < 16) then s.guardDue (s.cluster cl).gen cl else s

/-- COMBINING_RESULT: results and reports on their way (R265–R267, R375, R380). -/
def State.combResult (s : State) (p : Pkt) : State :=
  match p.body with
  | .result grp n site pos _ =>
    if s.stale p then s.dropStale p
    else if s.oldView p then s.dropView (clOf p.dst)
    else
      (match s.gather p with
        | (some { body := .result _ _ _ _ v, .. }, t) =>
          if site then t.siteResult (clOf p.dst) grp n v else t.coreResult { p with part := (0, 1) } grp n pos v
        | (_, t) => t)
  | .finished grp n pos up site err =>
    if s.stale p then s.dropStale p
    else if site then s.siteFin p grp n pos up err
    else s.groupEvent p.dst grp n 2 err
  | _ => s

def execCombiningResult (p : Pkt) (s : State) : Host.Outcome State Fault Refusal := .next (s.combResult p)

end Sys2Proof.Machine
end

