-- ==== Sys2Proof/Machine/Faults.lean ====
section
/-! DEFINITION. Fault records on their way to the loader (R349, R394–R396), the error token (R350–R352), and the guard
log (R303). -/
namespace Sys2Proof.Machine

open Sys2Proof

/-! Graph ranks and merging. -/

/-- The core of a node. -/
def Node.core : Node → Nat
  | .slot c _ _ => c
  | .chan c _ => c

/-- The nodes of an edge section in the order of their appearance (R396). -/
def Inst.nodes (i : Inst) : List Node := (i.edges.getD []).flatMap fun (a, b) => [a, b]

/-- Whether node `a` ranks before node `b` (R396): by first appearance, then forme core, channels before slot words, index. -/
def Inst.before (i : Inst) (a b : Node) : Bool :=
  let r (n : Node) : Nat := i.nodes.findIdx (· == n)
  let key (n : Node) : Nat := match n with
    | .chan c ch => c * 2 ^ 22 + ch
    | .slot c f k => c * 2 ^ 22 + 2 ^ 21 + f * 512 + k
  decide (r a < r b) || (r a == r b && decide (key a < key b))

/-- The two records as one (R395): the one of lower graph rank, then of earlier TIME, then of lower core, which counts the
other. -/
def Inst.merge (i : Inst) (a b : FaultRec) : FaultRec :=
  let first := i.before a.node b.node ||
    (!i.before b.node a.node && (decide (a.time < b.time) || (a.time == b.time && decide (a.core ≤ b.core))))
  { (if first then a else b) with merged := a.merged + b.merged + 1 }

/-! The freeze (R349, R352). -/

/-- The pins of completion slots end (R139). -/
def State.unpinAll (s : State) : List Cmpl → State
  | [] => s
  | c :: t => (s.unpin c.core c.fid).unpinAll t

/-- The armed timers of an instance on a core are removed and counted (R352). -/
def State.dropTimers (s : State) (gen core : Nat) : State :=
  let k := s.core core
  let mine := k.timers.filter (·.gen == gen)
  if mine.isEmpty then s
  else ((s.setCore core { k with timers := k.timers.filter (·.gen != gen) }).unpinAll (mine.map (·.cmpl))).dropped gen mine.length

/-- The waiting RLOG puts of an instance at a die are removed and counted (R352). -/
def State.dropPuts (s : State) (gen die : Nat) : State :=
  let d := s.die die
  let waits (w : RlogWait) : Bool := w.pkt.gen == gen && w.half.isNone
  let mine := d.rlog.filter waits
  if mine.isEmpty then s
  else
    let s := (s.setDie die { d with rlog := d.rlog.filter fun w => !waits w }).dropped gen mine.length
    mine.foldl (fun t w =>
      match w.pkt.body with
      | .rlogPut _ _ _ _ c => (t.unpin c.core c.fid).performed w.pkt
      | _ => t) s

def State.dropWaits (s : State) (i : Inst) : State :=
  (List.range 8).foldl (fun t d => t.dropPuts i.gen d) (i.cores.foldl (fun t c => t.dropTimers i.gen c) s)

/-- The first record against a RUNNING or DRAINING instance freezes it; 10 ms later it is reclaimed (R337, R349). -/
def State.freeze (s : State) (i : Inst) : State :=
  if i.st == .running || i.st == .draining then
    ((s.modInst i.gen fun x => { x with st := .frozen }).dropWaits i).after 10000000 (.reclaim i.gen)
  else s

/-! The climb (R395). -/

/-- The cluster to whose site a record goes next; the root's go to the loader (R373). -/
def Inst.parent (i : Inst) (cl : Nat) : Option Nat :=
  if cl ≤ i.first then none else if i.first + 16 ≤ cl then some (cl - 16) else some (cl - 1)

/-- A record at the loader (R395, R349). -/
def State.atLoader (s : State) (i : Inst) (r : FaultRec) : State :=
  if i.tokenSent then s.modInst i.gen fun x => { x with merged := x.merged + r.merged + 1 }
  else
    match i.firstFault with
    | some q => s.modInst i.gen fun x => { x with firstFault := some (i.merge q r) }
    | none => (s.modInst i.gen fun x => { x with firstFault := some r }).after (s.cyc 4096) (.errorTokenIssue i.gen)

/-- A held record is passed on. -/
def State.passUp (s : State) (i : Inst) (cl : Nat) (r : FaultRec) : State :=
  match i.parent cl with
  | some q => s.sendPkt { r.pkt q with src := siteSrc cl }
  | none => s.atLoader i r

/-- A record joins a site's: it merges with one of the same generation and route tag, or is held. -/
def Inst.join (i : Inst) (due : Nat) (r : FaultRec) : List HeldRec → List HeldRec
  | [] => [{ r := r, due := due }]
  | h :: t => if h.r.gen = r.gen ∧ h.r.tag = r.tag then { h with r := i.merge h.r r } :: t else h :: i.join due r t

/-- FAULT_RECORD_ARRIVAL (R349, R395): at a site of the record's instance. A record of an instance that is gone is a stale
packet. -/
def State.faultRecord (s : State) (cl : Nat) (r : FaultRec) : State :=
  match s.inst? r.gen with
  | none => s.modCluster cl fun k => { k with gdrop := k.gdrop + 1 }
  | some i =>
    if i.st == .unloaded || i.st == .loading then s.modCluster cl fun k => { k with gdrop := k.gdrop + 1 }
    else
      let cl := if i.first ≤ cl ∧ cl ≤ i.last then cl else i.first
      let s := s.freeze i
      let due := s.time + s.cyc 64
      let held := i.join due r (s.cluster cl).site
      let new := (s.cluster cl).site.length < held.length
      let s := if new then s.after (s.cyc 64) (.siteRecordForward cl) else s
      if 8 < held.length then
        match held with
        | h :: t => (s.modCluster cl fun k => { k with site := t }).passUp i cl h.r
        | [] => s
      else s.modCluster cl fun k => { k with site := held }

def execFaultRecordArrival (cl : Nat) (r : FaultRec) (s : State) : Host.Outcome State Fault Refusal := .next (s.faultRecord cl r)

/-- SITE_RECORD_FORWARD (R395): the records that have been held for 64 core cycles go to the parent, oldest first. -/
def State.siteForward (s : State) (cl : Nat) : State :=
  let k := s.cluster cl
  let s := s.setCluster cl { k with site := k.site.filter fun h => decide (s.time < h.due) }
  (k.site.filter fun h => decide (h.due ≤ s.time)).foldl (fun t h =>
    match t.inst? h.r.gen with
    | some i => t.passUp i cl h.r
    | none => t) s

def execSiteRecordForward (cl : Nat) (s : State) : Host.Outcome State Fault Refusal := .next (s.siteForward cl)

/-! The error token (R349–R351). -/

/-- The error token on its way from a cluster to a node, or to every node of a core. -/
def State.sendToken (s : State) (from_ gen core : Nat) (n : Option Node) : State :=
  s.sendPkt { org := { core := core, gen := gen, kind := 5 }, src := siteSrc from_, dst := core, tag := 0, cls := 0, gen := gen, body := .errTok n }

/-- ERROR_TOKEN_ISSUE (R349, R350). -/
def State.issueToken (s : State) (gen : Nat) : State :=
  match s.inst? gen with
  | some i =>
    (match i.firstFault with
      | some r =>
        if i.st == .frozen && !i.tokenSent then
          let s := s.modInst gen fun x => { x with tokenSent := true }
          if i.edges.isSome then s.sendToken i.first gen r.node.core (some r.node)
          else i.cores.foldl (fun t c => t.sendToken i.first gen c none) s
        else s
      | none => s)
  | none => s

def execErrorTokenIssue (gen : Nat) (s : State) : Host.Outcome State Fault Refusal := .next (s.issueToken gen)

/-- The activation that a cancelled slot word queues (R351). -/
def cancelAct (w : Word) (fid k : Nat) : Act :=
  { fid := some fid, plate := wbits w 27 26, off8 := wbits w 25 16, ix := k, tag := 0, level := wbits w 35 28,
    first := wbits w 35 28, err := w.getLsbD 46, ecls := wbits w 41 39, cancel := true }

/-- The word that a cancelled slot word becomes (R351): COUNT 0, CX 1; when it queues an activation, EL and ECLS are cleared and RP
is set. -/
def cancelWord (w : Word) : Word :=
  let w := setBits (setBits w 15 0 0) 42 42 1
  if w.getLsbD 43 then setBits (setBits (setBits w 46 46 0) 41 39 0) 45 45 1 else w

/-- An activation queued; with the ready queue full it waits at the frame port (R346). -/
def State.queueAct (s : State) (core gen : Nat) (a : Act) : State :=
  let fid := a.fid.getD 0
  if !((s.core core).fent fid).res || ((s.core core).room && (s.core core).portQ.isEmpty) then s.queueFire core gen a
  else
    let (s, a) := s.newAct core a
    s.modCore core fun k => { k with portQ := snoc k.portQ (.act a) }

/-- A reached slot word is cancelled (R351). -/
def State.cancel (s : State) (gen core fid k : Nat) : State :=
  let e := (s.core core).fent fid
  let w := s.slotWord core fid k
  if !e.v || e.words ≤ k || cnt w = 0 then s
  else
    let (ok, s) := s.changeWord core fid k cancelWord
    if !ok then s
    else if w.getLsbD 43 then
      s.queueAct core gen (cancelAct w fid k)
    else s.modInst gen fun i => { i with cancd := i.cancd + 1 }

/-- The error token reaches a node for the first time (R350, R351). -/
def State.reach (s : State) (gen : Nat) (n : Node) : State :=
  let s := s.modInst gen fun i => { i with reached := snoc i.reached n }
  match n with
  | .slot c f k => s.cancel gen c f k
  | .chan _ _ => s

/-- The slot words and channels of a core (R350): the words of its frames' slot maps (R23). -/
def Core.nodes (k : Core) (core : Nat) : List Node :=
  (k.ftab.flatMap fun (f, e) => if e.v then ((List.range e.words).filter e.marked).map (.slot core f ·) else [])
    ++ (List.range 64).map (.chan core ·)

/-- ERROR_TOKEN (R350, R351). -/
def State.token (s : State) (p : Pkt) (n : Option Node) : State :=
  match s.inst? p.gen with
  | none => s
  | some i =>
    if s.stale p then s.dropStale p
    else
      match n with
      | some n =>
        if i.reached.contains n then s
        else
          ((i.edges.getD []).filter (fun e => e.1 == n)).foldl (fun t e => t.sendToken (clOf p.dst) p.gen e.2.core (some e.2)) (s.reach p.gen n)
      | none => (((s.core p.dst).nodes p.dst).filter fun n => !i.reached.contains n).foldl (fun t n => t.reach p.gen n) s

def execErrorToken (p : Pkt) (s : State) : Host.Outcome State Fault Refusal :=
  .next (match p.body with
    | .errTok n => s.token p n
    | _ => s)

/-! The guard log (R303). -/

/-- TVAL of a guard record (R303). -/
def GuardTouch.tval (t : GuardTouch) : Nat :=
  t.off + t.bank * 2 ^ 22 + t.cl * 2 ^ 27 + t.core * 2 ^ 36 + t.lost % 2 ^ 16 * 2 ^ 48

/-- GUARD_LOG_RAISE: the touches that are due are raised at the owner's cluster, against the instance that made them. -/
def State.guardRaise (s : State) (cl : Nat) : State :=
  let k := s.cluster cl
  let s := s.setCluster cl { k with glog := k.glog.filter fun t => decide (s.time < t.due) }
  (k.glog.filter fun t => decide (t.due ≤ s.time)).foldl (fun u t =>
    u.sendPkt (FaultRec.pkt
      { cause := 0x0B, imprecise := true, tval := t.tval, time := u.time, tag := t.org.tag, gen := t.gen, core := t.org.core,
        epc := 0, node := t.org.node } cl)) s

def execGuardLogRaise (cl : Nat) (s : State) : Host.Outcome State Fault Refusal := .next (s.guardRaise cl)

end Sys2Proof.Machine
end

