-- ==== Sys2Proof/Machine/Crypto.lean ====
section
/-! DEFINITION. SHAKE256 (FIPS 202) and Ed448 (RFC 8032), which R423–R425 name (PRESUMED, log entry 115). -/
namespace Sys2Proof.Machine

open Sys2Proof

/-! SHAKE256. -/

/-- A lane of the state turned left. -/
def rotl64 (x n : Nat) : Nat := x * 2 ^ n % 2 ^ 64 + x / 2 ^ (64 - n)

/-- Rotation of lane x + 5y. -/
def keccakTurns : List Nat :=
  [0, 1, 62, 28, 27, 36, 44, 6, 55, 20, 3, 10, 43, 25, 39, 41, 45, 15, 21, 8, 18, 2, 61, 56, 14]

def keccakConstants : List Nat :=
  [0x0000000000000001, 0x0000000000008082, 0x800000000000808A, 0x8000000080008000, 0x000000000000808B, 0x0000000080000001,
   0x8000000080008081, 0x8000000000008009, 0x000000000000008A, 0x0000000000000088, 0x0000000080008009, 0x000000008000000A,
   0x000000008000808B, 0x800000000000008B, 0x8000000000008089, 0x8000000000008003, 0x8000000000008002, 0x8000000000000080,
   0x000000000000800A, 0x800000008000000A, 0x8000000080008081, 0x8000000000008080, 0x0000000080000001, 0x8000000080008008]

/-- One round on the 25 lanes, lane x + 5y at that place. -/
def keccakRound (a : List Nat) (rc : Nat) : List Nat :=
  let at_ (l : List Nat) (i : Nat) : Nat := l.getD i 0
  let c := (List.range 5).map fun x => (List.range 5).foldl (fun v y => Nat.xor v (at_ a (x + 5 * y))) 0
  let a := a.mapIdx fun i v => Nat.xor v (Nat.xor (at_ c ((i + 4) % 5)) (rotl64 (at_ c ((i + 1) % 5)) 1))
  let b := (List.range 25).map fun i =>
    let j := (i % 5 + 3 * (i / 5)) % 5 + 5 * (i % 5)
    rotl64 (at_ a j) (at_ keccakTurns j)
  (List.range 25).map fun i =>
    let y := i / 5 * 5
    let v := Nat.xor (at_ b i) (Nat.land (2 ^ 64 - 1 - at_ b (y + (i + 1) % 5)) (at_ b (y + (i + 2) % 5)))
    if i = 0 then Nat.xor v rc else v

/-- Blocks of 136 bytes absorbed. -/
def keccakAbsorb (a : List Nat) (bs : List Byte) : (blocks : Nat) → List Nat
  | 0 => a
  | n + 1 =>
    let ws := (wordsOfBytes 17 bs).map (·.toNat)
    keccakAbsorb (keccakConstants.foldl keccakRound (a.mapIdx fun i v => Nat.xor v (ws.getD i 0))) (bs.drop 136) n

/-- The first `n` bytes of SHAKE256's output, at most 136. -/
def shake256 (n : Nat) (bs : List Byte) : List Byte :=
  let blocks := bs.length / 136 + 1
  let pad := 136 * blocks - bs.length
  let tail : List Byte := if pad = 1 then [0x9F] else 0x1F :: (List.replicate (pad - 2) 0 ++ [0x80])
  ((keccakAbsorb (List.replicate 25 0) (bs ++ tail) blocks).flatMap (bytesOfNat 8)).take n

/-! Ed448. -/

namespace Ed448

def p : Nat := 2 ^ 448 - 2 ^ 224 - 1
/-- The order of the base point. -/
def order : Nat := 2 ^ 446 - 13818066809895115352007386748515426880336692474882178609894547503885
/-- The curve's constant d = −39081. -/
def d : Nat := p - 39081

def sub (a b : Nat) : Nat := (a + p - b) % p

/-- `b` to the power of an exponent below 2^448. -/
def pow (b e : Nat) : Nat :=
  (List.range 448).foldr (fun i v => let w := v * v % p; if e.testBit i then w * b % p else w) 1

/-- A point in projective coordinates. -/
structure Point where
  x : Nat
  y : Nat
  z : Nat

def Point.add (a b : Point) : Point :=
  let k := a.z * b.z % p
  let b2 := k * k % p
  let c := a.x * b.x % p
  let e := a.y * b.y % p
  let t := d * (c * e % p) % p
  let f := sub b2 t
  let g := (b2 + t) % p
  let h := (a.x + a.y) * (b.x + b.y) % p
  { x := k * f % p * sub (sub h c) e % p, y := k * g % p * sub e c % p, z := f * g % p }

def Point.zero : Point := { x := 0, y := 1, z := 1 }

def base : Point :=
  { x := 224580040295924300187604334099896036246789641632564134246125461686950415467406032909029192869357953282578032075146446173674602635247710
    y := 298819210078481492676017930443930673437544040154080242095928241372331506189835876003536878655418784733982303233503462500531545062832660
    z := 1 }

/-- A multiple of a point, of a number below 2^448. -/
def Point.times (n : Nat) (a : Point) : Point :=
  (List.range 448).foldr (fun i v => let w := v.add v; if n.testBit i then w.add a else w) .zero

def Point.same (a b : Point) : Bool := a.x * b.z % p == b.x * a.z % p && a.y * b.z % p == b.y * a.z % p

/-- The 57 bytes of a point. -/
def Point.bytes (a : Point) : List Byte :=
  let i := pow a.z (p - 2)
  bytesOfNat 57 (a.y * i % p + (a.x * i % p) % 2 * 2 ^ 455)

/-- The point of 57 bytes. -/
def point (bs : List Byte) : Option Point :=
  let n := natOfBytes bs
  let y := n % 2 ^ 455
  let u := sub (y * y % p) 1
  let v := sub (d * (y * y % p) % p) 1
  let uv := u * v % p
  let x := u * u % p * uv % p * pow (u * u % p * (u * u % p) % p * (u * v % p * (v * v % p) % p) % p) ((p - 3) / 4) % p
  if bs.length ≠ 57 || p ≤ y || x * x % p * v % p ≠ u || (x == 0 && n / 2 ^ 455 == 1) then none
  else some { x := if x % 2 = n / 2 ^ 455 then x else p - x, y := y, z := 1 }

/-- A hash as a number, with the domain of the pure variant and an empty context. -/
def hash (bs : List Byte) : Nat := natOfBytes (shake256 114 ([0x53, 0x69, 0x67, 0x45, 0x64, 0x34, 0x34, 0x38, 0, 0] ++ bs))

/-- Whether a signature of a message verifies under a key; the equation is taken with the cofactor. -/
def verify (key msg sig : List Byte) : Bool :=
  match point key, point (sig.take 57) with
  | some a, some r =>
    let s := natOfBytes (sig.drop 57)
    let k := hash (sig.take 57 ++ key ++ msg) % order
    sig.length == 114 && decide (s < order)
      && ((base.times s).times 4).same ((r.add (a.times k)).times 4)
  | _, _ => false

/-- The secret number of a private key, and its prefix. -/
def secret (key : List Byte) : Nat × List Byte :=
  let h := shake256 114 key
  let s := natOfBytes (h.take 56)
  (s / 4 % 2 ^ 445 * 4 + 2 ^ 447, h.drop 57)

/-- The publicKey key of a private key. -/
def publicKey (key : List Byte) : List Byte := (base.times (secret key).1).bytes

/-- The signature of a message by a private key. -/
def sign (key msg : List Byte) : List Byte :=
  let (s, pre) := secret key
  let r := hash (pre ++ msg) % order
  let rb := (base.times r).bytes
  rb ++ bytesOfNat 57 ((r + hash (rb ++ publicKey key ++ msg) % order * s) % order)

end Ed448

end Sys2Proof.Machine
end

