-- ==== Sys2Proof/Machine/Image.lean ====
section
/-! DEFINITION. Forme images: header, sections and records (R324–R326, R342, R350, R424), and the checks of R330 that an image
passes before it enters a store. -/
namespace Sys2Proof.Machine

open Sys2Proof

/-! The image. -/

/-- A section entry. -/
structure Sec where
  ty : Nat
  off : Nat
  len : Nat
  deriving DecidableEq, Repr

/-- An image with its header fields (R324). -/
structure Image where
  bytes : List Byte
  fid : Nat
  ver : Nat
  part : Bool
  priv : Bool
  l1f : Bool
  floor : Nat
  ncl : Nat
  wdog : Nat
  caps : Nat
  frames : Nat
  spad : Nat
  service : Option (Nat × Nat)
  secs : List Sec
  deriving DecidableEq, Repr

/-- The number in `n` bytes at an offset of a byte string. -/
def numAt (bs : List Byte) (off n : Nat) : Nat := natOfBytes ((bs.drop off).take n)

/-- Bytes of the section entries and everything they name: the length of an image whose first bytes these are. -/
def imageLen (bs : List Byte) : Nat :=
  (List.range (numAt bs 0x28 1)).foldl (fun m i =>
    max m (numAt bs (0x48 + 16 * i) 8 + numAt bs (0x44 + 16 * i) 4)) (0x40 + 16 * numAt bs 0x28 1)

/-- The header is well formed: magic, ranges, reserved fields 0 (R324). -/
def headerOk (bs : List Byte) : Bool :=
  let w (i : Nat) : Nat := numAt bs (8 * i) 8
  decide (64 ≤ bs.length) && bits (w 0) 31 0 == 0x534D46 && bits (w 0) 63 48 == 0 && bits (w 1) 63 48 == 0
    && decide (bits (w 1) 44 42 ≤ 4) && decide (bits (w 1) 41 32 < 512) && bits (w 2) 63 32 == 0 && bits (w 3) 63 7 == 0
    && bits (w 4) 63 41 == 0 && decide (bits (w 4) 40 32 ≤ 256) && bits (w 5) 63 28 == 0 && w 6 == 0 && w 7 == 0
    && (bits (w 5) 27 27 == 1 || bits (w 5) 26 8 == 0) && decide (bits (w 5) 20 8 < 16 * (bits (w 1) 41 32 + 1))
    && (List.range (bits (w 5) 7 0)).all fun i => bits (w (8 + 2 * i)) 31 8 == 0

/-- The image that bytes hold. -/
def imageOf (bs : List Byte) : Image :=
  let w (i : Nat) : Nat := numAt bs (8 * i) 8
  { bytes := bs, fid := bits (w 1) 31 0, ver := bits (w 0) 47 32, part := (w 1).testBit 47, priv := (w 1).testBit 46
    l1f := (w 1).testBit 45, floor := bits (w 1) 44 42, ncl := bits (w 1) 41 32
    wdog := if w 2 = 0 then 0x100000 else w 2, caps := w 3, frames := bits (w 4) 40 32, spad := bits (w 4) 31 0
    service := if (w 5).testBit 27 then some (bits (w 5) 20 8, bits (w 5) 26 21) else none
    secs := (List.range (bits (w 5) 7 0)).map fun i =>
      ⟨bits (w (8 + 2 * i)) 7 0, w (9 + 2 * i), bits (w (8 + 2 * i)) 63 32⟩ }

/-! Records (R325, R342). -/

/-- Words of a record of a section type; the signature has none. -/
def recWords (ty : Nat) : Option Nat :=
  match ty with
  | 0x01 | 0x03 | 0x05 | 0x06 | 0x08 | 0x09 | 0x0A | 0x0B | 0x0E => some 2
  | 0x02 => some 4
  | 0x04 | 0x07 | 0x0C => some 1
  | _ => none

/-- A stream record with centres for a Sprig format. -/
def hasCentres (r : List Nat) : Bool := bits (r.getD 0 0) 23 23 == 1 && bits (r.getD 1 0) 31 0 != 0

/-- What a record points to: offsets in its section and lengths. -/
def recPtrs (ty ncl : Nat) (r : List Nat) : List (Nat × Nat) :=
  let w (i : Nat) : Nat := r.getD i 0
  match ty with
  | 0x01 => [(w 1, 8192)]
  | 0x02 => [(w 1, 256 * (bits (w 0) 41 38 + 1)), (w 2, 64)]
  | 0x06 => if hasCentres r then [(bits (w 1) 31 0, bits (w 1) 39 32 + 1)] else []
  | 0x08 => [(w 1, (16 * (ncl + 1) + 63) / 64 * 8)]
  | 0x09 => [(w 1, 8192)]
  | 0x0A => [(w 1, bits (w 0) 63 32)]
  | 0x0E => [(bits (w 1) 31 0, bits (w 1) 63 32)]
  | _ => []

/-- A node of R350 with forme cores below `n`. -/
def nodeOk (n v : Nat) : Bool :=
  decide (bits v 12 0 < n) && (if v.testBit 63 then bits v 62 19 == 0 else bits v 62 34 == 0)

/-- The operators that a portal accepts (R177, R325). -/
def portalMask : Nat := 2 ^ 16 + 2 ^ 17 + 2 ^ 28 + 2 ^ 29 + 2 ^ 36 + 2 ^ 37 + 2 ^ 38

/-- The fields of a record lie in their ranges (R325, R342); a partial forme describes one cluster (R355). -/
def recOk (ty ncl : Nat) (part : Bool) (r : List Nat) : Bool :=
  let w (i : Nat) : Nat := r.getD i 0
  let n := if part then 16 else 16 * (ncl + 1)
  let cores : Bool := decide (bits (w 0) 12 0 ≤ bits (w 0) 25 13) && decide (bits (w 0) 25 13 < n)
  match ty with
  | 0x01 => cores && bits (w 0) 63 47 == 0 && (bits (w 0) 41 26 != 0 || !(w 0).testBit 46)
  | 0x02 => cores && bits (w 0) 63 42 == 0 && w 3 == 0
  | 0x03 => cores && bits (w 0) 63 32 == 0 && bits (w 1) 63 30 == 2 && bits (w 1) 29 26 == 0 && bits (w 1) 21 20 == 0
  | 0x04 => bits (w 0) 59 38 == 0 && bits (w 0) 5 0 == 0 && decide (bits (w 0) 21 0 + 64 * (bits (w 0) 37 22 + 1) ≤ 2 ^ 22)
  | 0x05 => bits (w 0) 61 50 == 0 && decide (bits (w 0) 8 0 ≤ bits (w 0) 17 9) && decide (bits (w 0) 17 9 ≤ ncl)
      && decide (bits (w 0) 33 18 + bits (w 0) 49 34 < 65536) && bits (w 1) 63 4 == 0
  | 0x06 =>
    let unitOk (kind u : Nat) : Bool := kind == 1 || decide (u ≤ 2)
    bits (w 0) 63 52 == 0 && bits (w 1) 63 40 == 0 && decide (bits (w 0) 33 25 ≤ ncl) && decide (bits (w 0) 47 39 ≤ ncl)
      && unitOk (bits (w 0) 24 24) (bits (w 0) 37 34) && unitOk (bits (w 0) 38 38) (bits (w 0) 51 48)
      && (!(w 0).testBit 23 || (fmtBits (bits (w 0) 17 13) != 0 && fmtBits (bits (w 0) 22 18) != 0))
  | 0x07 => bits (w 0) 63 12 == 0
  | 0x08 => bits (w 0) 63 21 == 0 && decide (bits (w 0) 11 8 ≤ 6)
      && decide (bits (w 0) 14 12 ≤ (if bits (w 0) 11 8 ≤ 2 then 2 else 5))
  | 0x09 => bits (w 0) 63 12 == 0 && decide (bits (w 0) 8 0 ≤ ncl) && decide (bits (w 0) 11 10 ≤ 2)
  | 0x0A => decide (bits (w 0) 30 22 ≤ ncl) && decide (bits (w 0) 21 0 + bits (w 0) 63 32 ≤ 2 ^ 22)
  | 0x0B => nodeOk n (w 0) && nodeOk n (w 1)
  | 0x0C => bits (w 0) 15 6 == 0 && bits (w 0) 63 40 == 0 && ((w 0).testBit 0 || decide (bits (w 0) 5 1 < 16))
  | 0x0E => bits (w 0) 63 60 == 0 && bits (w 1) 31 0 < 2 ^ 32
  | _ => false

/-- The records of a section: they end where the data begin that an earlier record points to. -/
def recsFrom (ty ncl nw : Nat) (word : Nat → Nat) : (fuel k limit : Nat) → List (List Nat)
  | 0, _, _ => []
  | fuel + 1, k, limit =>
    if limit < 8 * nw * (k + 1) then []
    else
      let r := (List.range nw).map fun i => word (nw * k + i)
      r :: recsFrom ty ncl nw word fuel (k + 1) ((recPtrs ty ncl r).foldl (fun m p => min m p.1) limit)

/-- A record with its section's offset. -/
structure Rec where
  base : Nat
  w : List Nat
  deriving DecidableEq, Repr

def Rec.wd (r : Rec) (i : Nat) : Nat := r.w.getD i 0

def Image.secRecs (img : Image) (x : Sec) : List (List Nat) :=
  match recWords x.ty with
  | some nw => recsFrom x.ty img.ncl nw (fun i => numAt img.bytes (x.off + 8 * i) 8) (x.len / (8 * nw)) 0 x.len
  | none => []

/-- All records of a type. -/
def Image.recs (img : Image) (ty : Nat) : List Rec :=
  (img.secs.filter (·.ty == ty)).flatMap fun x => (img.secRecs x).map (⟨x.off, ·⟩)

/-- Data that a record points to. -/
def Image.data (img : Image) (r : Rec) (off n : Nat) : List Byte := (img.bytes.drop (r.base + off)).take n

/-- A record names forme core `fc`; the records of a partial forme describe every cluster (R355). -/
def Image.names (img : Image) (r : Rec) (fc : Nat) : Bool :=
  let c := if img.part then fc % 16 else fc
  decide (bits (r.wd 0) 12 0 ≤ c) && decide (c ≤ bits (r.wd 0) 25 13)

/-! The checks (R330, R424). -/

/-- A section is well formed. -/
def Image.secOk (img : Image) (x : Sec) : Bool :=
  if x.ty = 0x0D then decide (122 ≤ x.len)
  else
    (recWords x.ty).isSome && (img.secRecs x).all fun r =>
      recOk x.ty img.ncl img.part r && (recPtrs x.ty img.ncl r).all fun p => decide (p.1 + p.2 ≤ x.len)

/-- Two plate-schedule entries that no image may hold (R342). -/
def schedClash (a b : Rec) : Bool :=
  let f (r : Rec) (hi lo : Nat) : Nat := bits (r.wd 0) hi lo
  decide (f a 12 0 ≤ f b 25 13) && decide (f b 12 0 ≤ f a 25 13) && f a 41 26 == f b 41 26
    && (f a 41 26 != 0 || f a 43 42 == f b 43 42)

/-- Some two members of a list are related. -/
def anyPair {α : Type} (r : α → α → Bool) : List α → Bool
  | [] => false
  | a :: t => t.any (r a) || anyPair r t

/-- A byte string with `n` bytes from `off` read as zero. -/
def blank (bs : List Byte) (off n : Nat) : List Byte := bs.take off ++ List.replicate n 0 ++ bs.drop (off + n)

/-- A signature section verifies against its key slot (R424). -/
def State.signed (s : State) (img : Image) (x : Sec) : Bool :=
  match SMap.get none s.host.fkeys (numAt img.bytes x.off 1) with
  | some key => Ed448.verify key (blank img.bytes x.off x.len) ((img.bytes.drop (x.off + 8)).take 114)
  | none => false

/-- The signatures that R424 asks for. -/
def State.signaturesOk (s : State) (img : Image) : Bool :=
  let sigs := img.secs.filter (·.ty == 0x0D)
  sigs.all (s.signed img) && (!sigs.isEmpty || !(img.priv || s.host.policy))

/-- Check 1 of R330. -/
def State.wellFormed (s : State) (img : Image) : Bool :=
  headerOk img.bytes && img.secs.all img.secOk && !anyPair schedClash (img.recs 0x01) && s.signaturesOk img

/-! Converter nodes (R371). -/

/-- The rows that a route with RT 0 crosses (R357, R358). -/
def rowsOf (p c : Nat) : List Nat :=
  let y := p / 16
  let up := (c / 16 + 32 - y) % 32
  if up ≤ 16 then (List.range (up + 1)).map fun i => (y + i) % 32 else (List.range (33 - up)).map fun i => (y + 32 - i) % 32

/-- The converter nodes of the dies that a route passes, lowest cluster first, with their numbers in the die. -/
def nodesOf (p c : Nat) : List (Nat × Nat) :=
  let dies := ((rowsOf p c).map (· / 4)).eraseDups
  ((List.range 8).filter dies.contains).flatMap fun d => (List.range 16).map fun i => (64 * d + 16 * (i / 4) + 4 * (i % 4) + 1, i)

/-- A converting route's node: the preferred one, or the lowest that serves fewer than 8 routes (R325, R371). `load` counts the
routes of a node. -/
def chooseNode (load : Nat → Nat) (pref : Option Nat) (p c : Nat) : Option Nat :=
  let free := (nodesOf p c).filter fun (n, _) => decide (load n < 8)
  ((free.find? fun (_, i) => pref == some i) <|> free.head?).map (·.1)

/-- The streams of an instance on clusters from `first` (R325, R369–R371); none when a converting route finds no node. -/
def Image.streamsFrom (img : Image) (gen first : Nat) : List Rec → List Stream → (old : List Stream) → Option (List Stream)
  | [], made, _ => some made
  | r :: t, made, old =>
    let w := r.wd 0
    let pcl := first + bits w 33 25
    let ccl := first + bits w 47 39
    let conv := w.testBit 23
    let load (n : Nat) : Nat := ((old ++ made).filter fun x => x.conv && x.node == n).length
    let pref := ((img.recs 0x07).find? fun q => bits (q.wd 0) 7 0 == bits w 7 0).map fun q => bits (q.wd 0) 11 8
    let x : Stream :=
      { gen := gen, port := bits w 7 0, branch := bits w 9 8, cls := bits w 12 10, sfmt := bits w 17 13, dfmt := bits w 22 18
        conv := conv, pkind := bits w 24 24, pcl := pcl, punit := bits w 37 34, ckind := bits w 38 38, ccl := ccl
        cunit := bits w 51 48
        centres := if hasCentres r.w then
          (img.data r (bits (r.wd 1) 31 0) (bits (r.wd 1) 39 32 + 1)).map (·.toInt) else [] }
    if conv then
      match chooseNode load pref pcl ccl with
      | some n => img.streamsFrom gen first t (snoc made { x with node := n }) old
      | none => none
    else img.streamsFrom gen first t (snoc made x) old

/-- A converting route names a 4-bit or 2-bit format, which a part without them does not accept (R82; DEDUCED, log entry 109). -/
def Image.narrowRoute (img : Image) : Bool :=
  (img.recs 0x06).any fun r => (r.wd 0).testBit 23 && (fmtNarrow (bits (r.wd 0) 17 13) || fmtNarrow (bits (r.wd 0) 22 18))

/-- The checks of R330 on a fetched image for clusters `first` to `last` and port `p`, in order; `fresh` says whether the image is
to enter a store, `placed` that the placer loads it. The reason, or 0. -/
def State.reject (s : State) (img : Image) (fresh placed : Bool) (first last p : Nat) : Nat :=
  if fresh && !s.wellFormed img then 1
  else if fresh && (Nat.land img.caps s.caps != img.caps || (img.l1f && !s.caps.testBit 3) || (img.narrowRoute && !s.caps.testBit 1)) then 2
  else if (!placed && last - first != img.ncl) || decide (511 < last) || decide (last < first) then 3
  else if (img.streamsFrom 0 first (img.recs 0x06) [] s.streams).isNone then 4
  else if fresh && (img.recs 0x0C).any (fun r => Nat.lor (bits (r.wd 0) 39 16 * 2 ^ 16) portalMask != portalMask) then 5
  else if fresh && (decide ((opMin img.floor).1 < 32 * ((img.spad + 2047) / 2048)) || decide ((opMin img.floor).2.2.1 < img.frames)) then 6
  else if img.priv && decide (3 < p) then 7
  else 0

end Sys2Proof.Machine
end

