-- ==== Sys2Proof/Machine/Loader.lean ====
section
/-! DEFINITION. The loader's work on the package: physical accesses, completion records (R338), the remap table (R319), the
capacity checks (R323), and the load of an instance (R43, R325, R371–R374). -/
namespace Sys2Proof.Machine

open Sys2Proof

/-! Physical accesses of the loader, the placer and the host. -/

/-- The place of a physical address (R307, R310, R419). -/
def State.physLoc (s : State) (acc : Acc) (pa : Nat) : Except Nat Loc :=
  if inRange pa then s.pageLoc { gen := 0, va := 0, size := 2 ^ 52, pa := 0, attr := 0x30 } true acc pa else .error 0x08

def physLocs (s : State) (acc : Acc) (pa : Nat) : (n : Nat) → Option (List Loc)
  | 0 => some []
  | n + 1 =>
    match s.physLoc acc pa with
    | .ok l => (physLocs s acc (pa + 1) n).map (l :: ·)
    | .error _ => none

def loaderOrg (gen core : Nat) : Origin := { core := core, node := .chan core 0, gen := gen, kind := 5 }

/-- `n` bytes at a physical address. -/
def State.physRead (s : State) (pa n : Nat) : Option (List Byte × State) :=
  match physLocs s .read pa n with
  | none => none
  | some ls =>
    match readPieces (loaderOrg 0 0) pa s (pieces 0 id ls) with
    | .ok bs t => some (bs, t)
    | _ => none

/-- A read from outside of `n` bytes, of which `got` are read: all the others, with the bytes, or one piece more (R295; log entry 46). -/
def State.outsideRead (s : State) (pa n : Nat) (got : List (Nat × Byte)) : Option (List (Nat × Byte) × Bool × State) :=
  match physLocs s .read pa n with
  | none => none
  | some ls =>
    let left := (ls.mapIdx fun i l => (i, l)).filter fun x => !got.any (·.1 == x.1)
    let ps := pieces 0 (fun (x : Nat × Loc) => x.2) left
    let c := Sys2Proof.Config.alone s.freeCtr
    let now := if c = 0 || ps.length ≤ 1 then ps else (ps[c % ps.length]?).toList
    match readPieces (loaderOrg 0 0) pa s (now.map (·.map (·.2))) with
    | .ok bs t => some (got ++ List.zip (now.flatten.map (·.1)) bs, decide (now.length = ps.length), t)
    | _ => none

/-- The bytes of a read in order. -/
def inOrder (n : Nat) (got : List (Nat × Byte)) : List Byte :=
  (List.range n).map fun i => ((got.find? (·.1 == i)).map (·.2)).getD 0

/-- A write from outside: all of it, or its first or last piece, with what is then left and how far it begins from the start (R295; log
entry 46). A line that carries poison is written at once, since only the whole write clears it (R308). -/
def State.outsideWrite (s : State) (org : Origin) (tval pa : Nat) (bs : List Byte) : Option (Got × Option (Nat × List Byte)) :=
  match physLocs s .write pa bs.length with
  | none => none
  | some ls =>
    let ws := List.zip ls bs
    let ps := pieces 0 (fun (x : Loc × Byte) => x.1) ws
    let c := Sys2Proof.Config.alone s.freeCtr
    let poisoned := (fullLines ws).any fun l => SMap.get false s.hpoison l || ((SMap.get none s.llc l).map (·.poison)).getD false
    let now := if c = 0 || ps.length ≤ 1 || poisoned then ps else if c % 2 = 0 then ps.take 1 else ps.drop (ps.length - 1)
    let r := writePieces org tval (fullLines ws) s now
    let m := now.flatten.length
    some (r, if now.length = ps.length then none else if c % 2 = 0 then some (m, bs.drop m) else some (0, bs.take (bs.length - m)))

/-- Bytes placed are written; false when a piece of them fails. -/
def State.writePlaces (s : State) (ws : List (Loc × Byte)) : Bool × State :=
  match writePieces (loaderOrg 0 0) 0 (fullLines ws) s (pieces 0 (fun (x : Loc × Byte) => x.1) ws) with
  | .ok _ t => (true, t)
  | .fail _ _ t => (false, t)
  | .wait t => (false, t)

/-- Bytes written at a physical address; an address that is no place writes nothing. -/
def State.physWrite (s : State) (pa : Nat) (bs : List Byte) : State :=
  match physLocs s .write pa bs.length with
  | some ls => (s.writePlaces (List.zip ls bs)).2
  | none => s

/-! Completion records (R338). -/

/-- The fields of a completion record. -/
structure CompRec where
  lid : Nat
  gen : Nat := 0
  rcl : Bool := false
  detail : Nat := 0
  status : Nat
  merged : Nat := 0
  epc : Nat := 0
  core : Nat := 0
  cancd : Nat := 0
  canc : Nat := 0
  drop : Nat := 0
  firstu : Nat := 0
  undel : Nat := 0
  tstart : Nat := 0
  tend : Nat
  deriving DecidableEq, Repr

def CompRec.words (c : CompRec) : List Word :=
  let lo (v : Nat) : Nat := v % 2 ^ 32
  [BitVec.ofNat 64 (c.gen * 2 ^ 32 + lo c.lid), BitVec.ofNat 64 ((if c.rcl then 2 ^ 16 else 0) + c.detail % 256 * 2 ^ 8 + c.status),
   BitVec.ofNat 64 (lo c.merged * 2 ^ 32 + c.epc % 2 ^ 15 * 2 ^ 13 + c.core % 16 * 2 ^ 9 + c.core / 16 % 512),
   BitVec.ofNat 64 (lo c.cancd * 2 ^ 32 + lo c.canc), BitVec.ofNat 64 c.drop, BitVec.ofNat 64 (lo c.firstu * 2 ^ 32 + lo c.undel),
   BitVec.ofNat 64 c.tstart, BitVec.ofNat 64 c.tend]

/-- A completion record is written, its launch is remembered (R329), and the port's vector follows (R422). -/
def State.finish (s : State) (p cpl : Nat) (c : CompRec) : State :=
  let s := s.physWrite cpl (bytesOfWords c.words)
  { s with completed := (c.lid :: s.completed).take 4096 }.msix (1 + p % 63)

/-! The remap table (R319). -/

/-- Slots, each with the spare it is sent to, as they follow each other. -/
def pairSpares (m : SMap (Option Nat)) : List Nat → List Nat → SMap (Option Nat)
  | b :: bs, x :: xs => pairSpares (SMap.put none m b (some x)) bs xs
  | _, _ => m

/-- Rebuild of a cluster's table when a launch finds no instance on it. -/
def State.rebuild (s : State) (cl : Nat) : State :=
  let ug := s.srows cl s.opnow / 32
  let pruned := s.prunedRows 0 cl 0 s.opnow
  let bad := (sortBy (fun a b => decide (a ≤ b)) pruned).filter fun x => decide (x < 32 * ug)
  let spares := if bad.isEmpty then [] else
    ((List.range (65536 - 32 * ug)).map (32 * ug + ·)).filter fun x => !pruned.contains x
  s.modCluster cl fun g => { g with ug := ug, remap := pairSpares [] bad spares }

/-! Capacity (R323). -/

/-- f*: the highest-numbered offered point from OP0 to the floor. -/
def State.floorPoint (s : State) (floor : Nat) : Option Nat := ((List.range (floor + 1)).filter s.offered).getLast?

/-- A failed capacity check: the first failing cluster's core 0 or the first failing core, and whether a frame check failed. -/
structure Short where
  core : Nat
  frame : Bool
  deriving DecidableEq, Repr

/-- The groups of 32 rows that an image declares. -/
def Image.groups (img : Image) : Nat := (img.spad + 2047) / 2048

/-- Check 2 on a cluster, for the point f*. -/
def State.spadFits (s : State) (n f cl : Nat) : Bool := decide (n ≤ s.srows cl f / 32) && ((s.cluster cl).freeRun n).isSome

/-- Checks 1 and 2: f*, or what failed; check 1 fails on the first cluster. -/
def State.fits (s : State) (img : Image) (first : Nat) (cls : List Nat) : Except Short Nat :=
  match s.floorPoint img.floor with
  | none => .error ⟨16 * first, false⟩
  | some f =>
    if img.floor < s.opnow then .error ⟨16 * first, false⟩
    else
      match cls.find? fun cl => !s.spadFits img.groups f cl with
      | some cl => .error ⟨16 * cl, false⟩
      | none => .ok f

/-! Frames (R43, R325). -/

/-- A core as its next instance finds it: everything of an earlier one removed (R335); what belongs to the hardware stays. -/
def Core.clear (k : Core) : Core :=
  { fsram := k.fsram, fpoison := k.fpoison, fbad := k.fbad, l1bad := k.l1bad, vmism := k.vmism
    jobs := k.jobs, acts := k.acts, mailbox := k.mailbox, starvw := k.starvw, wdog := k.wdog, l1mode := k.l1mode
    spillBase := k.spillBase, ftidx := k.ftidx
    l1 := k.l1.filterMap fun (line, e) =>
      match e with
      | some l => if l.valid = 0 then none else some (line, some { l with pins := [] })
      | none => none }

/-- A frame of the image in its place; a home outside HBM4 takes nothing (R460). -/
def State.fillFrame (s : State) (core fid : Nat) (image : List Byte) (map : BitVec 512) : State :=
  let s := s.modCore core fun k => k.setFent fid { k.fent fid with slots := map }
  if !s.homeOk core fid then s
  else
    let s := s.setFrameN core fid 0 image.length (natOfBytes image)
    if ((s.core core).fent fid).res then s else s.setSp core fid 1

/-- One initial frame of a core: resident at the lowest run of free granules, so that initial frames leave no gaps (R439), or at the lowest
free spill home; none when there is no place (R323). -/
def State.initFrame (s : State) (img : Image) (core : Nat) (r : Rec) : Option State :=
  let fid := bits (r.wd 0) 37 26
  let n := bits (r.wd 0) 41 38 + 1
  let image := img.data r (r.wd 1) (256 * n)
  let map := BitVec.ofNat 512 (natOfBytes (img.data r (r.wd 2) 64))
  match s.runs core n with
  | g :: _ => some ((s.newResident core fid n g).fillFrame core fid image map)
  | [] =>
    match (List.range 256).find? (s.core core).homeFree with
    | some h => some ((s.newSpilled core fid n h).fillFrame core fid image map)
    | none => none

/-- The frame records of a forme core, by ascending frame id. -/
def Image.frameRecs (img : Image) (fc : Nat) : List Rec :=
  sortBy (fun a b => decide (bits (a.wd 0) 37 26 ≤ bits (b.wd 0) 37 26)) ((img.recs 0x02).filter (img.names · fc))

/-- Check 3, core by core, for the point f*: every core of the set cleared, with its initial frames; or the first that fails. -/
def State.loadFrames (s : State) (img : Image) (first f : Nat) : (cores : List Nat) → Except Short State
  | [] => .ok s
  | c :: t =>
    match if img.frames ≤ s.fgran c f then
        (img.frameRecs (c - 16 * first)).foldl (fun (o : Option State) r => o.bind fun s => s.initFrame img c r)
          (some (s.modCore c Core.clear)) else none with
    | some s => s.loadFrames img first f t
    | none => .error ⟨c, true⟩

/-- The clusters of an instance belong to it: their generation, and a run of groups on each (R300). -/
def State.claim (s : State) (gen n : Nat) (cls : List Nat) : State :=
  cls.foldl (fun t cl => t.modCluster cl fun g => { g.giveRun (some gen) n with gen := gen }) s

/-- Checks 1 to 3 of R323 on rebuilt clusters, and the initial frames in their places. -/
def State.tryLoad (s : State) (img : Image) (gen first : Nat) (cls : List Nat) : Except Short State :=
  match s.fits img first cls with
  | .error e => .error e
  | .ok f => (s.claim gen img.groups cls).loadFrames img first f (cls.flatMap coresOf)

/-! Cores and clusters (R43). -/

/-- The plate of a round-0 entry. -/
def platesOf (img : Image) (fc : Nat) : SMap Plate :=
  ((img.recs 0x01).filter fun r => img.names r fc && bits (r.wd 0) 41 26 == 0).foldl (fun m r =>
    SMap.put {} m (bits (r.wd 0) 43 42) { st := .active, bytes := storeBytes [] 0 (img.data r (r.wd 1) 8192) }) []

/-- The schedule of a core: its entries of later rounds in ascending round (R342, R343). -/
def schedOf (img : Image) (fc : Nat) : List Sched :=
  sortBy (fun a b => decide (a.round ≤ b.round)) (((img.recs 0x01).filter fun r => img.names r fc && bits (r.wd 0) 41 26 != 0).map fun r =>
    { round := bits (r.wd 0) 41 26, plate := bits (r.wd 0) 43 42
      retire := if (r.wd 0).testBit 46 then some (bits (r.wd 0) 45 44) else none, image := img.data r (r.wd 1) 8192 })

/-- A core's tables and registers at launch. -/
def Core.launch (k : Core) (img : Image) (fc : Nat) (mb : List Word) : Core :=
  { k with
    plates := platesOf img fc, sched := schedOf img fc
    tasks := ((img.recs 0x03).filter (img.names · fc)).foldl (fun m r => SMap.put 0 m (bits (r.wd 0) 31 26) (BitVec.ofNat 64 (r.wd 1))) []
    mailbox := (List.range 8).foldl (fun m i => SMap.put 0 m i (mb.getD i 0)) []
    starvw := 0x10000, wdog := BitVec.ofNat 64 img.wdog, l1mode := img.l1f }

/-- Member cores of a group on the cluster of index `k`. -/
def Image.members (img : Image) (r : Rec) (k : Nat) : Nat :=
  numAt img.bytes (r.base + r.wd 1 + 2 * (if img.part then 0 else k)) 2

/-- A cluster and its ancestors in the tree of an instance (R373). -/
def Inst.above (i : Inst) : (fuel cl : Nat) → List Nat
  | 0, cl => [cl]
  | n + 1, cl =>
    match i.parent cl with
    | some p => cl :: i.above n p
    | none => [cl]

/-- The espalier entry of a group at a cluster (R374); 0 when nobody is there or below. -/
def Image.espalier (img : Image) (i : Inst) (r : Rec) (cl : Nat) : Word :=
  let cls := (List.range (i.last + 1 - i.first)).map (i.first + ·)
  let used := ((cls.filter fun c => img.members r (c - i.first) != 0).flatMap (i.above 64)).eraseDups
  let child (c : Nat) : Nat := if used.contains c && i.parent c == some cl then 1 else 0
  let w := r.wd 0
  if !used.contains cl then 0
  else
    BitVec.ofNat 64 (2 ^ 63 + bits w 6 6 * 2 ^ 62 + bits w 7 7 * 2 ^ 61 + bits w 11 8 * 2 ^ 57 + bits w 14 12 * 2 ^ 54 + bits w 5 0 * 2 ^ 48
      + bits w 20 15 * 2 ^ 42
      + (match i.parent cl with
          | none => 0
          | some p => if p + 1 = cl then 1 else 2) * 2 ^ 34
      + child (cl + 16) * 2 ^ 33 + child (cl + 1) * 2 ^ 32
      + img.members r (cl - i.first) * 2 ^ 16)

/-- The guard granules below and above a named region (R302). -/
def guardsOf (d : Nat) : List Nat :=
  let base := bits d 21 0
  let top := (base + 64 * (bits d 37 22 + 1) + 255) / 256
  (if 256 ≤ base then [base / 256 - 1] else []) ++ (if top < 16384 then [top] else [])

/-- The guard bitmap with the granules around regions marked, or unmarked (R302). -/
def markGuards (m : SMap Bool) (regions : List Nat) (on : Bool) : SMap Bool :=
  (regions.flatMap guardsOf).foldl (fun m x => SMap.put false m x on) m

/-- A WIN value with its cluster indices turned into clusters (R325). -/
def winAt (first v : Nat) : Word :=
  BitVec.ofNat 64 (v / 2 ^ 18 * 2 ^ 18 + (first + bits v 17 9) % 512 * 2 ^ 9 + (first + bits v 8 0) % 512)

/-- A cluster's registers, scratchpad and engine plates at launch. -/
def Cluster.launch (g : Cluster) (img : Image) (i : Inst) (cl : Nat) (hashkey proot : Word) (guards : Bool) : Cluster :=
  let k := if img.part then 0 else cl - i.first
  let mine (hi lo all : Nat) (r : Rec) : Bool := (r.wd 0).testBit all || bits (r.wd 0) hi lo == k
  { g with
    loaded := true, gen := i.gen, hashkey := hashkey, ptroot := proot
    spad := ((img.recs 0x0A).filter (mine 30 22 31)).foldl (fun m r =>
      storeBytes m (bits (r.wd 0) 21 0) (img.data r (r.wd 1) (bits (r.wd 0) 63 32))) []
    spoison := [], sbad := [], wo := [], readers := [], galley := [], pieces := [], held := [], evq := [], colq := [], comb := [], cbase := []
    region := (img.recs 0x04).foldl (fun m r => SMap.put 0 m (bits (r.wd 0) 63 60) (BitVec.ofNat 64 (bits (r.wd 0) 37 0))) []
    win := (img.recs 0x05).foldl (fun m r => SMap.put 0 m (bits (r.wd 1) 3 0) (winAt i.first (r.wd 0))) []
    esp := (img.recs 0x08).foldl (fun m r => SMap.put 0 m (bits (r.wd 0) 5 0) (img.espalier i r cl)) []
    harts := ((img.recs 0x09).filter (mine 8 0 9)).foldl (fun m r =>
      SMap.put {} m (bits (r.wd 0) 11 10) { plate := storeBytes [] 0 (img.data r (r.wd 1) 8192), std := false }) []
    guard := if guards then markGuards g.guard (img.recs 0x04 |>.map fun r => bits (r.wd 0) 37 0) true else g.guard }

/-- The lines of a cluster's L1s leave them when its mode changes (R304). -/
def State.switchL1 (s : State) (cl : Nat) (fused : Bool) : State :=
  if (s.core (16 * cl)).l1mode = fused then s
  else (coresOf cl).foldl (fun t c => ((t.core c).l1.map (·.1)).foldl (fun u l => u.evictL1 c l) t) s

/-- One cluster of the set is loaded. -/
def State.loadCluster (s : State) (img : Image) (i : Inst) (hashkey proot : Word) (mb : List Word) (cl : Nat) : State :=
  let s := s.switchL1 cl img.l1f
  let s := s.modCluster cl fun g => g.launch img i cl hashkey proot (img.priv && s.caps.testBit 5)
  (coresOf cl).foldl (fun t c => t.modCore c fun k => k.launch img (c - 16 * i.first) mb) s

/-- The activations of the initial slot words of a frame whose COUNT is zero (R43). -/
def State.initialFires (s : State) (gen core fid : Nat) : State :=
  let e := (s.core core).fent fid
  ((List.range e.words).filter e.marked).foldl (fun t k =>
    let w := t.slotWord core fid k
    if cnt w = 0 then
      match decSlot w 0 0 with
      | (v, some f) =>
        let (ok, u) := t.changeWord core fid k fun _ => v
        if ok then u.queueAct core gen (f.act fid k 0 none) else u
      | _ => t
    else t) s

/-- The node that an edge entry names (R350). -/
def nodeOf (first v : Nat) : Node :=
  if v.testBit 63 then .chan (16 * first + bits v 12 0) (bits v 18 13) else .slot (16 * first + bits v 12 0) (bits v 33 22) (bits v 21 13)

/-- An instance as its image describes it; a partial forme's tables describe every cluster of the region (R355). -/
def Inst.ofImage (img : Image) (i : Inst) : Inst :=
  let starts := if img.part then (List.range (i.last + 1 - i.first)).map (i.first + ·) else [i.first]
  { i with
    fid := img.fid, ver := img.ver, priv := img.priv, floor := img.floor
    service := img.service.map fun (c, ch) => (16 * i.first + c, ch)
    edges := if img.secs.any (·.ty == 0x0B) then
      some (starts.flatMap fun f => (img.recs 0x0B).map fun r => (nodeOf f (r.wd 0), nodeOf f (r.wd 1))) else none
    portal := (img.recs 0x0C).map fun r => (bits (r.wd 0) 0 0, bits (r.wd 0) 5 1, bits (r.wd 0) 39 16 * 2 ^ 16) }

/-- The instance runs: one HASHKEY is drawn for it, then RUNNING, then the initial activations (R43, R332, R336, R341). `s` holds the
frames already. -/
def State.startInst (s : State) (img : Image) (i : Inst) (proot : Word) (mb : List Word) : State :=
  let i := Inst.ofImage img { i with st := .running, tstart := s.time }
  let cls := (List.range (i.last + 1 - i.first)).map (i.first + ·)
  let s := cls.foldl (fun t cl => t.loadCluster img i (BitVec.ofNat 64 (s.freeNat % 2 ^ 32)) proot mb cl) s.fresh
  let s := { s with insts := snoc s.insts i, streams := s.streams ++ (img.streamsFrom i.gen i.first (img.recs 0x06) [] s.streams).getD [] }
  i.cores.foldl (fun t c => ((t.core c).ftab.map (·.1)).foldl (fun u f => u.initialFires i.gen c f) t) s

/-! HBM data (R325). -/

/-- The places of virtual bytes through a page-table root. -/
def placesBy (s : State) (root : Word) (priv : Bool) (va : Nat) : (n : Nat) → Option (List Loc)
  | 0 => some []
  | n + 1 =>
    if !root.getLsbD 63 then none
    else
      match s.walkFrom 0 va 4 (wbits root 51 14 * 2 ^ 14) with
      | .error _ => none
      | .ok t =>
        match s.pageLoc t priv .write va with
        | .ok l => (placesBy s root priv (va + 1) n).map (l :: ·)
        | .error _ => none

/-- The HBM data of an image written; none when a write faults. -/
def State.loadHbm (s : State) (img : Image) (root : Word) : List Rec → Option State
  | [] => some s
  | r :: t =>
    let bs := img.data r (bits (r.wd 1) 31 0) (bits (r.wd 1) 63 32)
    match placesBy s root img.priv (bits (r.wd 0) 59 0) bs.length with
    | none => none
    | some ls =>
      match s.writePlaces (List.zip ls bs) with
      | (true, u) => u.loadHbm img root t
      | (false, _) => none

end Sys2Proof.Machine
end

