-- ==== Sys2Proof/Machine/Launch.lean ====
section
/-! DEFINITION. Ingress ports and launches (R326–R333, R339, R341, R418), quiescence, unloading and reclaim (R334–R338). -/
namespace Sys2Proof.Machine

open Sys2Proof

/-! Ports. -/

def State.port (s : State) (p : Nat) : Port := SMap.get ({} : Port) s.ports p
def State.modPort (s : State) (p : Nat) (f : Port → Port) : State := { s with ports := SMap.put ({} : Port) s.ports p (f (s.port p)) }

/-- A token discarded and counted. -/
def State.discard (s : State) (p : Nat) : State := s.modPort p fun k => { k with discarded := k.discarded + 1 }

/-- KIND of a token (R327). -/
def tokenKind (w : List Word) : Nat := wbits (w.headD 0) 7 0

/-- A launch is open on a port: waiting in its buffer, or with its stream current. -/
def Port.open_ (k : Port) : Bool := k.stream.isSome || k.tokens.any fun t => tokenKind t.1 == 1

/-- The record that a launch or placement token names (R328, R353); empty when it cannot be read. -/
def State.readRecord (s : State) (w : List Word) (n : Nat) : List Word × State :=
  match s.physRead (w.getD 1 0).toNat (8 * n) with
  | some (bs, t) => (wordsOfBytes n bs, t)
  | none => ([], s)

/-- A token at a port (R327, R353, R418): buffered, or discarded and counted. -/
def State.tokenIn (s : State) (p : Nat) (w : List Word) : State :=
  let k := s.port p
  if !s.host.ready || 63 < p || 256 ≤ k.tokens.length then s.discard p
  else
    match tokenKind w with
    | 1 =>
      let (r, s) := s.readRecord w 16
      s.modPort p fun k => { k with tokens := snoc k.tokens (w, r) }
    | 2 => if k.open_ then s.modPort p fun k => { k with tokens := snoc k.tokens (w, []) } else s.discard p
    | 3 =>
      if s.caps.testBit 4 then
        let (r, s) := s.readRecord w 8
        s.modPort p fun k => { k with tokens := snoc k.tokens (w, r) }
      else s.discard p
    | _ => s.discard p

/-- The first token of a port goes. -/
def State.popToken (s : State) (p : Nat) : State := s.modPort p fun k => { k with tokens := k.tokens.tail }

/-! Input tokens (R333). -/

/-- INPUT_TOKEN: the first token of a port is delivered to its RUNNING instance, or discarded; an instance in another state holds
it. -/
def State.inputToken (s : State) (p : Nat) : State :=
  let k := s.port p
  match k.tokens with
  | [] => s
  | (w, _) :: _ =>
    if tokenKind w ≠ 2 then s
    else
      match k.stream.bind s.inst? with
      | none => (s.popToken p).discard p
      | some i =>
        if i.st != .running then s
        else
          let w0 := w.headD 0
          if wbits w0 63 32 ≠ i.nextSeq || i.ntok ≤ i.nextSeq || 16 * (i.last + 1 - i.first) ≤ i.iCore then (s.popToken p).discard p
          else
            let d := 16 * i.first + i.iCore
            let s := (s.popToken p).modInst i.gen fun x => { x with nextSeq := x.nextSeq + 1 }
            s.sendPkt { org := loaderOrg i.gen d, src := noCore + 1024 + p, dst := d, tag := 0, cls := 2, gen := i.gen
                        body := .chan i.iCh (bytesOfWords ((w.drop 1).take (wbits w0 10 8))) }

def execInputToken (port : Nat) (s : State) : Host.Outcome State Fault Refusal := .next (s.inputToken port)

/-! Launch records (R328). -/

/-- Field `hi:lo` of word `i` of a launch record. -/
def lrec (r : List Word) (i hi lo : Nat) : Nat := wbits (r.getD i 0) hi lo

/-- A record that R328 does not lay out: a reserved bit, launch id 0, or a completion address that is not aligned. -/
def recordBad (r : List Word) : Bool :=
  lrec r 0 63 32 != 0 || lrec r 0 31 0 == 0 || lrec r 2 63 18 != 0 || lrec r 3 63 51 != 0 || lrec r 4 63 34 != 0 || lrec r 5 5 0 != 0

/-- The launch ids that a record waits for. -/
def depsOf (r : List Word) : List Nat := [lrec r 6 31 0, lrec r 6 63 32, lrec r 7 31 0, lrec r 7 63 32].filter (· != 0)

/-- Launch ids of launches and placements waiting in a port behind its first token, or in another port, and those of running instances. -/
def State.liveIds (s : State) (p : Nat) : List Nat :=
  (s.ports.flatMap fun (q, k) => (if q = p then k.tokens.tail else k.tokens).filterMap fun (w, r) =>
      match tokenKind w with
      | 1 => some (lrec r 0 31 0)
      | 3 => some (lrec r 5 31 0)
      | _ => none)
    ++ (s.insts.filter (·.st != .unloaded)).map (·.lid)

/-- A launch is ready (R329). -/
def State.depsDone (s : State) (p : Nat) (r : List Word) : Bool :=
  (depsOf r).all fun d => s.completed.contains d || !(s.liveIds p).contains d

/-- Clusters that no instance holds (R332). -/
def State.clustersFree (s : State) (first last : Nat) : Bool :=
  (List.range (last + 1 - first)).all fun i => !(s.cluster (first + i)).loaded

/-- The generations that are neither held nor retiring, lowest first (R339): `n` of them at most. -/
def State.freeGens (s : State) (n : Nat) : List Nat := ((List.range 4096).filter fun g => (s.inst? g).isNone).take n

/-- The launch at the head of a port can be decided now (R320, R329, R331, R332, R339). -/
def State.launchReady (s : State) (p : Nat) : Bool :=
  match (s.port p).tokens with
  | (w, r) :: _ =>
    tokenKind w == 1 && (r.isEmpty || recordBad r || (s.depsDone p r && (lrec r 3 31 0 == 0 ||
      (s.ops.isEmpty && s.clustersFree (lrec r 2 8 0) (lrec r 2 17 9) && !(s.freeGens 1).isEmpty))))
  | [] => false

/-! The stores (R326). -/

/-- The stored copy of a forme. -/
def Die.stored (d : Die) (fid ver : Nat) (part : Bool) : Option Stored := d.store.find? fun x => x.fid == fid && x.ver == ver && x.partial_ == part

/-- A loaded instance runs a forme. -/
def State.runs? (s : State) (fid ver : Nat) : Bool := s.insts.any fun i => i.fid == fid && i.ver == ver && i.st != .unloaded

/-- The least recently launched forme without an instance. -/
def State.oldest (s : State) (d : Die) (part : Bool) : Option Stored :=
  (d.store.filter fun x => x.partial_ == part && !s.runs? x.fid x.ver).foldl (fun o x =>
    match o with
    | some y => if x.used < y.used then some x else some y
    | none => some x) none

/-- A forme enters its store, or is used again; the store may discard one (R326). -/
def State.keep (s : State) (die : Nat) (img : Image) : State :=
  let d := s.die die
  let new : Stored := { fid := img.fid, ver := img.ver, image := img.bytes, partial_ := false, used := s.time }
  let rest := d.store.filter fun x => !(x.fid == img.fid && x.ver == img.ver && !x.partial_)
  let rest := if Config.storeFull s.freeCtr then (match s.oldest { d with store := rest } false with
      | some x => rest.erase x
      | none => rest) else rest
  (s.setDie die { d with store := snoc rest new }).fresh

/-- The image at a physical address: its header, then all of it. -/
def State.fetchImage (s : State) (pa : Nat) : Option (Image × State) :=
  match s.physRead pa 64 with
  | none => none
  | some (h, s) =>
    if !headerOk h && numAt h 0 4 ≠ 0x534D46 then none
    else
      match s.physRead pa (0x40 + 16 * numAt h 0x28 1) with
      | none => none
      | some (t, s) => (s.physRead pa (imageLen t)).map fun (bs, s) => (imageOf bs, s)

/-! LAUNCH_START (R330–R332). -/

/-- A completion record with the TVAL of a capacity fault in the place of the origin (R323, R338; DEDUCED, log entry 47). -/
def CompRec.short (c : CompRec) (e : Short) : CompRec := { c with core := e.core, epc := if e.frame then 8 else 0 }

/-- A launch that ends without an instance: statuses 1, 2 and 4. -/
def State.endLaunch (s : State) (p : Nat) (r : List Word) (status detail : Nat) (e : Short := ⟨0, false⟩) : State :=
  (s.modPort p fun k => { k with stream := none }).finish p (lrec r 5 63 0)
    ({ lid := lrec r 0 31 0, status := status, detail := detail, tend := s.time : CompRec }.short e)

/-- A checked launch is loaded and started (R43, R323, R332). -/
def State.load (s : State) (p : Nat) (r : List Word) (img : Image) : State :=
  let first := lrec r 2 8 0
  let last := lrec r 2 17 9
  let cls := (List.range (last + 1 - first)).map (first + ·)
  let s := cls.foldl State.rebuild s
  let root := (s.port p).proot
  let gen := (s.freeGens 1).headD 0
  match s.tryLoad img gen first cls with
  | .error e => s.endLaunch p r 4 0x12 e
  | .ok t =>
    match t.loadHbm img root (img.recs 0x0E) with
    | none => s.endLaunch p r 2 1
    | some t =>
      let i : Inst :=
        { gen := gen, lid := lrec r 0 31 0, first := first, last := last, port := some p, iCh := lrec r 3 50 45, iCore := lrec r 3 44 32
          ntok := lrec r 3 31 0, done := some (16 * first + lrec r 4 12 0, lrec r 4 24 13, lrec r 4 33 25), cpl := lrec r 5 63 0 }
      ((t.keep (dieOf first) img).modPort p fun k => { k with stream := some gen }).startInst img i root (r.drop 8)

/-- A ready launch with free clusters. -/
def State.launch (s : State) (p : Nat) (w r : List Word) : State :=
  let w0 := w.headD 0
  let first := lrec r 2 8 0
  match (s.die (dieOf first)).stored (wbits w0 63 32) (wbits w0 31 16) false with
  | some x =>
    let img := imageOf x.image
    let why := s.reject img false false first (lrec r 2 17 9) p
    if why ≠ 0 then s.endLaunch p r 2 why else s.load p r img
  | none =>
    match s.fetchImage (lrec r 1 63 0) with
    | none => s.endLaunch p r 2 1
    | some (img, s) =>
      if img.fid ≠ wbits w0 63 32 || img.ver ≠ wbits w0 31 16 then s.endLaunch p r 2 1
      else
        let why := s.reject img true false first (lrec r 2 17 9) p
        if why ≠ 0 then s.endLaunch p r 2 why else s.load p r img

/-- LAUNCH_START. -/
def State.launchStart (s : State) (p : Nat) : State :=
  match (s.port p).tokens with
  | (w, r) :: _ =>
    if !s.launchReady p then s
    else
      let s := s.popToken p
      -- the first launch locks the key slots, whatever becomes of it (R424)
      let s := if r.isEmpty then s else { s with host := { s.host with fklock := true } }
      if r.isEmpty then s.discard p
      else if recordBad r then s.endLaunch p r 2 1
      else if lrec r 3 31 0 = 0 then s.endLaunch p r 1 0
      else s.launch p w r
  | [] => s

def execLaunchStart (port : Nat) (s : State) : Host.Outcome State Fault Refusal := .next (s.launchStart port)

/-! Quiescence (R334). -/

/-- Deferred readers whose reply is to come into a frame, and its CVIEW arms: their pins do not hold an instance, which
unloads with them (R335). -/
def State.readerPins (s : State) (core fid : Nat) : Nat :=
  let n (l : List Reader) : Nat := (l.filter fun r => r.cmpl.core == core && r.cmpl.fid == fid).length
  n s.hreaders + (s.clusters.map fun (_, g) => n g.readers).sum + ((s.core core).cviewArms.filter (·.fid == fid)).length

/-- Nothing of the instance is queued, running, held or in progress on a core. -/
def State.coreQuiet (s : State) (c : Nat) : Bool :=
  let k := s.core c
  k.ready.isEmpty && k.ctxs.all (fun (_, x) => x.phase == .idle) && k.misses.isEmpty && k.cextQ.isEmpty && k.spillQ.isEmpty
    && k.portQ.isEmpty && k.inputQ.isEmpty && k.niQ.isEmpty && k.ni.isEmpty && k.outst.isEmpty && k.lane.isEmpty
    && k.regionQ.isEmpty && k.engLane.isEmpty && k.ftab.all fun (f, e) => !e.v || decide (e.pin ≤ s.readerPins c f)

def State.clusterQuiet (s : State) (cl : Nat) : Bool :=
  let g := s.cluster cl
  g.galley.isEmpty && g.pieces.isEmpty && g.held.isEmpty && g.site.isEmpty
    && g.harts.all (fun (_, h) => h.q.isEmpty && h.cmd.isNone && h.waiting.isEmpty) && (coresOf cl).all s.coreQuiet

/-- The generation of what a due step carries. -/
def timedGen (i : Instr) : Option Nat :=
  match i with
  | .isrdRetry p => some p.gen
  | .eventRetry p => some p.gen
  | _ => none

/-- Quiescence (R334); a frozen instance waits for its error token as well (R349), and for no put (R356). -/
def State.quiet (s : State) (i : Inst) : Bool :=
  s.genCount i.gen == 0 && (List.range (i.last + 1 - i.first)).all (fun j => s.clusterQuiet (i.first + j))
    && !(s.timed.any fun t => timedGen t.2 == some i.gen) && !(s.flushes.any (·.gen == i.gen))
    && !(s.tlbinvs.any (·.org.gen == i.gen)) && !(s.rounds.any (·.gen == i.gen))
    && !(s.dies.any fun (_, d) => d.rlog.any fun w => w.pkt.gen == i.gen && (i.st != .frozen || w.half.isSome))
    && (i.st == .draining || (i.st == .frozen && i.tokenSent))

/-! Unloading (R335, R338). -/

/-- A cluster as an unloading leaves it; the loader's own marks of the guard bitmap go with the regions. -/
def Cluster.clear (g : Cluster) (gen : Nat) (marks : Bool) : Cluster :=
  { g with
    loaded := false, readers := [], wo := g.wo.filter fun (_, w) => w != .deferred, win := [], region := [], esp := [], evq := []
    colq := [], galley := [], pieces := [], held := [], harts := [], comb := [], cbase := []
    runs := g.runs.filter (·.owner.isNone)
    guard := if marks then markGuards g.guard (g.region.map (·.2.toNat)) false else g.guard
    tlb := g.tlb.filter (·.gen != gen), site := g.site.filter (·.r.gen != gen) }

/-- The deferred readers of an instance in HBM4 are removed, and words without a reader are empty. -/
def State.dropHbmReaders (s : State) (gen : Nat) : State :=
  let keep := s.hreaders.filter (·.gen != gen)
  let gone := ((s.hreaders.filter (·.gen == gen)).map (·.addr)).filter fun a => !(keep.any (·.addr == a))
  { s with hreaders := keep, hwo := gone.foldl (fun m a => if SMap.get .empty m a = .deferred then SMap.put .empty m a .empty else m) s.hwo }

/-- Every trace of an instance leaves its set. -/
def State.removeTraces (s : State) (i : Inst) : State :=
  let s := i.cores.foldl (fun t c => t.modCore c Core.clear) s
  let s := (List.range (i.last + 1 - i.first)).foldl (fun t j => t.modCluster (i.first + j) fun g => g.clear i.gen (i.priv && s.caps.testBit 5)) s
  { s.dropHbmReaders i.gen with
    streams := s.streams.filter (·.gen != i.gen), mfail := s.mfail.filter fun f => f.1 % 4096 != i.gen }

/-- The stream's tokens that were not delivered: the leading input tokens of the port. -/
def undelivered : List (List Word × List Word) → List (List Word)
  | [] => []
  | (w, _) :: t => if tokenKind w = 2 then w :: undelivered t else []

/-- The tokens of a stream that ends leave its port; those of an instance that ran to its end are discarded and counted. -/
def State.endStream (s : State) (i : Inst) : State :=
  match i.port with
  | none => s
  | some p =>
    let k := s.port p
    if k.stream = some i.gen then
      let u := undelivered k.tokens
      s.modPort p fun k =>
        { k with tokens := k.tokens.drop u.length, stream := none
                 discarded := if i.st == .frozen then k.discarded else k.discarded + u.length }
    else s

/-- The completion record of an instance (R338); its undelivered tokens are those of its stream that were not delivered, whether or not they
have come to the port (R352, R436; DEDUCED, log entry 68). -/
def Inst.record (i : Inst) (tend : Nat) : CompRec :=
  let c : CompRec :=
    { lid := i.lid, gen := i.gen, rcl := i.rcl, status := if i.st == .frozen then 3 else 0, cancd := i.cancd, canc := i.canc
      drop := i.drop, tstart := i.tstart, tend := tend }
  if i.st == .frozen then
    let c := { c with undel := i.ntok - i.nextSeq, firstu := if i.nextSeq < i.ntok then i.nextSeq else 0 }
    match i.firstFault with
    | some r => { c with detail := r.cause, merged := r.merged + i.merged, epc := r.epc, core := r.core }
    | none => c
  else c

/-- An instance is unloaded: its record is written, its traces are removed, and its generation is retiring (R334, R335, R339). -/
def State.unload (s : State) (i : Inst) : State :=
  let s := s.endStream i
  let s := (s.removeTraces i).modInst i.gen fun x => { x with st := .unloaded }
  let s := match i.port with
    | some p => s.finish p i.cpl (i.record s.time)
    | none => s
  s.after 10000 (.generationProbe i.gen)

/-- INSTANCE_UNLOAD (R334). -/
def execInstanceUnload (gen : Nat) (s : State) : Host.Outcome State Fault Refusal :=
  .next (match s.inst? gen with
    | some i => if (i.st == .draining || i.st == .frozen) && s.quiet i then s.unload i else s
    | none => s)

/-- GENERATION_PROBE (R339): every 10 µs until a probe counts 0. -/
def execGenerationProbe (gen : Nat) (s : State) : Host.Outcome State Fault Refusal :=
  .next (match s.inst? gen with
    | some i =>
      if i.st != .unloaded then s
      else if s.genCount gen = 0 then { s with insts := s.insts.filter (·.gen != gen) }
      else s.after 10000 (.generationProbe gen)
    | none => s)

/-! Reclaim (R337). -/

/-- What a reclaim discards on a core: the core and the number of things discarded. Started commands run on; contexts in Commit end it
(R141). -/
def Core.reclaim (k : Core) : Nat × Core :=
  let started (c : MCmd) : Bool := c.phase != .queued
  let writes := k.portQ.filter fun
    | .fw _ _ _ _ => true
    | _ => false
  let n := k.ready.length + k.misses.length + k.cextQ.length + k.spillQ.length + (k.portQ.length - writes.length) + k.inputQ.length + k.niQ.length
    + k.ni.length + k.lane.length + (k.regionQ.filter fun c => !started c).length + k.engLane.length + k.timers.length
  (n, { k with
    ready := [], misses := [], cextQ := [], spillQ := [], portQ := writes, inputQ := [], niQ := [], ni := [], lane := []
    regionQ := k.regionQ.filter started, engLane := [], timers := [], outst := []
    ftab := k.ftab.foldl (fun m (f, e) => SMap.put {} m f { e with pin := 0 }) [] })

/-- What a reclaim discards at a cluster: queued commands of its harts, galley and held messages. -/
def Cluster.reclaim (g : Cluster) : Nat × Cluster :=
  let n := g.galley.length + g.pieces.length + g.held.length + (g.harts.map fun (_, h) => h.q.length + h.waiting.length).sum
  (n, (g.harts.map (·.1)).foldl (fun g h => g.setHart h { g.hart h with q := [], waiting := [] }) { g with galley := [], pieces := [], held := [] })

/-- Messages of an instance in the station buffers: those that have come for it, and requests whose response has not. -/
def Station.reclaim (k : Station) (gen : Nat) : Nat × Station :=
  let mine (p : Pkt) : Bool := p.gen == gen && p.dpkg.isNone
  ((k.rx.filter mine).length + (k.pend.filter mine).length,
    { k with rx := k.rx.filter fun p => !mine p, pend := k.pend.filter fun p => !mine p })

/-- One pass over the set: everything that can be discarded is, and counted in DROP. -/
def State.discardAll (s : State) (i : Inst) : State :=
  let s := i.cores.foldl (fun t c =>
    let (n, k) := (t.core c).reclaim
    ((t.setCore c k).drainPort c k.portQ.length).dropped i.gen n) s
  let s := (List.range (i.last + 1 - i.first)).foldl (fun t j =>
    let (n, g) := (t.cluster (i.first + j)).reclaim
    (t.setCluster (i.first + j) g).dropped i.gen n) s
  let s := (s.stations.map (·.1)).foldl (fun t j =>
    let (n, k) := (SMap.get ({} : Station) t.stations j).reclaim i.gen
    { t with stations := SMap.put ({} : Station) t.stations j k }.dropped i.gen n) s
  let mine := s.net.filter (·.gen == i.gen)
  let s := { s with
    net := s.net.filter (·.gen != i.gen), flushes := s.flushes.filter (·.gen != i.gen), rounds := s.rounds.filter (·.gen != i.gen)
    timed := s.timed.filter fun t => match t.2 with
      | .isrdRetry p => p.gen != i.gen
      | .eventRetry p => p.gen != i.gen
      | _ => true }
  (s.dropped i.gen mine.length).dropWaits i

/-- Running activations of a core that are not in Commit are aborted (R403). -/
def State.abortRunning (s : State) (c : Nat) : State :=
  (List.range 4).foldl (fun t x => if ((t.core c).ctx x).phase == .running then t.abort c x true else t) s

/-- RECLAIM (R337): a frozen instance that is not quiescent 10 ms after it froze is stopped as by a gang switch and emptied; what has
started runs out, and the pass is repeated until nothing is left. -/
def State.reclaim (s : State) (gen : Nat) : State :=
  match s.inst? gen with
  | none => s
  | some i =>
    if i.st != .frozen || (!i.rcl && s.quiet i) then s
    else
      let s := s.modInst gen fun x => { x with rcl := true, tokenSent := true }
      let s := (List.range (i.last + 1 - i.first)).foldl (fun t j =>
        t.modCluster (i.first + j) fun g => if g.stopped then g else { g with stopped := true, stopAt := s.time }) s
      let s := (i.cores.foldl State.abortRunning s).discardAll i
      match s.inst? gen with
      | some i =>
        if s.quiet i then
          let s := s.unload i
          -- while a thermal stop is in force the clusters run no launch (R429)
          if s.host.tstop then
            let cls := (List.range (i.last + 1 - i.first)).map (i.first + ·)
            { s with host := { s.host with tstopped := s.host.tstopped ++ cls.filter fun c => !s.host.tstopped.contains c } }
          else (List.range (i.last + 1 - i.first)).foldl (fun t j => t.modCluster (i.first + j) fun g => { g with stopped := false }) s
        else s.after (s.cyc 64) (.reclaim gen)
      | none => s

def execReclaim (gen : Nat) (s : State) : Host.Outcome State Fault Refusal := .next (s.reclaim gen)

end Sys2Proof.Machine
end

