-- ==== Sys2Proof/Machine/Placer.lean ====
section
/-! DEFINITION. Tokens that arrive from the host (R327, R353) and the expert placer (R353–R355). -/
namespace Sys2Proof.Machine

open Sys2Proof

/-! Arriving inputs. -/

/-- LAUNCH_TOKEN, PLACEMENT_TOKEN: a token arrives at a port. -/
def State.arriveToken (s : State) (i : Instr) : State :=
  match s.popInput i with
  | (.token p w, t) => t.tokenIn p w
  | (_, t) => t

def execLaunchToken (s : State) : Host.Outcome State Fault Refusal := .next (s.arriveToken .launchToken)
def execPlacementToken (s : State) : Host.Outcome State Fault Refusal := .next (s.arriveToken .placementToken)

/-! Quotas (R354). -/

/-- Clusters of each expert: `c` clusters shared by the counts; none when there are more experts with work than clusters. -/
def quotas (c : Nat) (hs : List Nat) : Option (List Nat) :=
  let h := hs.sum
  let z := (hs.filter (0 < ·)).length
  if c < z then none
  else
    let base := hs.map fun x => if x = 0 then 0 else 1 + (c - z) * x / h
    let rem := hs.map fun x => if x = 0 then 0 else (c - z) * x % h
    let order := sortBy (fun (a b : Nat × Nat) => decide (b.2 < a.2) || (a.2 == b.2 && decide (a.1 < b.1)))
      ((List.zip (List.range hs.length) rem).filter fun (e, _) => hs.getD e 0 != 0)
    let extra := (order.take (c - base.sum)).map (·.1)
    some (base.mapIdx fun e n => if extra.contains e then n + 1 else n)

/-- Regions laid out in ascending expert from a cluster: expert, first cluster, count. -/
def regionsFrom (first e : Nat) : List Nat → List (Nat × Nat × Nat)
  | [] => []
  | n :: t => (if n = 0 then [] else [(e, first, n)]) ++ regionsFrom (first + n) (e + 1) t

/-! The forme cache (R355). -/

/-- Partial formes of the cache discarded, least recently placed first, until `n` bytes fit. -/
def State.roomFor (s : State) (n : Nat) : (fuel : Nat) → Die → Option Die
  | 0, _ => none
  | fuel + 1, d =>
    let used := ((d.store.filter (·.partial_)).map (·.image.length)).sum
    if used + n ≤ 2 ^ 24 then some d
    else
      match s.oldest d true with
      | some x => s.roomFor n fuel { d with store := d.store.erase x }
      | none => none

/-- The partial forme of a placement in the die's cache, fetched from the store when absent; the reason of a failure. -/
def State.partialForme (s : State) (die fid ver first p : Nat) : Except Nat (Image × State) :=
  let d := s.die die
  let why (img : Image) (fresh : Bool) : Nat := if img.part then s.reject img fresh true first first p else 1
  match d.stored fid ver true with
  | some x =>
    let img := imageOf x.image
    if why img false ≠ 0 then .error (why img false)
    else .ok (img, s.setDie die { d with store := snoc (d.store.erase x) { x with used := s.time } })
  | none =>
    match d.stored fid ver false with
    | none => .error 1
    | some x =>
      let img := imageOf x.image
      if why img true ≠ 0 then .error (why img true)
      else
        match s.roomFor x.image.length (d.store.length + 1) d with
        | some d => .ok (img, s.setDie die { d with store := snoc d.store { x with partial_ := true, used := s.time } })
        | none => .error 1

/-! PLACEMENT (R354). -/

def prec (r : List Word) (i hi lo : Nat) : Nat := wbits (r.getD i 0) hi lo

/-- A placement record that R353 does not lay out. -/
def placementBad (r : List Word) : Bool :=
  prec r 0 63 25 != 0 || prec r 0 6 0 == 0 || decide (64 < prec r 0 6 0) || decide (prec r 0 24 16 < prec r 0 15 7) || prec r 2 63 48 != 0
    || prec r 4 5 0 != 0 || prec r 5 63 32 != 0 || r.getD 6 0 != 0 || r.getD 7 0 != 0

/-- The placement at the head of a port can go on: its pool is free. -/
def State.placementReady (s : State) (p : Nat) : Bool :=
  match (s.port p).tokens with
  | (w, r) :: _ =>
    tokenKind w == 3 && (r.isEmpty || placementBad r
      || (s.ops.isEmpty && s.clustersFree (prec r 0 15 7) (prec r 0 24 16)))
  | [] => false

/-- A placement's record (R338), with GEN 0. -/
def State.endPlacement (s : State) (p : Nat) (r : List Word) (status detail : Nat) (e : Short := ⟨0, false⟩) : State :=
  s.finish p (prec r 4 63 0) ({ lid := prec r 5 31 0, status := status, detail := detail, tend := s.time : CompRec }.short e)

/-- The regions of a placement loaded one after another with their generations; or the status and detail of the
one that fails (R323, R325). -/
def State.loadRegions (s : State) (img : Image) (root : Word) (lid : Nat) : List ((Nat × Nat × Nat) × Nat) → Except (Nat × Nat × Short) State
  | [] => .ok s
  | ((e, first, n), gen) :: t =>
    let cls := (List.range n).map (first + ·)
    let s := cls.foldl State.rebuild s
    match s.tryLoad img gen first cls with
    | .error e => .error (4, 0x12, e)
    | .ok s =>
      match s.loadHbm img root (img.recs 0x0E) with
      | none => .error (2, 1, ⟨0, false⟩)
      | some s =>
        let i : Inst := { gen := gen, lid := lid, first := first, last := first + n - 1 }
        (s.startInst img i root [BitVec.ofNat 64 e, BitVec.ofNat 64 n, 0, 0, 0, 0, 0, 0]).loadRegions img root lid t

/-- The table entry of an expert; a count of 512 does not fit its nine bits and reads 0 (DESIGN CHOICE, log entry 48). -/
def tableEntry (rs : List ((Nat × Nat × Nat) × Nat)) (e : Nat) : Word :=
  match rs.find? fun x => x.1.1 == e with
  | some ((_, first, n), gen) => BitVec.ofNat 64 (first + n % 2 ^ 9 * 2 ^ 9 + gen * 2 ^ 18 + 2 ^ 30)
  | none => 0

/-- A placement is carried out; it waits when fewer generations are free than it has regions (R339). -/
def State.place (s : State) (p : Nat) (r : List Word) : Option State :=
  let ne := prec r 0 6 0
  let first := prec r 0 15 7
  match s.physRead (prec r 1 63 0) (4 * ne) with
  | none => some (s.endPlacement p r 2 1)
  | some (bs, s) =>
    match quotas (prec r 0 24 16 + 1 - first) ((List.range ne).map fun e => numAt bs (4 * e) 4) with
    | none => some (s.endPlacement p r 4 0x12)
    | some ns =>
      let regions := regionsFrom first 0 ns
      let rs := List.zip regions (s.freeGens regions.length)
      if rs.length < regions.length then none
      else
        match s.partialForme (dieOf first) (prec r 2 31 0) (prec r 2 47 32) first p with
        | .error why => some (s.endPlacement p r 2 why)
        | .ok (img, s) =>
          match s.loadRegions img (s.port p).proot (prec r 5 31 0) rs with
          | .error (st, why, e) => some (s.endPlacement p r st why e)
          | .ok t =>
            some ((t.physWrite (prec r 3 63 0) (bytesOfWords ((List.range ne).map (tableEntry rs)))).endPlacement p r 0 0)

/-- PLACEMENT (R354): at one of the ports whose placement can go on. -/
def State.placement (s : State) : State :=
  let ready := (s.ports.map (·.1)).filter s.placementReady
  match ready[Config.pick s.freeCtr % ready.length]? with
  | none => s
  | some p =>
    match (s.port p).tokens with
    | (_, r) :: _ =>
      let t := s.fresh.popToken p
      if r.isEmpty then t.discard p else if placementBad r then t.endPlacement p r 2 1 else (t.place p r).getD s.fresh
    | [] => s

def execPlacement (s : State) : Host.Outcome State Fault Refusal := .next s.placement

end Sys2Proof.Machine
end

