-- ==== Sys2Proof/Machine/Voltage.lean ====
section
/-! DEFINITION. Operating-point steps (R281, R315, R319–R322), evacuation (R321) and rows found failing in the field (R316, R317,
R402). -/
namespace Sys2Proof.Machine

open Sys2Proof

/-! The scratchpad's spares (R319). -/

/-- UG' of a cluster at a point. -/
def State.ugAt (s : State) (cl k : Nat) : Nat := min (s.cluster cl).ug (s.srows cl k / 32)

/-- The place of a slot: its home or its spare. -/
def Cluster.placeOf (g : Cluster) (slot : Nat) : Nat := (SMap.get none g.remap slot).getD slot

/-- The lowest spare: a slot of a group from `ug` that is not pruned and not a spare already. -/
def Cluster.nextSpare (g : Cluster) (pruned : List Nat) (ug : Nat) : Option Nat :=
  ((List.range (65536 - 32 * ug)).map (32 * ug + ·)).find? fun x => !pruned.contains x && !(g.remap.any fun (_, y) => y == some x)

/-- Slots of groups below UG' whose present place is pruned at `k` receive new spares, and UG becomes UG'; the contents, kept by
logical row, stay what they are (R319, R321). -/
def State.respare (s : State) (k cl : Nat) : State :=
  let pruned := s.prunedRows 0 cl 0 k
  let ug := s.ugAt cl k
  let g := s.cluster cl
  let homes := pruned ++ (g.remap.filter fun (_, y) => y.any pruned.contains).map (·.1)
  let bad := (sortBy (fun a b => decide (a ≤ b)) homes.eraseDups).filter fun x => decide (x < 32 * ug) && pruned.contains (g.placeOf x)
  let g := bad.foldl (fun g x =>
    match g.nextSpare pruned ug with
    | some y => { g with remap := SMap.put none g.remap x (some y) }
    | none => g) g
  s.setCluster cl { g with ug := ug }

/-- The lowest allocated group at or above a bound. -/
def State.groupOver (s : State) (cl ug : Nat) : Nat :=
  (((s.cluster cl).runs.filter fun r => decide (ug < r.first + r.n)).map fun r => max ug r.first).foldl min 2048

/-- A cluster with an allocated group at or above a bound (R300, R320). -/
def State.overGroups (s : State) (cl ug : Nat) : Bool := (s.cluster cl).runs.any fun r => decide (ug < r.first + r.n)

/-! Frames. -/

/-- Where a frame of a core can go at a point: the lowest run of usable free granules, or the lowest free home; none when neither
exists. -/
def State.framePlace (s : State) (core : Nat) (k : Core) (n op : Nat) : Option FrameDest :=
  match (List.range (257 - n)).find? fun g => (List.range n).all fun i => k.granFree (g + i) && s.granUsable core (g + i) op with
  | some g => some (.granules g)
  | none => ((List.range 256).find? k.homeFree).map .home

/-- Resident frames of a core that hold a granule unusable at a point, in ascending frame id. -/
def State.badFrames (s : State) (core op : Nat) : List Nat :=
  ((s.core core).ftab.filter fun (_, e) => e.v && e.res && (List.range (e.len + 1)).any fun i => !s.granUsable core (e.gran + i) op).map (·.1)

/-- The placement of R320, one frame after another, with nothing moved yet: the frames are held for their moves; none when a frame finds
no place. -/
def State.placeFrames (s : State) (core op : Nat) : Core → List Nat → Option Core
  | k, [] => some k
  | k, f :: t =>
    match s.framePlace core k ((k.fent f).len + 1) op with
    | some d => s.placeFrames core op (k.setFent f { k.fent f with held := true, dest := some d }) t
    | none => none

/-- A held frame goes to granules from `g` (R321). -/
def State.moveTo (s : State) (core fid g : Nat) : State :=
  let k := s.core core
  let e := k.fent fid
  let n := e.len + 1
  let bs := loadBytes k.fsram (256 * e.gran) (256 * n)
  let bad (i : Nat) : Bool := SMap.get false k.fpoison (32 * e.gran + i) || SMap.get false k.fbad (32 * e.gran + i)
  s.setCore core (({ k with fsram := storeBytes k.fsram (256 * g) bs }.poisonWords (32 * g) (32 * n) bad).setFent fid { e with gran := g, held := false, dest := none })

/-- A held frame is spilled to home `h` (R23, R321, R402): its queued activations wait for the reload. -/
def State.spillTo (s : State) (core fid h : Nat) : State :=
  let k := s.core core
  let e := k.fent fid
  let n := 32 * (e.len + 1)
  let bs := loadBytes k.fsram (256 * e.gran) (8 * n)
  let bad := (List.range n).filter fun i => SMap.get false k.fpoison (32 * e.gran + i) || SMap.get false k.fbad (32 * e.gran + i)
  let lines := (bad.map fun i => (k.spillBase.toNat + 4096 * h + 8 * i) / 64).eraseDups
  let mine (a : Act) : Bool := a.fid == some fid
  let s := s.setCore core ({ k with ready := k.ready.filter fun a => !mine a, spillQ := k.spillQ ++ k.ready.filter mine }.setFent fid
    { e with res := false, home := h, rld := k.ready.any mine, held := false, dest := none })
  if s.homeOk core fid then (s.writeHomeLines core h bs lines).setSp core fid 1 else s.homeFault core fid

/-- A frame can be moved now: it is held, and no context runs an activation of it. -/
def Core.movable (k : Core) (fid : Nat) : Bool :=
  (k.fent fid).held && !(k.ctxs.any fun (_, c) => c.phase != .idle && c.act.fid == some fid)

/-- A held frame is moved to its place when it can be; what waited for it at the frame port is applied. -/
def State.moveHeld (s : State) (core fid : Nat) : State :=
  let k := s.core core
  if !k.movable fid then s
  else
    match (k.fent fid).dest with
    | some (.granules g) => let s := s.moveTo core fid g; s.drainPort core (s.core core).portQ.length
    | some (.home h) => let s := s.spillTo core fid h; s.drainPort core (s.core core).portQ.length
    | none => s

/-- The frames of the package that are held for a move. -/
def State.heldFrames (s : State) : List (Nat × Nat) := s.cores.flatMap fun (c, k) => (k.ftab.filter (·.2.held)).map fun x => (c, x.1)

/-! L1 and LLC. -/

/-- The line that stands in a way that fails, among those of its set: which one, or that the way is empty where the other ways hold them
all, is the part's own. -/
def State.inWay (s : State) (lines : List Nat) (ways : Nat) : Option Nat :=
  lines[Config.victim s.freeCtr % (if lines.length ≤ ways then lines.length + 1 else lines.length)]?

/-- The line of an L1 way that fails leaves, pinned or not (R304, R321). -/
def State.trimL1 (s : State) (core set : Nat) : State :=
  let k := s.core core
  match s.inWay ((k.l1.filter fun (l, _) => l1Set k.l1mode l == set).map (·.1)) (s.l1Ways core set) with
  | some l => (s.evictL1 core l).fresh
  | none => s.fresh

/-- The words of a line leave every L1 that owns them (R289). -/
def State.revokeLine (s : State) (line : Nat) : State := (List.range 8).foldl (fun t i => t.revoke (64 * line + 8 * i) 0) s

/-- The line of an LLC way that fails is written back and leaves (R305, R321). -/
def State.trimLlc (s : State) (die slice set : Nat) : State :=
  let lines := (s.llc.map (·.1)).filter fun l => homeDie (64 * l) == die && homeSlice (64 * l) == slice && llcSet l == set
  match s.inWay lines (match lines with
    | l :: _ => s.llcWays l
    | [] => 16) with
  | some l => ((s.revokeLine l).evictLlc l).fresh
  | none => s.fresh

/-- Lines leave the ways that rows of the prune map fail. -/
def State.trimRows (s : State) (rows : List PruneRow) : State :=
  ((rows.map fun r => (r.kind, r.cl, r.core, r.row)).eraseDups).foldl (fun t (kind, cl, core, row) =>
    match kind with
    | 2 => t.trimL1 (16 * cl + core) (row / 8)
    | 3 => t.trimLlc cl core (row / 16)
    | _ => t) s

/-! Steps (R320, R322). -/

/-- The core voltage of a point in mV (R315). -/
def millivolts (op : Nat) : Nat :=
  match op with
  | 0 => 850
  | 1 => 750
  | 2 => 660
  | 3 => 580
  | _ => 520

/-- Nanoseconds of a ramp at 10 mV per µs. -/
def rampTime (a b : Nat) : Nat := 100 * (max (millivolts a) (millivolts b) - min (millivolts a) (millivolts b))

/-- The first shortfall of a downward step (R322): the instance with the floor, the cluster and its group bound, or the core. -/
def State.shortfall (s : State) (k : Nat) : Option (List Nat) :=
  match s.insts.find? fun i => i.st != .unloaded && decide (i.floor < k) with
  | some i => some [0, i.gen, i.floor]
  | none =>
    match (s.clusters.map (·.1)).find? fun cl => s.overGroups cl (s.ugAt cl k) with
    | some cl => some [1, cl, s.groupOver cl (s.ugAt cl k)]
    | none => ((s.cores.map (·.1)).find? fun c => (s.placeFrames c k (s.core c) (s.badFrames c k)).isNone).map fun c => [2, c]

/-- The step at the head is over. -/
def State.endStep (s : State) (err : Nat) : State :=
  match s.ops with
  | o :: t => { s with ops := t, opstage := 0 }.complete o.org o.cmpl err o.k o.cmpl.isSome
  | [] => s

/-- OPSTEP_ARRIVAL (R281, R317, R320, R322): the step is taken up; a downward one is announced and its fit checked. -/
def State.takeStep (s : State) : State :=
  match s.ops with
  | [] => s
  | o :: _ =>
    if s.opstage ≠ 0 then s
    else if o.k = s.opnow then s.endStep 0
    else if !s.offered o.k then (s.hostEvent 1 [3, o.k]).endStep 0x12
    else if o.k < s.opnow then { s with opstage := 4 }.after (rampTime o.k s.opnow) .voltageRampDone
    else
      match s.shortfall o.k with
      | some d => (s.hostEvent 1 d).endStep 0x12
      | none =>
        let hold (t : State) (c : Nat) : State := t.setCore c ((s.placeFrames c o.k (s.core c) (s.badFrames c o.k)).getD (s.core c))
        (s.cores.map (·.1)).foldl hold { s with opstage := 1 }

def execOpstepArrival (s : State) : Host.Outcome State Fault Refusal := .next s.takeStep

/-- EVACUATION (R321): held frames that can be moved are; when none is left, slots, L1 and LLC lines leave failing rows, and the switch
follows at a TIME at least 1 µs later. -/
def State.evacuate (s : State) : State :=
  let s := s.heldFrames.foldl (fun t (c, f) => t.moveHeld c f) s
  if s.opstage ≠ 1 || !s.heldFrames.isEmpty then s
  else
    match s.ops with
    | o :: _ =>
      let s := (((s.clusters.filter (·.2.loaded)).map (·.1)).foldl (fun t cl => t.respare o.k cl) s).trimRows
        (s.prune.filter fun r => decide (s.opnow < r.op) && decide (r.op ≤ o.k))
      ({ s with opstage := 2 }.after (1000 + Config.elapsed s.freeCtr) .opSwitch).fresh
    | [] => s

def execEvacuation (s : State) : Host.Outcome State Fault Refusal := .next s.evacuate

/-- OP_SWITCH (R320, R322): the clocks change; an upward step is then complete. -/
def State.switchClocks (s : State) : State :=
  match s.ops with
  | o :: _ =>
    if s.opstage = 2 then ({ s with opclock := o.k, opstage := 3 }).after (rampTime s.opnow o.k) .voltageRampDone
    else if s.opstage = 5 then { s with opclock := o.k, opnow := o.k }.endStep 0
    else s
  | [] => s

def execOpSwitch (s : State) : Host.Outcome State Fault Refusal := .next s.switchClocks

/-- VOLTAGE_RAMP_DONE (R320, R322): a downward step is complete; an upward one switches its clocks at an agreed TIME. -/
def State.rampDone (s : State) : State :=
  match s.ops with
  | o :: _ =>
    if s.opstage = 3 then { s with opnow := o.k }.endStep 0
    else if s.opstage = 4 then ({ s with opstage := 5 }.after (Config.elapsed s.freeCtr) .opSwitch).fresh
    else s
  | [] => s

def execVoltageRampDone (s : State) : Host.Outcome State Fault Refusal := .next s.rampDone

/-! Rows found failing (R316, R317, R402). -/

/-- A slot that serves some usable slot of its cluster. -/
def Cluster.inService (g : Cluster) (x : Nat) : Bool :=
  (decide (x < 32 * g.ug) && (SMap.get none g.remap x).isNone) || g.remap.any fun (h, y) => y == some x && decide (h < 32 * g.ug)

/-- A row in service is evacuated at once; with no place for it, it stays and the runtime is told. -/
def State.rescueRow (s : State) (kind cl core row : Nat) : State :=
  match kind with
  | 0 =>
    if !(s.cluster cl).inService row then s
    else if s.overGroups cl (s.ugAt cl s.opnow) then s.hostEvent 1 [4, kind, cl, core, row]
    else s.respare s.opnow cl
  | 1 =>
    let c := 16 * cl + core
    let k := s.core c
    match (k.ftab.filter fun (_, e) => e.v && e.res && decide (e.gran ≤ row / 4) && decide (row / 4 ≤ e.gran + e.len)).map (·.1) with
    | f :: _ =>
      if (k.fent f).held then s
      else
        match s.framePlace c k ((k.fent f).len + 1) s.announced with
        | some (.granules g) => s.setCore c (k.setFent f { k.fent f with held := true, dest := some (.granules g) })
        | _ => s.hostEvent 1 [4, kind, cl, core, row]
    | [] => s
  | _ => s.trimRows (s.prune.filter fun r => r.kind == kind && r.cl == cl && r.core == core && r.row == row)

/-- The points that stop being offered are told to the runtime (R317). -/
def State.lostPoints (s old : State) (kind cl core : Nat) : State :=
  ((List.range 5).filter fun op => old.offered op && !s.offered op).foldl (fun t op => t.hostEvent 1 [5, op, kind, cl, core]) s

/-- SCRUB_ERROR (R316, R402): the row is added to the map at the current point and every lower one. -/
def State.scrubRow (s : State) (kind cl core row : Nat) : State :=
  if !s.hasPrune || s.pruned kind cl core row s.opnow then s
  else
    let t := { s with prune := snoc s.prune { kind := kind, cl := cl, core := core, row := row, op := s.opnow, field := true } }
    (t.rescueRow kind cl core row).lostPoints s kind cl core

/-- An error strikes; what meets it later takes the effect of its rule (R179, R398, R401; log entry 86). -/
def State.strike (s : State) (u : Upset) : State :=
  match u with
  | .context c x => s.modCore c fun k => if (k.ctx x).phase == .idle then k else k.setCtx x { k.ctx x with bad := true }
  | .inbox c a => s.modCore c fun k =>
      { k with ready := k.ready.map fun q => if q.id == a && !q.inbox.isEmpty then { q with bad := true } else q }
  | .frame c w => s.modCore c fun k => { k with fbad := SMap.put false k.fbad w true }
  | .plate c p => s.modCore c fun k => { k with pbad := SMap.put false k.pbad p true }
  | .l1 c l => s.modCore c fun k => if (SMap.get none k.l1 l).isSome then { k with l1bad := SMap.put false k.l1bad l true } else k
  | .spad cl w => s.modCluster cl fun g => { g with sbad := SMap.put false g.sbad w true }
  | .hbm l => { s with hbad := SMap.put false s.hbad l true }
  | .lane c l ok => s.modCore c fun k => { k with vmism := snoc k.vmism (l, ok) }
  | .pe cl col row ok => s.modCluster cl fun g => { g with pmism := snoc g.pmism (col, row, ok) }


def execScrubError (s : State) : Host.Outcome State Fault Refusal :=
  .next (match s.popInput .scrubError with
    | (.scrub kind cl core row, t) => t.scrubRow kind cl core row
    | (.upset u, t) => t.strike u
    | (_, t) => t)

/-! Register writes and the runtime's settings through the management path (R7, R302, R311, R387, R462). -/

/-- The core that stands for the core, cluster or die whose register is written. -/
def regHome (num at_ : Nat) : Nat :=
  if num < 0x804 then at_
  else if (0x880 ≤ num ∧ num < 0x890) ∨ num = 0x950 then 1024 * at_
  else 16 * at_

/-- REGISTER_WRITE, FMTWIN_WRITE: the writable fields are set. -/
def State.manageReg (s : State) (i : Instr) : State :=
  match s.popInput i with
  | (.reg num at_ v, t) => t.writeReg (regHome num at_) num v
  | (.hop pkg v, t) => { t with nextHop := SMap.put 0 t.nextHop pkg (BitVec.ofNat 64 (wbits v 31 0)) }
  | (.link st peer ualink, t) =>
    -- UALink mode takes the UALink capability (R11, R387)
    let k := SMap.get ({} : Station) t.stations st
    { t with stations := SMap.put ({} : Station) t.stations st { k with peer := peer, ualink := ualink && t.caps.testBit 2, up := true } }
  | (.guardMark cl granule on, t) =>
    if t.caps.testBit 5 then t.modCluster cl fun g => { g with guard := SMap.put false g.guard granule on } else t
  | (.spadAlloc cl n, t) => t.modCluster cl fun g => g.giveRun none n
  | (.spadFree cl first, t) => t.modCluster cl fun g => { g with runs := g.runs.filter fun r => r.owner.isSome || r.first != first }
  | (.gang go first last at_, t) =>
    if first ≤ last && decide (last < 512) then
      { t with stops := snoc t.stops { go := go, first := first, last := last, at_ := at_, cmpl := none, org := { core := 16 * first, kind := 5 } } }
    else t
  | (_, t) => t

def execRegisterWrite (s : State) : Host.Outcome State Fault Refusal := .next (s.manageReg .registerWrite)
def execFmtwinWrite (s : State) : Host.Outcome State Fault Refusal := .next (s.manageReg .fmtwinWrite)

end Sys2Proof.Machine
end

