-- ==== Sys2Proof/Machine/Gang.lean ====
section
/-! DEFINITION. Gang stops and resumes (R280, R403–R406), the state window from outside (R407), and the write-back and TLB hardware
(R275, R276, R413). -/
namespace Sys2Proof.Machine

open Sys2Proof

/-! Stops (R403–R406). -/

/-- The clusters of a set. -/
def clustersOf (first last : Nat) : List Nat := (List.range (last + 1 - first)).map (first + ·)

/-- The set consists of whole instances (R403). -/
def State.wholeSet (s : State) (first last : Nat) : Bool :=
  s.insts.all fun i => i.st == .unloaded || (decide (first ≤ i.first) && decide (i.last ≤ last)) || decide (i.last < first) || decide (last < i.first)

/-- The clusters of a set stop: dispatch, running activations, timers and starvation counts (R403); the slots of every context with work
outstanding are marked (R211). -/
def State.stopSet (s : State) (first last : Nat) : State :=
  (clustersOf first last).foldl (fun t cl =>
    if (t.cluster cl).stopped then t
    else
      (coresOf cl).foldl (fun t c => (List.range 4).foldl (fun t x => t.orphan c x) (t.abortRunning c))
        (t.modCluster cl fun g => { g with stopped := true, stopAt := t.time })) s

/-- A stop or a resume ends: the GSTOP that asked for it completes (R280); the runtime's has no completion. -/
def State.stopEnd (s : State) (o : Stop) (err tval : Nat) : State :=
  if o.cmpl.isNone && o.org.kind == 5 then s else s.complete o.org o.cmpl err tval o.cmpl.isSome

/-- GANG_STOP (R403): at its stamp. -/
def State.gangStop (s : State) (ix : Nat) : State :=
  match s.stops[ix]? with
  | none => s
  | some o =>
    if o.go || o.begun || s.time < o.at_ then s
    else if !s.wholeSet o.first o.last then { s with stops := s.stops.eraseIdx ix }.stopEnd o 0x09 o.first
    else
      -- a later end of a thermal stop does not let these clusters run (R429)
      { s with
        stops := s.stops.set ix { o with begun := true }
        host := { s.host with tstopped := s.host.tstopped.filter fun cl => !(clustersOf o.first o.last).contains cl } }.stopSet o.first o.last

def execGangStop (ix : Nat) (s : State) : Host.Outcome State Fault Refusal := .next (s.gangStop ix)

/-- A stopped cluster has come to rest (R405). -/
def State.atRest (s : State) (cl : Nat) : Bool :=
  (s.cluster cl).harts.all (fun (_, h) => h.left.isEmpty)
    && (coresOf cl).all fun c =>
      let k := s.core c
      k.ctxs.all (fun (_, x) => x.phase == .idle) && k.lane.isEmpty && k.regionQ.isEmpty

/-- STOP_COMPLETE (R405). -/
def State.stopDone (s : State) (ix : Nat) : State :=
  match s.stops[ix]? with
  | none => s
  | some o =>
    if !o.go && o.begun && (clustersOf o.first o.last).all s.atRest then
      { s with stops := s.stops.eraseIdx ix }.stopEnd o 0 0
    else s

def execStopComplete (ix : Nat) (s : State) : Host.Outcome State Fault Refusal := .next (s.stopDone ix)

/-- A stopped cluster runs again: the starvation counts of its entries, and the run of its harts' commands, go on from where they
held (R406). -/
def State.resumeCl (s : State) (cl : Nat) : State :=
  let g := s.cluster cl
  if !g.stopped then s
  else
    let d := s.time - g.stopAt
    let s := (coresOf cl).foldl (fun t c => t.modCore c fun k => { k with ready := k.ready.map fun a => { a with since := min a.since g.stopAt + d } }) s
    s.setCluster cl ((g.harts.map (·.1)).foldl (fun g h => g.setHart h { g.hart h with since := min (g.hart h).since g.stopAt + d }) { g with stopped := false })

/-- GANG_RESUME (R406): at its stamp; while a thermal stop is in force it waits (R429). -/
def State.gangResume (s : State) (ix : Nat) : State :=
  match s.stops[ix]? with
  | none => s
  | some o =>
    if !o.go || s.time < o.at_ || s.host.tstop then s
    else ((clustersOf o.first o.last).foldl State.resumeCl { s with stops := s.stops.eraseIdx ix }).stopEnd o 0 0

def execGangResume (ix : Nat) (s : State) : Host.Outcome State Fault Refusal := .next (s.gangResume ix)

/-! The state window (R407). -/

/-- An answer to a request of the host, by its tag. -/
def State.answerHost (s : State) (tag : Nat) (bs : List Byte) : State := { s with host := { s.host with replies := snoc s.host.replies (tag, bs) } }

/-- STATE_WINDOW_ACCESS: a privileged access from outside; of a cluster that is not stopped, or of poisoned words (R402), it
fails: a read is answered without data. -/
def execStateWindowAccess (s : State) : Host.Outcome State Fault Refusal :=
  .next (match s.popInput .stateWindowAccess with
    | (.window wr cl off bs, t) =>
      if !(t.cluster cl).stopped then (if wr then t else t.answerHost 0 [])
      else if wr then (t.winStore cl off bs).getD t
      else t.answerHost 0 ((t.winLoad cl off bs.length).getD [])
    | (_, t) => t)

/-! FLUSH (R275). -/

/-- A line of the range written back, and, with `inv`, removed from the LLC and from every L1. -/
def State.flushLine (s : State) (inv : Bool) (line : Nat) : State :=
  if inv then
    ((s.cores.map (·.1)).foldl (fun t c => (List.range 8).foldl (fun u i => u.dropWord c (64 * line + 8 * i)) t) (s.revokeLine line)).evictLlc line
  else
    match SMap.get none s.llc line with
    | some l => { s.writeBack line l with llc := SMap.put none s.llc line (some { l with dirty := false }) }
    | none => s

/-- Lines `[a, b)` of the physical range: those that the LLC or an L1 holds. -/
def State.cachedLines (s : State) (a b : Nat) : List Nat :=
  ((s.llc.map (·.1)) ++ s.cores.flatMap fun (_, k) => k.l1.map (·.1) ++ k.rb.map (·.1)).eraseDups.filter fun l => decide (a ≤ l) && decide (l < b)

/-- The bytes of the range that lie in the page of its first byte. -/
def FlushOp.now (o : FlushOp) : Nat := min o.len (2 ^ 16 - o.va % 2 ^ 16)

/-- FLUSH_COMPLETION: the write-back hardware does the next page of the range; at the end of the range, or at a page that faults, the
FLUSH completes. -/
def State.flushPage (s : State) (ix : Nat) : State :=
  match s.flushes[ix]? with
  | none => s
  | some o =>
    let ends (s : State) (err : Nat) : State := { s with flushes := s.flushes.eraseIdx ix }.complete o.org o.cmpl err o.va o.cmpl.isSome
    if o.len = 0 then ends s 0
    else
      match s.placeNow { cl := o.cl, gen := o.gen, priv := o.priv, org := o.org } .read o.va with
      | .error c => ends s c
      | .ok (l, s) =>
        let s := match l with
          | .mem pa => (s.cachedLines (pa / 64) ((pa + o.now) / 64)).foldl (fun t x => t.flushLine o.inv x) s
          | _ => s
        if o.len ≤ o.now then ends s 0
        else { s with flushes := s.flushes.set ix { o with va := o.va + o.now, len := o.len - o.now } }

def execFlushCompletion (ix : Nat) (s : State) : Host.Outcome State Fault Refusal := .next (s.flushPage ix)

/-! TLBINV (R276, R413). -/

/-- A translated access that is on its way: its core and virtual address. -/
def Pkt.translated (p : Pkt) : Option (Nat × Nat) :=
  let va := match p.body with
    | .store _ va _ | .ldfar _ _ va _ _ _ _ _ | .istw _ va _ _ _ | .istwClr _ va _ _ | .isrd _ va _ _ _ _ => some va
    | .atomic r => some r.va
    | _ => none
  if p.locs.any (fun
      | .spad _ _ => false
      | _ => true) then va.map fun a => (p.org.core, a) else none

/-- Translated accesses that have not been performed: in flight, held, or in an outbound buffer. -/
def State.accesses (s : State) : List (Nat × Nat) :=
  (s.net ++ (s.clusters.flatMap fun (_, g) => g.held) ++ s.cores.flatMap fun (_, k) =>
    (k.ni.flatMap fun e => e.ent.act.pkts) ++ k.ctxs.flatMap fun (_, c) => c.out.flatMap fun e => e.act.pkts).filterMap Pkt.translated

/-- A command or hart is in the middle of an access. -/
def State.midAccess (s : State) : Bool :=
  s.clusters.any (fun (_, g) => g.harts.any fun (_, h) => !h.left.isEmpty) || s.cores.any fun (_, k) => k.regionQ.any fun c => !c.todo.isEmpty

/-- Translations of a virtual address, or all of them, leave every TLB of the package. -/
def State.dropTlb (s : State) (va : Option Nat) : State :=
  let gone (t : Tlb) : Bool := match va with
    | some a => decide (t.va ≤ a) && decide (a < t.va + t.size)
    | none => true
  (s.cores.map (·.1)).foldl (fun t c => t.modCore c fun k => { k with utlb := k.utlb.filter fun x => !gone x })
    ((s.clusters.map (·.1)).foldl (fun t cl => t.modCluster cl fun g => { g with tlb := g.tlb.filter fun x => !gone x }) s)

/-- The walks that have begun: die, generation and page. -/
def State.walking (s : State) : List (Nat × Nat × Nat) :=
  s.dies.flatMap fun (d, k) => (k.walks.filter (·.base.isSome)).map fun w => (d, w.gen, w.page)

/-- What the walks have read is discarded: they begin again (R413). -/
def State.restartWalks (s : State) : State :=
  (s.dies.map (·.1)).foldl (fun t d => t.modDie d fun k => { k with walks := k.walks.map fun w => { w with left := 4, base := none } }) s

/-- TLBINV_COMPLETION: the translations are removed; the completion follows when no access that may have used them is left. -/
def State.tlbinvStep (s : State) (ix : Nat) : State :=
  match s.tlbinvs[ix]? with
  | none => s
  | some o =>
    if !o.begun then
      { s.restartWalks with tlbinvs := s.tlbinvs.set ix { o with begun := true, waits := s.accesses.eraseDups, walks := s.walking } }.dropTlb o.va
    else if !o.walks.isEmpty || s.midAccess || s.accesses.any o.waits.contains then s
    else { s with tlbinvs := s.tlbinvs.eraseIdx ix }.complete o.org o.cmpl 0 0 o.cmpl.isSome

def execTlbinvCompletion (ix : Nat) (s : State) : Host.Outcome State Fault Refusal := .next (s.tlbinvStep ix)

end Sys2Proof.Machine
end

