-- ==== Sys2Proof/Machine/Streams.lean ====
section
/-! DEFINITION. Stream data on its way to the consumer and converter nodes (R95, R369–R371), and the scale-out stations:
Ecevo and UALink arrivals (R340, R380, R387–R389, R462). -/
namespace Sys2Proof.Machine

open Sys2Proof

/-! Streams. -/

/-- Bits of a byte string, lowest first (R70). -/
def bitList (bs : List Byte) : List Bool := bs.flatMap fun b => (List.range 8).map b.getLsbD
/-- The number that bits stand for. -/
def natOfBits (l : List Bool) : Nat := l.foldr (fun b n => (if b then 1 else 0) + 2 * n) 0
/-- The low `n` bits of a number. -/
def bitsOfNat (n v : Nat) : List Bool := (List.range n).map v.testBit

/-- Whole elements at a converter node converted (R95): `fuel` bounds their number. A Sprig block keeps the route's centre in a Sprig
destination of the other cut too (DESIGN CHOICE, log entry 30). -/
def Stream.convert (t : Stream) : Nat → Stream
  | 0 => t
  | fuel + 1 =>
    let n := fmtBits t.sfmt
    if n = 0 || t.inBits.length < n then t
    else
      let c := if t.centres.isEmpty then 0 else t.centres.getD (t.count / 64 % t.centres.length) 0
      let v := fmtDecode t.sfmt (if fmtSprig t.sfmt then c else 0) (natOfBits (t.inBits.take n))
      let r := (fmtEncode t.dfmt 0 (if fmtSprig t.dfmt then c else 0) v).1
      { t with inBits := t.inBits.drop n, outBits := t.outBits ++ bitsOfNat (fmtBits t.dfmt) r, count := t.count + 1 }.convert fuel

/-- Whole bytes behind the converter reach the consumer. -/
def Stream.deliver (t : Stream) : Stream :=
  let n := t.outBits.length / 8
  { t with here := t.here ++ (List.range n).map (fun i => BitVec.ofNat 8 (natOfBits ((t.outBits.drop (8 * i)).take 8)))
           outBits := t.outBits.drop (8 * n) }

/-- One flit of at most 32 bytes moves on (R370, R371). -/
def Stream.step (t : Stream) : Stream :=
  let bs := t.flight.take 32
  let t := { t with flight := t.flight.drop 32 }
  if t.conv then ({ t with inBits := t.inBits ++ bitList bs }.convert 512).deliver else { t with here := t.here ++ bs }

/-- STREAM_DATA (R370, R371). -/
def execStreamData (gen port branch : Nat) (s : State) : Host.Outcome State Fault Refusal :=
  .next { s with streams := s.streams.map fun t => if t.gen == gen && t.port == port && t.branch == branch then t.step else t }

/-! Stations. -/

def State.station (s : State) (i : Nat) : Station := SMap.get ({} : Station) s.stations i
def State.setStation (s : State) (i : Nat) (k : Station) : State := { s with stations := SMap.put ({} : Station) s.stations i k }

/-- The cluster whose router a station attaches to (R387). -/
def stationCl (i : Nat) : Nat := 16 * i + 7

/-- A packet for another package leaves again (R462). -/
def State.forward (s : State) (st : Nat) (p : Pkt) (d : Nat) : State :=
  match s.egress p d with
  | none => s.dropView (stationCl st)
  | some i => s.setStation i ((s.station i).push p)

/-- A packet is newer than the view (R380). -/
def State.newer (s : State) (p : Pkt) : Bool :=
  match p.vtag with
  | some v => decide (s.views.view < v)
  | none => false

/-- Packets of a station's input buffer enter until one is newer than the view (R340, R380). -/
def State.takeRx (s : State) (st : Nat) : List Pkt → State
  | [] => s.setStation st { s.station st with rx := [] }
  | p :: t =>
    match p.dpkg with
    | some d =>
      if d ≠ ownPkg then (s.forward st p d).takeRx st t
      else if s.newer p then s.setStation st { s.station st with rx := p :: t }
      else (s.accept p (stationCl st)).takeRx st t
    | none => s.takeRx st t

/-- The data, or the failure, of a hart's read of a peer waits for the hart (R389). -/
def State.peerAnswer (s : State) (st : Nat) (p : Pkt) (bs : Option (List Byte)) : State :=
  let k := s.station st
  match p.locs with
  | .peer _ a :: _ => s.setStation st { k with answers := snoc k.answers (p.org.core, a, bs) }
  | _ => s

/-- A UALink reply completes the oldest request of its station (R389). -/
def State.peerReply (s : State) (st : Nat) (bs : List Byte) : State :=
  let k := s.station st
  match k.pend with
  | [] => s
  | p :: t =>
    let s := s.setStation st { k with pend := t }
    match p.body with
    | .atomic r => s.atomicDone p r (.ok (natOfBytes (bs.take r.n)))
    | .ldfar locs got va sz blk fault w c =>
      if p.org.kind ≠ 0 then s.peerAnswer st p (some bs) else
      -- the reply fills the piece that was asked for, and the rest is read on
      let ps := pieces (clOf p.org.core) (fun (x : Nat × Loc) => x.2) locs
      let piece := (ps.find? fun g => match g with
        | (_, .peer t _) :: _ => t == st
        | _ => false).getD []
      let got := got ++ (List.zip (piece.map (·.1)) bs)
      let left := locs.filter fun x => !piece.contains x
      if left.isEmpty then s.ldfarDone p (ldfarWords got sz blk w) 0 c
      else s.sendPkt { p with body := .ldfar left got va sz blk fault w c }
    | _ => s

/-- The operator of a request for an atomic from outside (R177, R415): 0 FetchAdd, 1 Swap, 2 CAS. -/
def outsideOp (op : Nat) : AtOp :=
  match op with
  | 0 => .add
  | 1 => .swap
  | _ => .cas

/-- Operand sizes of such a request (R177). -/
def outsideSize (op n : Nat) : Bool := (if op = 2 then [4, 8, 16] else [4, 8]).contains n

/-- A request of an UALink peer completes here (R283, R389): its address is a physical address of HBM4 (DESIGN CHOICE, log entry 43); an
answer without data is a failure. -/
def State.peerRequest (s : State) (i : Input) : Option (Nat × Option (List Byte) × State) :=
  let part (t : State) (st : Nat) (got : List (Nat × Byte)) : State := t.setStation st { t.station st with readPart := got }
  let again (t : State) (j : Input) : State := { t with inputs := (.stationPacketArrival, j) :: t.inputs }
  let org (st : Nat) : Origin := { core := 16 * stationCl st, node := .chan (16 * stationCl st) 0, kind := 4, pkg := (s.station st).peer }
  match i with
  | .peerRead st a n =>
    some (match if a + n ≤ 2 ^ 40 then s.outsideRead a n (s.station st).readPart else none with
      | some (got, true, t) => (st, some (inOrder n got), part t st [])
      | some (got, false, t) => (st, none, again (part t st got) i)
      | none => (st, some [], part s st []))
  | .peerWrite st a bs =>
    some (match if a + bs.length ≤ 2 ^ 40 then s.outsideWrite (org st) a a bs else none with
      | some (r, left) =>
        let t := match r with
          | .ok _ t | .fail _ _ t | .wait t => t
        (match left with
          | none => (st, some [], t)
          | some (d, rest) => (st, none, again t (.peerWrite st (a + d) rest)))
      | none => (st, some [], s))
  | .peerAtomic st a n op b cmp =>
    let r : AtReq := { loc := .mem a, va := a, n := n, op := outsideOp op, b := b, cmp := cmp, sx := false, fault := 0, res := none
                       acq := false, rel := false }
    some (if 2 ^ 40 ≤ a || !outsideSize op n || a % n ≠ 0 then (st, some [], s)
      else match s.atomicDo r (org st) ((org st).pkt (16 * stationCl st) 0 4 (.atomic r)) with
        | .ok old t => (st, some (bytesOfNat n old), t)
        | .sent t | .fail _ t => (st, some [], t))
  | _ => none

/-- A CJOIN ends: with the view number, or refused with the error word of cause 0x16 (R270). -/
def State.endGrafts (s : State) (err : Nat) (via : Option Nat) : State :=
  let w := if err = 0 then BitVec.ofNat 64 s.views.view else errorWord err
  let mine (x : Nat × Cmpl × Nat × Origin) : Bool := via.isNone || via == some x.1
  (s.views.grafts.filter mine).foldl (fun t (_, c, i, org) => t.sendPkt (org.resp c.core c.tag (.complete c.fid [(i, w)] c.k err)))
    { s with views := { s.views with grafts := s.views.grafts.filter fun x => !mine x } }

/-- TIME is kept within 1 µs of the rank-0 package's (R377): one that is further off, behind or ahead, is set to it (DESIGN CHOICE,
log entry 49). -/
def State.syncTime (s : State) (t : Nat) : State := if s.time + 1000 < t || t + 1000 < s.time then { s with time := t } else s

/-- A heartbeat, TIME, or the refusal of a graft, from another member. -/
def State.viewControl (s : State) (m : ViewMsg) : State :=
  match m with
  | .heartbeat src =>
    { s with views := { s.views with lastBeat := SMap.put 0 s.views.lastBeat src s.time } }.after 800000 (.heartbeatTimeout src)
  | .graftRefused pkg via => if pkg = ownPkg then s.endGrafts 0x16 via else s
  | .time t => s.syncTime t
  | _ => s

/-- STATION_PACKET_ARRIVAL (R340, R377, R380, R388, R389). -/
def State.stationArrival (s : State) (i : Input) : State :=
  match i with
  | .pkt st p =>
    let k := s.station st
    if k.ualink || !k.up then s
    else if k.rx.isEmpty then s.takeRx st [p]
    else s.setStation st { k with rx := snoc k.rx p }
  | .bytes st bs => if (s.station st).ualink then s.peerReply st bs else s
  | .view m => s.viewControl m
  | i =>
    match s.peerRequest i with
    | some (st, some bs, t) => if (s.station st).ualink then t.setStation st { t.station st with out := snoc (t.station st).out bs } else s
    | some (st, none, t) => if (s.station st).ualink then t else s
    | none => s

def execStationPacketArrival (s : State) : Host.Outcome State Fault Refusal :=
  .next (let (i, t) := s.popInput .stationPacketArrival
    t.stationArrival i)

/-- BEAT_CRC_FAILURE (R388): the station resends the beat from its replay buffer, so that it is delivered once and in order:
nothing else changes. -/
def execBeatCrcFailure (s : State) : Host.Outcome State Fault Refusal := .next (s.popInput .beatCrcFailure).2

/-- UALINK_PEER_FAILURE (R389): outstanding requests complete with cause 0x10. -/
def State.peerFailed (s : State) (st : Nat) : State :=
  let k := s.station st
  k.pend.foldl (fun t p =>
    match p.body with
    | .atomic r => t.atomicDone p r (.error 0x10)
    | .ldfar _ _ _ _ _ _ w c => if p.org.kind ≠ 0 then t.peerAnswer st p none else t.ldfarDone p [(w, errorWord 0x10)] 0x10 c
    | .store _ va _ => t.record p.org 0x10 va
    | _ => t) (s.setStation st { k with pend := [] })

def execUalinkPeerFailure (s : State) : Host.Outcome State Fault Refusal :=
  .next (let (i, t) := s.popInput .ualinkPeerFailure
    match i with
    | .num st => if (t.station st).ualink then t.peerFailed st else t
    | _ => t)

end Sys2Proof.Machine
end

