-- ==== Sys2Proof/Machine/HostPort.lean ====
section
/-! DEFINITION. The host port: BAR registers and requests (R327, R415–R422), power and heat (R428–R430). -/
namespace Sys2Proof.Machine

open Sys2Proof

/-! BAR0 registers (R418, R420, R422, R428, R430). -/

/-- DEVSTAT. -/
def State.devstat (s : State) : Word :=
  let h := s.host
  BitVec.ofNat 64 (h.berr % 16 * 2 ^ 12 + (if h.tstop then 2 ^ 11 else 0) + s.opnow * 2 ^ 8 + h.stage % 16 * 2 ^ 4 + (if h.ready then 1 else 0))

/-- PWRNOW: the 1 ms average power in mW. -/
def HostIf.pwrnow (h : HostIf) : Nat := if h.power.isEmpty then 0 else 1000 * h.power.sum / h.power.length

/-- The status word of a port (R327). -/
def State.portStatus (s : State) (p : Nat) : Word :=
  let k := s.port p
  BitVec.ofNat 64 ((256 - k.tokens.length) + if (k.stream.map s.isFrozen).getD false then 2 ^ 9 else 0)

/-- The 8-byte register at an offset of BAR0; 0 where nothing is assigned. -/
def State.barReg (s : State) (off : Nat) : Word × State :=
  let h := s.host
  if off = 0 then (s.devstat, s)
  else if off = 0x10000 then (BitVec.ofNat 64 h.pcap, s)
  else if off = 0x10008 then (BitVec.ofNat 64 h.pwrnow, s)
  else if 0x10010 ≤ off ∧ off ≤ 0x10048 then ((BitVec.ofNat 16 (SMap.get 0 h.temps ((off - 0x10010) / 8))).signExtend 64, s)
  -- coolant temperatures and flow are the environment's
  else if off = 0x10050 then (BitVec.ofNat 64 (s.freeNat % 2 ^ 48), s.fresh)
  else if off = 0x10058 then (BitVec.ofNat 64 h.gates, s)
  else if 0x20000 ≤ off ∧ off < 0x20100 then
    (BitVec.ofNat 64 ((SMap.get 0 h.hmw ((off - 0x20000) / 16)).toNat / 2 ^ (8 * (off % 16))), s)
  else if off = 0x30000 then (h.evbase, s)
  else if off = 0x30008 then (BitVec.ofNat 64 h.evlsz, s)
  else if off = 0x30010 then (BitVec.ofNat 64 h.evhead, s)
  else if off = 0x30018 then (BitVec.ofNat 64 h.evtail, s)
  else if off = 0x30020 then (BitVec.ofNat 64 h.evlost, s)
  else if 0x40000 ≤ off ∧ off < 0x50000 then (BitVec.ofNat 64 (loadN h.msixTable (off - 0x40000) 8), s)
  else if 0x100000 ≤ off ∧ off < 0x140000 then
    let p := (off - 0x100000) / 0x1000
    (if off % 0x1000 = 0x800 then s.portStatus p else if off % 0x1000 = 0x808 then (s.port p).proot else 0, s)
  else (0, s)

/-- A host-memory window as a write leaves it (R420): reserved bits read 0, and a size outside 12 to 44 leaves V = 0. -/
def hmwOf (v : Nat) : BitVec 128 :=
  let lsz := bits v 117 112
  let ok := decide (12 ≤ lsz) && decide (lsz ≤ 44)
  BitVec.ofNat 128 ((if ok && v.testBit 127 then 2 ^ 127 else 0) + lsz * 2 ^ 112 + bits v 63 12 * 2 ^ 12)

/-- PCAP as a write leaves it (R428). -/
def pcapOf (v : Nat) : Nat := max 1000 (min 3200 (v % 2 ^ 16))

/-- An 8-byte register of BAR0 written; elsewhere nothing happens. -/
def State.setBar (s : State) (off : Nat) (v : Word) : State :=
  let h := s.host
  if off = 0x10000 then { s with host := { h with pcap := pcapOf v.toNat } }
  else if 0x20000 ≤ off ∧ off < 0x20100 then
    let w := (off - 0x20000) / 16
    let old := (SMap.get 0 h.hmw w).toNat
    let new := if off % 16 = 0 then old / 2 ^ 64 * 2 ^ 64 + v.toNat else v.toNat * 2 ^ 64 + old % 2 ^ 64
    { s with host := { h with hmw := SMap.put 0 h.hmw w (hmwOf new) } }
  else if off = 0x30000 then { s with host := { h with evbase := BitVec.ofNat 64 (v.toNat / 4096 * 4096) } }
  else if off = 0x30008 then { s with host := { h with evlsz := max 6 (min 16 v.toNat) } }
  else if off = 0x30018 then { s with host := { h with evtail := v.toNat } }
  else if 0x40000 ≤ off ∧ off < 0x50000 then { s with host := { h with msixTable := storeN h.msixTable (off - 0x40000) 8 v.toNat } }
  else if 0x100000 ≤ off ∧ off < 0x140000 ∧ off % 0x1000 = 0x808 then
    s.modPort ((off - 0x100000) / 0x1000) fun k =>
      { k with proot := BitVec.ofNat 64 (wbits v 63 63 * 2 ^ 63 + wbits v 51 14 * 2 ^ 14) }
  else s

/-- Bytes of BAR0. -/
def State.barRead (s : State) (off : Nat) : (n : Nat) → List Byte × State
  | 0 => ([], s)
  | n + 1 =>
    let (v, t) := s.barReg (off / 8 * 8)
    let (bs, t) := t.barRead (off + 1) n
    (byteOf v.toNat (off % 8) :: bs, t)

/-- Bytes written to BAR0, one register after another. -/
def State.barWrite (s : State) (off : Nat) : (fuel : Nat) → List Byte → State
  | 0, _ => s
  | _, [] => s
  | fuel + 1, bs =>
    let r := off / 8 * 8
    let n := r + 8 - off
    let v := (List.zip (List.range n) bs).foldl (fun v (i, b) => withByte v (off - r + i) b) (s.barReg r).1.toNat
    (s.setBar r (BitVec.ofNat 64 v)).barWrite (r + 8) fuel (bs.drop n)

/-! Configuration space (R10, R11, R415, R421). -/

/-- A 4-byte word of the configuration space: Vendor, Device and Revision ID at their places in a PCI Express header, and the capability
list from offset 0x100 (log entry 44). What else the header holds the manual does not say. -/
def State.cfgWord (s : State) (off : Nat) : Nat × State :=
  let fs := (List.range 7).filter s.caps.testBit
  let j := (off - 0x100) / 12
  if off = 0 then (0x51201F3D, s)
  else if off = 8 then (s.freeNat % 2 ^ 24 * 2 ^ 8 + 0x01, s.fresh)
  else if off < 0x100 then (s.freeNat % 2 ^ 32, s.fresh)
  else
    (match fs[j]? with
      | none => 0
      | some f =>
        match (off - 0x100) % 12 with
        | 0 => (if j + 1 < fs.length then off + 12 else 0) * 2 ^ 20 + 2 ^ 16 + 0x0023
        | 4 => 0x00C * 2 ^ 20 + 0x1F3D
        | _ => (if f = 2 then 32 else 0) * 2 ^ 16 + (f + 1), s)

/-- Bytes of the configuration space. -/
def State.cfgRead (s : State) (off : Nat) : (n : Nat) → List Byte × State
  | 0 => ([], s)
  | n + 1 =>
    let (v, t) := s.cfgWord (off / 4 * 4)
    let (bs, t) := t.cfgRead (off + 1) n
    (byteOf v (off % 4) :: bs, t)

/-! Requests of the host (R415–R417). -/

def hostOrg : Origin := { core := 0, node := .chan 0 0, kind := 3 }

/-- The device address of an offset of BAR2 or BAR4 (R417, R419). -/
def barPa (bar off : Nat) : Nat := if bar = 2 then off else 0xF * 2 ^ 48 + off

/-- A posted write at its place (R327, R416, R418). -/
def State.hostWrite (s : State) (bar off : Nat) (bs : List Byte) : State :=
  if bar = 0 then
    if 0x100000 ≤ off ∧ off < 0x140000 ∧ off % 0x1000 < 64 then
      let p := (off - 0x100000) / 0x1000
      if off % 0x1000 = 0 ∧ bs.length = 64 then s.tokenIn p (wordsOfBytes 8 bs) else s.discard p
    else s.barWrite off bs.length bs
  else
    match s.outsideWrite hostOrg off (barPa bar off) bs with
    | none => s
    | some (r, left) =>
      let t := match r with
        | .ok _ t => t
        | .fail c _ t => t.record hostOrg c off
        | .wait t => t
      match left with
      | none => t
      | some (d, rest) => { t with inputs := (.hostPostedWrite, .hwrite bar (off + d) rest) :: t.inputs }

/-- HOST_POSTED_WRITE (R416). -/
def execHostPostedWrite (s : State) : Host.Outcome State Fault Refusal :=
  .next (match s.popInput .hostPostedWrite with
    | (.hwrite bar off bs, t) => t.hostWrite bar off bs
    | (_, t) => t)

/-- HOST_READ (R416): a read that fails is answered without data. -/
def execHostRead (s : State) : Host.Outcome State Fault Refusal :=
  .next (match s.popInput .hostRead with
    | (.hread bar off n tag, t) =>
      if bar = 0 then
        let (bs, t) := t.barRead off n
        t.answerHost tag bs
      else if bar = 8 then
        -- until stage 2 is complete the answer is Configuration Request Retry Status, without data (R426)
        if t.host.stage < 2 then t.answerHost tag []
        else
          let (bs, t) := t.cfgRead off n
          t.answerHost tag bs
      else
        (match t.outsideRead (barPa bar off) n t.host.readPart with
          | some (got, true, t) => { t with host := { t.host with readPart := [] } }.answerHost tag (inOrder n got)
          | some (got, false, t) =>
            { t with host := { t.host with readPart := got }, inputs := (.hostRead, .hread bar off n tag) :: t.inputs }
          | none => { t with host := { t.host with readPart := [] } }.answerHost tag [])
    | (_, t) => t)

/-- HOST_ATOMICOP (R177, R415): performed at the home slice of its address in BAR2; its old value is the answer. -/
def execHostAtomicop (s : State) : Host.Outcome State Fault Refusal :=
  .next (match s.popInput .hostAtomicop with
    | (.hatomic off n op b cmp tag, t) =>
      let r : AtReq := { loc := .mem off, va := off, n := n, op := outsideOp op, b := b, cmp := cmp, sx := false, fault := 0, res := none, acq := false, rel := false }
      if 2 ^ 40 ≤ off || !outsideSize op n || off % n ≠ 0 then t.answerHost tag []
      else
        (match t.atomicDo r hostOrg (hostOrg.pkt 0 0 4 (.atomic r)) with
          | .ok old t => t.answerHost tag (bytesOfNat n old)
          | .sent t => t
          | .fail _ t => t.answerHost tag [])
    | (_, t) => t)

/-! Power and heat (R428, R429). -/

/-- The hottest die, in 1/16 °C; die temperatures are signed. -/
def HostIf.hottest (h : HostIf) : Nat := (h.temps.map fun (_, v) => if v < 2 ^ 15 then v else 0).foldl max 0

/-- POWER_SAMPLE: the sample, its gating, and every 100 ms the power-limit event. -/
def State.sample (s : State) (watts : Nat) (hot temps : List Nat) : State :=
  let h := s.host
  let power := (watts :: h.power).take 100
  let ts := temps.mapIdx (fun i v => (i, v)) |>.foldl (fun m (i, v) => SMap.put 0 m i (v % 2 ^ 16)) h.temps
  let h : HostIf := { h with power := power, temps := ts }
  let gate := !hot.isEmpty || decide (1000 * h.pcap < h.pwrnow) || decide (1600 ≤ h.hottest)
  let gates := if gate then h.gates + 10000 * coreMHz s.opclock / 2000 else h.gates
  let g := h.gatedSamples + if gate then 1 else 0
  if h.samples + 1 < 10000 then { s with host := { h with gates := gates, samples := h.samples + 1, gatedSamples := g } }
  else
    let s := { s with host := { h with gates := gates, samples := 0, gatedSamples := 0 } }
    if 1000 < g then s.hostEvent 5 [g] else s

def execPowerSample (s : State) : Host.Outcome State Fault Refusal :=
  .next (match s.popInput .powerSample with
    | (.power w hot ts, t) => t.sample w hot ts
    | (_, t) => t)

/-- A die has reached 110 °C, no thermal stop is in force, and no step is in progress. -/
def State.thermalDue (s : State) : Bool := !s.host.tstop && decide (1760 ≤ s.host.hottest) && s.ops.isEmpty

/-- THERMAL_STOP (R429): every partition stops. -/
def execThermalStop (s : State) : Host.Outcome State Fault Refusal :=
  .next (if s.thermalDue then
      let mine := (clustersOf 0 511).filter fun cl => !(s.cluster cl).stopped
      let t := s.stopSet 0 511
      { t with host := { t.host with tstop := true, tstopped := mine } }.hostEvent 4 [t.host.hottest]
    else s)

/-- THERMAL_POWER_OFF (R429): a die at 120 °C removes power, and a cold reset follows. -/
def execThermalPowerOff (s : State) : Host.Outcome State Fault Refusal :=
  .next (if 1920 ≤ s.host.hottest then
      let off (t : State) (d : Nat) : State := t.modDie d fun k => { k with poweredOff := true }
      ((List.range 8).foldl off { s with timed := [] }).after 0 .coldReset
    else s)

end Sys2Proof.Machine
end

