-- ==== Sys2Proof/Machine/Reset.lean ====
section
/-! DEFINITION. Resets and bring-up (R426, R427), measured boot and attestation (R423–R425), and the management path (R431). -/
namespace Sys2Proof.Machine

open Sys2Proof

/-! Resets. -/

/-- What the environment holds for the package stays: inputs on their way, host memory, the links; so do the parts that are fixed, and the
free-value counter. HBM4 keeps nothing: stage 5 writes it to zero, and what it held before is not readable meanwhile (R427). -/
def State.fresh0 (s : State) (host : HostIf) : State :=
  { State.reset with
    host := { host with hmem := s.host.hmem, replies := s.host.replies, msix := s.host.msix, i3cOut := s.host.i3cOut }
    caps := s.caps, prune := s.prune.filter (!·.field), inputs := s.inputs, freeCtr := s.freeCtr
    stations := s.stations.foldl (fun m (i, k) => SMap.put {} m i { ualink := k.ualink, peer := k.peer, up := k.up }) [] }

/-- COLD_RESET (R423, R426): everything as after power-on; bring-up starts. -/
def State.coldReset (s : State) : State := s.fresh0 {}

/-- Package reset (R42, R427): Hitripen state, MR0–MR7, the forme-key slots and the prune maps survive; stages 5 and 6 follow,
and before them what bring-up has not reached. -/
def State.packageReset (s : State) : State :=
  let h := s.host
  s.fresh0 { stage := min 4 h.stage, berr := h.berr, mr := h.mr, fkeys := h.fkeys, policy := h.policy, i3c := h.i3c }

/-- A reset that was asked for; its input, if any, is taken. -/
def execColdReset (s : State) : Host.Outcome State Fault Refusal := .next (s.popInput .coldReset).2.coldReset
def execFunctionLevelReset (s : State) : Host.Outcome State Fault Refusal := .next (s.popInput .functionLevelReset).2.packageReset
def execHotReset (s : State) : Host.Outcome State Fault Refusal := .next (s.popInput .hotReset).2.packageReset

/-! Measurement (R423). -/

/-- MRi; zero when never extended. -/
def HostIf.mrOf (h : HostIf) (i : Nat) : List Byte :=
  let v := SMap.get [] h.mr i
  if v.isEmpty then List.replicate 64 0 else v

/-- The digest of a byte string (R423). -/
def digest (bs : List Byte) : List Byte := shake256 64 bs

/-- Register `i` extended with a digest. -/
def HostIf.extend (h : HostIf) (i : Nat) (d : List Byte) : HostIf :=
  { h with mr := SMap.put [] h.mr i (digest (h.mrOf i ++ d)) }

/-! Bring-up (R426). -/

/-- Bring-up has a stage to go. -/
def State.booting (s : State) : Bool := decide (s.host.stage < 6) && s.host.berr == 0

/-- A core's memories written to zero with ECC (R426). -/
def Core.zeroed (k : Core) : Core :=
  { k with fsram := [], fpoison := [], fbad := [], plates := [], pbad := [], l1 := [], l1bad := [], rbOwner := none, rb := [] }

/-- A cluster's scratchpad written to zero with ECC. -/
def Cluster.zeroed (g : Cluster) : Cluster := { g with spad := [], spoison := [], sbad := [], wo := [] }

/-- Every SRAM written to zero with ECC (R426). -/
def State.zeroed (s : State) : State :=
  (s.cores.map (·.1)).foldl (fun t c => t.modCore c Core.zeroed)
    ((s.clusters.map (·.1)).foldl (fun t c => t.modCluster c Cluster.zeroed) { s with llc := [] })

/-- The work of a stage. -/
def State.bootStage (s : State) (n : Nat) : State :=
  let h := { s.host with stage := n }
  match n with
  | 1 => { s with host := h.extend 0 (Config.bootDigest 0) }
  | 3 => { s with host := (h.extend 1 (Config.bootDigest 1)).extend 2 (Config.bootDigest 2) }
  | 4 => { s with host := h.extend 3 (Config.bootDigest 3), opnow := 1, opclock := 1 }
  | 5 => { s.zeroed with host := h, hbm := [], hwo := [], hpoison := [], hbad := [] }
  | 6 => { s with host := { h with ready := true } }
  | _ => { s with host := h }

/-- BRING_UP_STAGE: the next stage completes; an image that fails its check stops bring-up. -/
def execBringUpStage (s : State) : Host.Outcome State Fault Refusal :=
  .next (let n := s.host.stage + 1
    if !s.booting then s
    else if (n = 1 ∨ n = 3) ∧ !Config.bootOk n then { s with host := { s.host with berr := n } }
    else s.bootStage n)

/-! The management path (R431). -/

/-- A response on I3C. -/
def State.respond (s : State) (bs : List Byte) : State := { s with host := { s.host with i3cOut := snoc s.host.i3cOut bs } }
/-- A status on I3C. -/
def State.status (s : State) (refused : Bool) : State := s.respond [Config.i3cStatus refused]

/-- A command that only changes the host side, and its status. -/
def State.manage (s : State) (ok : Bool) (f : HostIf → HostIf) : State :=
  if ok then { s with host := f s.host }.status false else s.status true

/-- What GET_ID answers (R431): the identity public key and its certificate chain. -/
def identity : List Byte := Ed448.publicKey Config.identitySecret ++ Config.certificates

/-- GET_ID. -/
def execGetId (s : State) : Host.Outcome State Fault Refusal := .next ((s.popInput .getId).2.respond identity)

/-- GET_MEAS. -/
def execGetMeas (s : State) : Host.Outcome State Fault Refusal :=
  .next (match s.popInput .getMeas with
    | (.num i, t) => if i < 8 then t.respond (t.host.mrOf i) else t.status true
    | (_, t) => t)

/-- EXTEND (R423): MR4 to MR7 only. -/
def execExtend (s : State) : Host.Outcome State Fault Refusal :=
  .next (match s.popInput .extend with
    | (.bytes i d, t) => t.manage (decide (4 ≤ i) && decide (i ≤ 7) && d.length == 64) fun h => h.extend i d
    | (_, t) => t)

/-- The forme-key slots as bytes; an empty slot is zero. -/
def HostIf.keyBytes (h : HostIf) : List Byte := (List.range 8).flatMap fun i => (SMap.get none h.fkeys i).getD (List.replicate 57 0)

/-- An attestation report (R425). -/
def State.report425 (s : State) (nonce : List Byte) : List Byte :=
  let body := bytesOfNat 8 0x154584C53 ++ bytesOfNat 8 (0x5120 + 0x01 * 2 ^ 16) ++ nonce
    ++ (List.range 8).flatMap s.host.mrOf ++ bytesOfNat 8 s.time ++ digest s.host.keyBytes ++ bytesOfNat 8 Config.firmwareVersion
  body ++ Ed448.sign Config.identitySecret body

/-- ATTEST (R425). -/
def execAttest (s : State) : Host.Outcome State Fault Refusal :=
  .next (match s.popInput .attest with
    | (.bytes _ nonce, t) => if nonce.length = 64 then t.respond (t.report425 nonce) else t.status true
    | (_, t) => t)

/-- SET_FKEY (R424): refused once the slots are locked. -/
def execSetFkey (s : State) : Host.Outcome State Fault Refusal :=
  .next (match s.popInput .setFkey with
    | (.bytes i key, t) =>
      t.manage (!t.host.fklock && decide (i < 8) && key.length == 57) fun h => { h with fkeys := SMap.put none h.fkeys i (some key) }
    | (_, t) => t)

/-- SET_POLICY (R424). -/
def execSetPolicy (s : State) : Host.Outcome State Fault Refusal :=
  .next (match s.popInput .setPolicy with
    | (.num n, t) => t.manage true fun h => { h with policy := n % 2 == 1 }
    | (_, t) => t)

/-- GET_TELEM: the registers of R430, then DEVSTAT. -/
def execGetTelem (s : State) : Host.Outcome State Fault Refusal :=
  .next (let t := (s.popInput .getTelem).2
    let (bs, t) := t.barRead 0x10008 88
    t.respond (bs ++ bytesOfNat 8 t.devstat.toNat))

/-- SET_PCAP (R428). -/
def execSetPcap (s : State) : Host.Outcome State Fault Refusal :=
  .next (match s.popInput .setPcap with
    | (.num w, t) => t.manage true fun h => { h with pcap := pcapOf w }
    | (_, t) => t)

/-- CLR_TSTOP (R429): refused while a die is at or above 95 °C; what the thermal stop had stopped runs again. -/
def execClrTstop (s : State) : Host.Outcome State Fault Refusal :=
  .next (let t := (s.popInput .clrTstop).2
    if 1520 ≤ t.host.hottest then t.status true
    else
      let u := t.host.tstopped.foldl State.resumeCl t
      { u with host := { u.host with tstop := false, tstopped := [] } }.status false)

/-- RESET: status, then a cold (0) or package (1) reset. -/
def execReset (s : State) : Host.Outcome State Fault Refusal :=
  .next (match s.popInput .reset with
    | (.num 0, t) => (t.status false).coldReset
    | (.num 1, t) => (t.status false).packageReset
    | (_, t) => t.status true)

/-- ENTDAA (R431): the controller takes a dynamic address. -/
def execEntdaa (s : State) : Host.Outcome State Fault Refusal :=
  .next (match s.popInput .entdaa with
    | (.num a, t) => { t with host := { t.host with i3c := a } }
    | (_, t) => t)

end Sys2Proof.Machine
end

