-- ==== Sys2Proof/Machine/Rounds.lean ====
section
/-! DEFINITION. Plate rounds (R277, R342–R345): ROUND tokens passing the cores, and the prefetch of plates. -/
namespace Sys2Proof.Machine

open Sys2Proof

/-- A plate becomes active, and the one it retires draining (R344). -/
def State.activate (s : State) (core p : Nat) : State :=
  let k := s.core core
  let x := k.plate p
  let k := k.setPlate p { x with st := .active, retires := none, swap := false }
  let k := match x.retires with
    | some q => if (k.plate q).st == .active && q != p then k.setPlate q { k.plate q with st := .draining } else k
    | none => k
  (s.setCore core k).recycle core

/-- The plate that holds, or is to hold, the entry of a round. -/
def Core.plateOf (k : Core) (c : Nat) : Option Nat :=
  (List.range 4).find? fun p => (k.plate p).round == c && ((k.plate p).st == .prefetching || (k.plate p).st == .prefetched)

/-- The token of a round passes a core, which counts it and swaps plates by its schedule (R344); an entry that the token does not name is
no longer above the count, and is never filled (R343). -/
def State.roundAt (s : State) (p : Pkt) (plate : Nat) : State :=
  let core := p.dst
  let k := s.core core
  let c := k.rounds + 1
  let s := s.setCore core { k with rounds := c }
  let wrong (s : State) : State := s.record { p.org with tag := p.tag, gen := p.gen } 0x01 plate
  match k.sched.find? (·.round == c) with
  | some e =>
    if e.plate ≠ plate then wrong (s.modCore core fun k => { k with sched := k.sched.filter (·.round != c) })
    else s.modCore core fun k => { k with sched := k.sched.map fun e => if e.round = c then { e with passed := true } else e }
  | none =>
    match k.plateOf c with
    | some q =>
      if q ≠ plate then wrong s
      else if (k.plate q).st == .prefetched then s.activate core q
      else s.modCore core fun k => k.setPlate q { k.plate q with swap := true }
    | none => s

/-- A ROUND operation whose token has passed core `d`. -/
def passRound (p : Pkt) (plate : Nat) : List RoundOp → List RoundOp
  | [] => []
  | r :: t =>
    if r.gen = p.gen ∧ r.plate = plate ∧ r.org = p.org ∧ p.dst ∈ r.left then { r with left := r.left.filter (· != p.dst) } :: t
    else r :: passRound p plate t

/-- ROUND operations that have passed every core complete (R277); the instance's guard logs are due (R303). -/
def State.endRounds (s : State) : State :=
  let (done, left) := s.rounds.partition fun r => r.left.isEmpty
  done.foldl (fun t r =>
    (t.clusters.map (·.1)).foldl (fun u cl => u.guardDue r.gen cl) (t.complete r.org r.cmpl 0 0 r.cmpl.isSome)) { s with rounds := left }

/-- ROUND_TOKEN (R277, R344). -/
def execRoundToken (p : Pkt) (s : State) : Host.Outcome State Fault Refusal :=
  .next (match p.body with
    | .round plate =>
      if s.stale p then s.dropStale p
      else
        let s := s.roundAt p plate
        { s with rounds := passRound p plate s.rounds }.endRounds
    | _ => s)

/-- PLATE_PREFETCH (R343): the fill of the core's next scheduled plate begins once it is invalid; a plate being filled becomes
prefetched, or active when its token has passed. -/
def State.prefetch (s : State) (core p : Nat) : State :=
  let k := s.core core
  let x := k.plate p
  if x.st == .prefetching then
    let s := s.setCore core (k.setPlate p { x with st := .prefetched })
    if x.swap then s.activate core p else s
  else if x.st == .invalid && !((List.range 4).any fun q => (k.plate q).st == .prefetching) then
    match k.sched with
    | e :: t =>
      if e.plate = p then
        s.setCore core ({ k with sched := t, pbad := SMap.put false k.pbad p false }.setPlate p
          { st := .prefetching, bytes := storeBytes [] 0 e.image, round := e.round, retires := e.retire, swap := e.passed })
      else s
    | [] => s
  else s

def execPlatePrefetch (core plate : Nat) (s : State) : Host.Outcome State Fault Refusal := .next (s.prefetch core plate)

end Sys2Proof.Machine
end

