-- ==== Sys2Proof/Machine/VecMove.lean ====
section
/-! DEFINITION. Vector moves and permutes (R195), reductions, scans and dot products (R196–R198) and heap sifts
(R199–R201). -/
namespace Sys2Proof.Machine

open Sys2Proof

/-! Moves and permutes (R195). -/

/-- The index operand J (R183). -/
def jIndex (o : Ops) (s : State) : Nat := if opf o / 128 = 1 then o.extBits 31 16 else (s.rg o.b.toNat).toNat

/-- A move of element patterns. -/
def vmove (o : Ops) (s : State) (f : State → VTy → Nat → Nat) : Host.Outcome State Fault Refusal :=
  vmap1 o s fun s t i => noFlags (f s t i)

def execVmov (o : Ops) (s : State) : Host.Outcome State Fault Refusal := vmove o s fun s t i => vsrcA o s t i

/-- VSEL: every element below the count is written. -/
def execVsel (o : Ops) (s : State) : Host.Outcome State Fault Refusal :=
  vrun o s fun s =>
    let t := vty o
    let n := vcount o s t.lanes
    let old := s.rv o.d.toNat
    .ok (s.wv o.d.toNat (vreg t.w ((List.range t.lanes).map fun i =>
      if i < n then (if (vmask o s).getLsbD (t.grp * i) then vsrcA o s t i else elem (s.rv o.b.toNat) t.w i)
      else elem old t.w i)))

/-- VBCST. -/
def execVbcst (o : Ops) (s : State) : Host.Outcome State Fault Refusal :=
  vmove o s fun s t _ =>
    if opf o % 2 = 1 then (if jIndex o s < t.lanes then elem (s.rv o.a.toNat) t.w (jIndex o s) else 0)
    else (s.rg o.a.toNat).toNat % 2 ^ t.w

def execVperm (o : Ops) (s : State) : Host.Outcome State Fault Refusal :=
  vmove o s fun s t i =>
    let x := elem (s.rv o.b.toNat) t.w i
    if x < t.lanes then vsrcA o s t x else if x < 2 * t.lanes then vsrcC o s t (x - t.lanes) else 0

/-- VSLIDE. -/
def execVslide (o : Ops) (s : State) : Host.Outcome State Fault Refusal :=
  vmove o s fun s t i =>
    let j := jIndex o s
    let l := t.lanes
    let c (k : Nat) : Nat := if opf o / 2 % 2 = 1 then vsrcC o s t k else 0
    if opf o % 2 = 0 then (if i + j < l then vsrcA o s t (i + j) else if i + j < 2 * l then c (i + j - l) else 0)
    else (if j ≤ i then vsrcA o s t (i - j) else if j ≤ l + i then c (l + i - j) else 0)

/-- VCMPR: the remaining positions follow R184. -/
def execVcmpr (o : Ops) (s : State) : Host.Outcome State Fault Refusal :=
  vrun o s fun s =>
    let t := vty o
    let act := vactives o s t
    let old := s.rv o.d.toNat
    .ok (s.wv o.d.toNat (vreg t.w ((List.range t.lanes).map fun i =>
      match act[i]? with
      | some k => vsrcA o s t k
      | none => if zi o then 0 else elem old t.w i)))

/-- VEXPD: the k-th active element receives A[k]. -/
def execVexpd (o : Ops) (s : State) : Host.Outcome State Fault Refusal :=
  vmove o s fun s t i => vsrcA o s t ((vactives o s t).filter (· < i)).length

/-- VINS. -/
def execVins (o : Ops) (s : State) : Host.Outcome State Fault Refusal :=
  vrun o s fun s =>
    let t := vty o
    let j := jIndex o s
    let old := s.rv o.d.toNat
    if t.lanes ≤ j then .ok s
    else .ok (s.wv o.d.toNat (vreg t.w ((List.range t.lanes).map fun i =>
      if i = j then (s.rg o.a.toNat).toNat else elem old t.w i)))

/-- VGET. -/
def execVget (o : Ops) (s : State) : Host.Outcome State Fault Refusal :=
  vrun o s fun s =>
    let t := vty o
    let j := jIndex o s
    let x := if j < t.lanes then elem (s.rv o.a.toNat) t.w j else 0
    .ok (s.wg o.d.toNat (BitVec.ofInt 64 (t.int x)))

/-- VIDX, and VIDX.m to a mask register. -/
def execVidx (o : Ops) (s : State) : Host.Outcome State Fault Refusal :=
  vrun o s fun s =>
    let t := vty o
    let a := (s.rg o.a.toNat).toNat
    if opf o = 1 then .ok (s.wm o.d.toNat (maskOf fun j => decide (j / t.grp < a)))
    else .ok (vput o s t fun i => noFlags ((a + i * (s.rg o.b.toNat).toNat) % 2 ^ t.w))

/-! Reductions, scans and dot products. -/

/-- One level of the pairwise tree: every sum is rounded with RoundNE and not flushed (R90). -/
def treeLevel : List Val → List Val × FFlags
  | a :: b :: t =>
    let (r, f) := f32.arith (a.add b)
    let (rs, g) := treeLevel t
    (f32.decode r :: rs, f.or g)
  | l => (l, {})

/-- The tree over all positions. -/
def sumTree : (fuel : Nat) → List Val → Val × FFlags
  | 0, l => (l.headD .zero, {})
  | n + 1, l =>
    let (l, f) := treeLevel l
    let (v, g) := sumTree n l
    (v, f.or g)

/-- The F32 pattern of a value that is one. -/
def f32Code (v : Val) : Nat := (f32.encode 0 true v).1

/-- The lesser or greater of two integers. -/
def pick2 (isMin : Bool) (a b : Int) : Int := if isMin then min a b else max a b

/-- VRED (R196). The F32 result follows FTZ whatever the element type (R83). -/
def execVred (o : Ops) (s : State) : Host.Outcome State Fault Refusal :=
  vrun o s fun s =>
    let t := vty o
    let act := vactives o s t
    let op := opf o % 8
    match t.flt with
    | some f =>
      let z := s.ftz && f == f32
      let val (i : Nat) : Val := f.decode (f.flushIn z (vsrcA o s t i))
      if op = 0 then
        let (v, fl) := sumTree 7 ((List.range t.lanes).map fun i => if act.contains i then val i else .zero)
        .ok (f32Out o s (f32.flushOut s.ftz (f32Code v, fl)))
      else
        -- elements widen exactly; a NaN stays one, a signalling one sets NV
        let wide (i : Nat) : Nat := f32Code (match val i with
          | .nan _ => .nan false
          | v => v)
        let r := act.foldl (fun a i => (f32.minMax (op == 1) false a (wide i)).1) (f32.infCode (op == 2))
        .ok (f32Out o s (f32.flushOut s.ftz (r, { nv := act.any fun i => (val i).isSig })))
    | none =>
      let vs := act.map fun i => t.int (vsrcA o s t i)
      let r : Int := match op with
        | 0 => vs.foldl (· + ·) 0
        | 1 => vs.foldl (pick2 true) t.hi
        | 2 => vs.foldl (pick2 false) t.lo
        | 3 => (vs.foldl (fun a v => a &&& BitVec.ofInt 64 v) (BitVec.allOnes 64)).toInt
        | 4 => (vs.foldl (fun a v => a ||| BitVec.ofInt 64 v) (0 : Word)).toInt
        | _ => (vs.foldl (fun a v => a ^^^ BitVec.ofInt 64 v) (0 : Word)).toInt
      .ok (s.wg o.d.toNat (BitVec.ofInt 64 r))

/-- One step of R91 at distance `d`, on values with the flags of their own sums. -/
def scanStep (f : BinFmt) (d : Nat) (y : List (Nat × FFlags)) : List (Nat × FFlags) :=
  y.mapIdx fun i b =>
    if i < d then b
    else
      let (r, fl) := fpAdd f false (y.getD (i - d) (0, {})).1 b.1
      (r, b.2.or fl)

/-- The scan of R91: a position's value, and the flags raised at that position. -/
def scanAdd (f : BinFmt) : (fuel d : Nat) → List (Nat × FFlags) → List (Nat × FFlags)
  | 0, _, y => y
  | n + 1, d, y => if y.length ≤ d then y else scanAdd f n (2 * d) (scanStep f d y)

/-- Running values of a list. -/
def running {α : Type} (f : α → α → α) : α → List α → List α
  | _, [] => []
  | a, x :: t => f a x :: running f (f a x) t

/-- The destination of a scan (R197): masked elements follow R184, and tail elements do not change. -/
def scanPut (o : Ops) (s : State) (t : VTy) (f : Nat → Nat) : State :=
  let old := s.rv o.d.toNat
  s.wv o.d.toNat (vreg t.w ((List.range t.lanes).map fun i =>
    if vactive o s t i then f i else if zi o && decide (i < vcount o s t.lanes) then 0 else elem old t.w i))

/-- VSCAN (R197). -/
def execVscan (o : Ops) (s : State) : Host.Outcome State Fault Refusal :=
  vrun o s fun s =>
    let t := vty o
    let op := opf o % 8
    let ix := List.range t.lanes
    match t.flt with
    | some f =>
      let z := s.ftz && f == f32
      let src (i : Nat) : Nat := f.flushIn z (vsrcA o s t i)
      if op = 0 then
        -- a NaN enters as the canonical one (R84); the running values follow FTZ (R83), and only active positions flag (R184)
        let enter (i : Nat) : Nat × FFlags :=
          if vactive o s t i then (match f.decode (src i) with
            | .nan sg => (f.nanCode, { nv := sg })
            | _ => (src i, {}))
          else (0, {})
        let y := (scanAdd f 7 1 ((List.range (vcount o s t.lanes)).map enter)).map (f.flushOut z)
        .ok ((scanPut o s t fun i => (y.getD i (0, {})).1).flag
          (orFlags (y.mapIdx fun i r => if vactive o s t i then r.2 else {})))
      else
        let idv := f.infCode (op == 2)
        let y := running (fun a b => (f.minMax (op == 1) false a b).1) idv (ix.map fun i => if vactive o s t i then src i else idv)
        let nv := ix.any fun i => vactive o s t i && (f.decode (src i)).isSig
        .ok ((scanPut o s t fun i => y.getD i 0).flag { nv := nv })
    | none =>
      let idv : Int := match op with
        | 0 => 0
        | 1 => t.hi
        | _ => t.lo
      let vs := ix.map fun i => if vactive o s t i then t.int (vsrcA o s t i) else idv
      let y := running (match op with
        | 0 => (· + ·)
        | 1 => pick2 true
        | _ => pick2 false) idv vs
      .ok (scanPut o s t fun i => ofSigned t.w (y.getD i 0))

/-- VDOT (R198): FTZ acts on F32 inputs, the old g[D] of `.acc` among them, and on no sum. -/
def execVdot (o : Ops) (s : State) : Host.Outcome State Fault Refusal :=
  vrun o s fun s =>
    let t := vty o
    let old := s.rg o.d.toNat
    let a (i : Nat) : Nat := vsrcA o s t i
    let b (i : Nat) : Nat := elem (s.rv o.b.toNat) t.w i
    match t.flt with
    | some f =>
      let z := s.ftz && f == f32
      let ps := (List.range t.lanes).map fun i =>
        if vactive o s t i then (f.decode (f.flushIn z (a i))).mul (f.decode (f.flushIn z (b i))) else (.zero, false)
      let (v, fl) := sumTree 7 (ps.map (·.1))
      let fl := fl.or { nv := ps.any (·.2) }
      if opf o = 1 then
        let (r, g) := f32.arith (v.add (f32.decode (f32In s old)))
        .ok (f32Out o s (r, fl.or g))
      else .ok (f32Out o s (f32Code v, fl))
    | none =>
      let sum := (vactives o s t).foldl (fun (x : Int) i => x + t.int (a i) * t.int (b i)) 0
      .ok (s.wg o.d.toNat (BitVec.ofInt 64 sum + (if opf o = 1 then old else 0)))

/-! Heap sifts (R199–R201). -/

/-- The 32-bit keys of a heap: their type as FN[5:0] names it, and whether F32 subnormals read as zero (R83). -/
structure KeyTy where
  t : Nat
  z : Bool

/-- The key type of an instruction. -/
def keyTy (o : Ops) (s : State) : KeyTy := ⟨o.fn6, s.ftz⟩

/-- The value of a key. -/
def KeyTy.val (k : KeyTy) (a : Nat) : Val :=
  match k.t with
  | 10 => f32.decode (f32.flushIn k.z a)
  | 32 => .ofInt (toSigned 32 a)
  | _ => .ofInt a

/-- A heap entry: key and index. -/
def hKey (x : Word) : Nat := wbits x 31 0
def hIdx (x : Word) : Nat := wbits x 63 32
def hEmpty (x : Word) : Bool := hIdx x == 0xFFFFFFFF

/-- Entry x ranks below entry y (R199). DESIGN CHOICE (log entry 28): a signalling NaN key sets no flag. -/
def ranksBelow (t : KeyTy) (x y : Word) : Bool :=
  let kx := t.val (hKey x)
  let ky := t.val (hKey y)
  (hEmpty x && !hEmpty y) || (!hEmpty x && kx.isNan && !hEmpty y && !ky.isNan)
    || (!hEmpty x && !hEmpty y && kx.lt ky)
    || (((kx.isNan && ky.isNan) || kx.eq ky) && decide (hIdx y < hIdx x))

/-- The sift of R200 from position `p`. -/
def siftDown (t : KeyTy) (k : Nat) : (fuel p : Nat) → List Word → List Word
  | 0, _, h => h
  | n + 1, p, h =>
    let at' (i : Nat) : Word := h.getD i 0
    let l := 2 * p + 1
    if k ≤ l then h
    else
      let m := if l + 1 < k && ranksBelow t (at' (l + 1)) (at' l) then l + 1 else l
      if ranksBelow t (at' m) (at' p) then siftDown t k n m ((h.set p (at' m)).set m (at' p)) else h

/-- One candidate offered to a heap of capacity k (R200). -/
def offer (t : KeyTy) (k : Nat) (h : List Word) (key idx : Nat) : List Word :=
  let c : Word := BitVec.ofNat 64 (key + idx * 2 ^ 32)
  if (t.val key).isNan || idx == 0xFFFFFFFF then h
  else if ranksBelow t (h.getD 0 0) c then siftDown t k 5 0 (h.set 0 c) else h

/-- Lanes `first` to `first + k − 1` of a register as a heap, and back. -/
def heapAt (x : VReg) (first k : Nat) : List Word := (List.range k).map fun i => BitVec.ofNat 64 (elem x 64 (first + i))
def heapPut (x : VReg) (first k : Nat) (h : List Word) : VReg :=
  vreg 64 ((List.range 16).map fun i => if first ≤ i ∧ i < first + k then (h.getD (i - first) 0).toNat else elem x 64 i)

/-- HSIFT (R200). -/
def execHsift (o : Ops) (s : State) : Host.Outcome State Fault Refusal :=
  vrun o s fun s =>
    let t := vty o
    let k := opf o + 1
    let src := s.rv o.a.toNat
    let base := (s.rg o.b.toNat).toNat % 2 ^ 32
    let h := (vactives o s t).foldl (fun h i => offer (keyTy o s) k h (elem src 32 i) ((base + i) % 2 ^ 32)) (heapAt (s.rv o.d.toNat) 0 k)
    .ok (s.wv o.d.toNat (heapPut (s.rv o.d.toNat) 0 k h))

/-- HSIFT.C (R201): a heap per column. -/
def execHsiftC (o : Ops) (s : State) : Host.Outcome State Fault Refusal :=
  vrun o s fun s =>
    let t := vty o
    let k := 2 ^ (opf o)
    let n := vcount o s t.lanes
    let d := o.d.toNat
    if 32 < d + (n * k + 15) / 16 then .trap 0x09 n
    else
      let src := s.rv o.a.toNat
      let idx := (s.rg o.b.toNat).toNat % 2 ^ 32
      .ok ((vactives o s t).foldl (fun s e =>
        let r := d + e * k / 16
        let first := e * k % 16
        s.wv r (heapPut (s.rv r) first k (offer (keyTy o s) k (heapAt (s.rv r) first k) (elem src 32 e) idx))) s)

end Sys2Proof.Machine
end

