-- ==== Sys2Proof/Machine/Views.lean ====
section
/-! DEFINITION. Membership views (R377–R386): heartbeats and suspicion, the proposal along the rank tree, installation with
what it does to collectives (R268, R381–R383), grafts (R270, R384) and dispatches (R385). -/
namespace Sys2Proof.Machine

open Sys2Proof

/-! Messages. -/

/-- The event that a message of the protocol is. -/
def ViewMsg.event : ViewMsg → Instr
  | .heartbeat _ | .graftRefused _ _ | .time _ => .stationPacketArrival
  | .suspect _ _ _ => .suspect
  | .propose _ _ _ => .propose
  | .accept _ _ _ _ | .reject _ _ _ _ => .accept
  | .commit _ _ _ _ => .commitView
  | .graft _ _ => .graftRequest
  | .resent _ _ _ _ _ => .resentResult

/-- A message to a member; to this package itself it is an input like any other. -/
def State.sendView (s : State) (d : Nat) (m : ViewMsg) : State :=
  if d = ownPkg then { s with inputs := snoc s.inputs (m.event, .view m) }
  else { s with views := { s.views with tx := snoc s.views.tx (d, m) } }

def State.setViews (s : State) (v : Views) : State := { s with views := v }

/-- A list in ascending order without repeats. -/
def ascending (l : List Nat) : List Nat := sortBy (fun a b => decide (a ≤ b)) l.eraseDups

/-- This package's place among ascending members, its children and its parent in their rank tree (R376, R378). -/
def rankIn (ms : List Nat) : Nat := (ms.filter (· < ownPkg)).length
def childrenIn (ms : List Nat) : List Nat := (List.range 3).filterMap fun i => ms[3 * rankIn ms + 1 + i]?
def parentIn (ms : List Nat) : Option Nat := if rankIn ms = 0 then none else ms[(rankIn ms - 1) / 3]?

/-! Heartbeats and suspicion (R377). -/

/-- Predecessor and successor in the ring of members. -/
def Views.neighbours (v : Views) : List Nat :=
  let n := v.members.length
  let i := v.rank ownPkg
  if !v.members.contains ownPkg || n < 2 then []
  else ([v.members[(i + n - 1) % n]?, v.members[(i + 1) % n]?].filterMap id).eraseDups

/-- The lowest-numbered member that is not suspected (R378). -/
def Views.lowest (v : Views) : Option Nat := v.members.find? fun m => !v.suspects.contains m

/-- A neighbour not heard of yet counts from now. -/
def State.watchPeer (s : State) (pkg : Nat) : State :=
  if s.views.lastBeat.any (·.1 == pkg) then s
  else ({ s with views := { s.views with lastBeat := SMap.put 0 s.views.lastBeat pkg s.time } }).after 800000 (.heartbeatTimeout pkg)

/-- HEARTBEAT (R377): every 100 µs, to both neighbours; the rank-0 package sends its TIME as well. -/
def State.heartbeat (s : State) : State :=
  let s := s.views.neighbours.foldl (fun t d => (t.sendView d (.heartbeat ownPkg)).watchPeer d) s
  let s := if s.views.rank ownPkg = 0 then (s.views.members.filter (· != ownPkg)).foldl (fun t d => t.sendView d (.time s.time)) s else s
  s.after 100000 .heartbeat

def execHeartbeat (s : State) : Host.Outcome State Fault Refusal := .next s.heartbeat

/-- A SUSPECT goes to the proposer, from whom a COMMIT is expected within 20 ms (R378). -/
def State.tell (s : State) : State :=
  match s.views.lowest with
  | none => s
  | some p =>
    let s := s.sendView p (.suspect ownPkg s.views.view s.views.suspects)
    if p = ownPkg then s
    else
      match s.views.replied with
      | some (v, q, _) => if v = s.views.view && q = p then s else (s.setViews { s.views with replied := some (s.views.view, p, s.time) }).after 20000000 .commitWaitTimeout
      | none => (s.setViews { s.views with replied := some (s.views.view, p, s.time) }).after 20000000 .commitWaitTimeout

/-- A member is suspected (R378). -/
def State.suspectPkg (s : State) (pkg : Nat) : State :=
  if s.views.suspects.contains pkg || pkg = ownPkg || !s.views.members.contains pkg || !s.views.members.contains ownPkg then s
  else (s.setViews { s.views with suspects := ascending (pkg :: s.views.suspects) }).tell

/-- HEARTBEAT_TIMEOUT (R377): 800 µs without a heartbeat of a neighbour. -/
def execHeartbeatTimeout (pkg : Nat) (s : State) : Host.Outcome State Fault Refusal :=
  .next (if s.views.neighbours.contains pkg && decide (SMap.get 0 s.views.lastBeat pkg + 800000 ≤ s.time) then s.suspectPkg pkg else s)

/-- LOSS_OF_SIGNAL (R377): every link to a package is lost. -/
def State.lossOfSignal (s : State) (pkg : Nat) : State :=
  let s := (List.range 32).foldl (fun t i => if (t.station i).peer == some pkg then t.setStation i { t.station i with up := false } else t) s
  if s.views.neighbours.contains pkg then s.suspectPkg pkg else s

def execLossOfSignal (s : State) : Host.Outcome State Fault Refusal :=
  .next (let (i, t) := s.popInput .lossOfSignal
    match i with
    | .num pkg => t.lossOfSignal pkg
    | _ => t)

/-! The proposer (R378, R384). -/

/-- The proposer starts to collect (R378). -/
def State.collect (s : State) : State :=
  if s.views.collecting || s.views.proposal.isSome then s
  else (s.setViews { s.views with collecting := true }).after 2000000 .proposerCollectionEnd

/-- SUSPECT at the proposer. -/
def execSuspect (s : State) : Host.Outcome State Fault Refusal :=
  .next (let (i, t) := s.popInput .suspect
    match i with
    | .view (.suspect _ v pkgs) =>
      if v = t.views.view && t.views.members.contains ownPkg then
        (t.setViews { t.views with suspects := ascending (t.views.suspects ++ pkgs.filter fun p => p != ownPkg && t.views.members.contains p) }).collect
      else t
    | _ => t)

/-- Joining packages refused (R384). -/
def State.refuseJoins (s : State) (l : List Nat) : State :=
  l.foldl (fun t p => t.sendView p (.graftRefused p none)) (s.setViews { s.views with joins := s.views.joins.filter fun p => !l.contains p })

/-- PROPOSE goes to the root of the rank tree of B′ (R378). With half of the members or fewer, nothing is installed and the
runtime receives a partition event. -/
def State.proposeNow (s : State) : State :=
  let v := s.views
  let stay := v.members.filter fun m => !v.suspects.contains m
  let b := ascending (stay ++ v.joins)
  if 2 * stay.length ≤ v.members.length then
    ((s.setViews { v with proposal := none, collecting := false }).refuseJoins v.joins).hostEvent 2 [v.view, stay.length]
  else
    match b with
    | [] => s
    | r :: _ => ((s.setViews { v with proposal := some b, proposedAt := s.time, collecting := false }).sendView r (.propose ownPkg v.view b)).after 10000000 (.childReplyTimeout r)

/-- PROPOSER_COLLECTION_END (R378). -/
def execProposerCollectionEnd (s : State) : Host.Outcome State Fault Refusal :=
  .next (if s.views.collecting then s.proposeNow else s)

/-- The group table of a COMMIT: for every group the highest operation and its lowest-numbered holder (R381). -/
def addReport (t : List GroupReport) (r : GroupReport) : List GroupReport :=
  let same (x : GroupReport) : Bool := x.fid == r.fid && x.ver == r.ver && x.grp == r.grp
  match t.find? same with
  | none => snoc t r
  | some x =>
    let better := match x.high, r.high with
      | some a, some b => decide (a < b) || (a == b && decide (r.holder < x.holder))
      | none, some _ => true
      | _, none => false
    if better then snoc (t.filter fun y => !same y) r else t

/-- Every package of B′ has answered: COMMIT, another round, or a proposer that steps aside (R378). -/
def State.settleRound (s : State) (ok : Bool) (sus : List Nat) (lower : Option Nat) (reports : List GroupReport) : State :=
  let v := s.views
  match v.proposal with
  | none => s
  | some b =>
    match lower with
    | some q =>
      let s := v.joins.foldl (fun t p => t.sendView q (.graft p none)) s
      s.setViews { v with proposal := none, joins := [], tx := s.views.tx }
    | none =>
      let silent := v.joins.filter sus.contains
      let s := s.refuseJoins silent
      let s := s.setViews { s.views with suspects := ascending (s.views.suspects ++ sus.filter fun p => p != ownPkg && v.members.contains p) }
      if !ok || !sus.isEmpty || s.views.joins.any (fun p => !b.contains p) then s.proposeNow
      else
        let table := (reports.filter fun r => v.members.contains r.holder).foldl addReport []
        let s := s.setViews { s.views with proposal := none }
        match b with
        | [] => s
        | r :: _ => s.sendView r (.commit (v.view + 1) b (s.time + 2000000) table)

/-! A member's part in a round (R378). -/

/-- The group reports of this package: for each group that spans packages, the highest operation whose final result it has
placed (R381). -/
def State.reports (s : State) : List GroupReport :=
  (s.insts.filter fun i => i.st != .unloaded).flatMap fun i =>
    ((List.range 64).filter fun g => espXpkg (s.espOf i.first g) && (s.espOf i.first g).getLsbD 63).map fun g =>
      let n := SMap.get 0 (s.cluster i.first).cbase g
      { fid := i.fid, ver := i.ver, grp := g, high := if n = 0 then none else some (n - 1), holder := ownPkg }

/-- A round with every child heard is answered: to the parent in the rank tree, or, at its root, to the proposer. -/
def State.answer (s : State) : State :=
  match s.views.round with
  | none => s
  | some r =>
    if r.answered || !((childrenIn r.members).all fun c => r.heard.contains c || r.unanswered.contains c) then s
    else
      let up := (parentIn r.members).getD r.proposer
      let s := s.setViews { s.views with round := some { r with answered := true } }
      s.sendView up (if r.reject then .reject ownPkg r.v (ascending (r.suspects ++ r.unanswered)) (r.lower.getD r.proposer)
        else .accept ownPkg r.v r.reports r.unanswered)

/-- A change of view number `n` finds the package outside its domain (R384): it is no member of its own bitmap; or it has asked to join, and
stands alone or holds a view of another number, of the domain that it was cut off from. -/
def Views.outside (v : Views) (n : Nat) : Bool :=
  !v.members.contains ownPkg || (!v.grafts.isEmpty && (v.members == [ownPkg] || v.view != n))

/-- The lowest proposer heard for the next view, unless it is suspected itself. -/
def Views.heardProposer (v : Views) : Option Nat :=
  match v.round with
  | some r => if r.v = v.view && !v.suspects.contains r.proposer then some r.proposer else none
  | none => none

/-- PROPOSE at a member or a member-elect (R378, R384): passed down the rank tree, and answered once the children have. -/
def State.proposed (s : State) (proposer v : Nat) (ms : List Nat) : State :=
  let k := s.views
  let elect := k.outside v
  if !ms.contains ownPkg || (!elect && v ≠ k.view) then s
  else
    let other := match k.heardProposer with
      | some q => decide (q < proposer)
      | none => false
    if other then s.sendView ((parentIn ms).getD proposer) (.reject ownPkg v [] (k.heardProposer.getD proposer))
    else
      let bad := if elect then [] else k.suspects.filter ms.contains
      let r : Round := { proposer := proposer, v := v, members := ms, reject := !bad.isEmpty, suspects := bad, reports := if elect then [] else s.reports, since := s.time }
      let k := { k with round := some r }
      let k := if bad.isEmpty && proposer ≠ ownPkg then { k with replied := some (v, proposer, s.time) } else k
      let s := s.setViews k
      let s := if bad.isEmpty && proposer ≠ ownPkg then s.after 20000000 .commitWaitTimeout else s
      ((childrenIn ms).foldl (fun t c => (t.sendView c (.propose proposer v ms)).after 5000000 (.childReplyTimeout c)) s).answer

def execPropose (s : State) : Host.Outcome State Fault Refusal :=
  .next (let (i, t) := s.popInput .propose
    match i with
    | .view (.propose p v ms) => t.proposed p v ms
    | _ => t)

/-- A reply folds into the round of this node, or reaches the proposer from the root of the tree. -/
def State.replyFrom (s : State) (src v : Nat) (ok : Bool) (sus : List Nat) (lower : Option Nat) (reports : List GroupReport) : State :=
  let k := s.views
  let atTop := match k.proposal with
    | some b => v == k.view && b.head? == some src
    | none => false
  if atTop then s.settleRound ok sus lower reports
  else
    match k.round with
    | none => s
    | some r =>
      if r.v ≠ v || r.answered || r.heard.contains src || !(childrenIn r.members).contains src then s
      else
        let r := { r with
          heard := snoc r.heard src
          reject := r.reject || !ok
          suspects := if ok then r.suspects else r.suspects ++ sus
          unanswered := if ok then r.unanswered ++ sus else r.unanswered
          lower := match r.lower, lower with
            | some a, some b => some (min a b)
            | some a, none => some a
            | none, b => b
          reports := r.reports ++ reports }
        (s.setViews { k with round := some r }).answer

/-- ACCEPT (R378, R381): a member's or a subtree's reply. A REJECT that names the proposer itself names no other. -/
def State.replied (s : State) (m : ViewMsg) : State :=
  match m with
  | .accept src v reports silent => s.replyFrom src v true silent none reports
  | .reject src v sus q =>
    let mine := match s.views.round with
      | some r => r.proposer
      | none => ownPkg
    s.replyFrom src v false sus (if q < mine then some q else none) []
  | _ => s

def execAccept (s : State) : Host.Outcome State Fault Refusal :=
  .next (let (i, t) := s.popInput .accept
    match i with
    | .view m => t.replied m
    | _ => t)

/-- CHILD_REPLY_TIMEOUT (R378): a child that has not answered this round within 5 ms is reported as a suspect; so is, to the proposer, the
root after the 10 ms of its round. -/
def State.childSilent (s : State) (pkg : Nat) : State :=
  let k := s.views
  let atTop := match k.proposal with
    | some b => b.head? == some pkg && pkg != ownPkg && decide (k.proposedAt + 10000000 ≤ s.time)
    | none => false
  if atTop then s.settleRound false [pkg] none []
  else
    match k.round with
    | none => s
    | some r =>
      if s.time < r.since + 5000000 || r.answered || r.heard.contains pkg || r.unanswered.contains pkg || !(childrenIn r.members).contains pkg then s
      else (s.setViews { k with round := some { r with unanswered := snoc r.unanswered pkg } }).answer

def execChildReplyTimeout (pkg : Nat) (s : State) : Host.Outcome State Fault Refusal := .next (s.childSilent pkg)

/-- COMMIT at a member of B′ (R378): passed down the rank tree; the view is installed at TIME ≥ T. -/
def State.committed (s : State) (v : Nat) (ms : List Nat) (t : Nat) (table : List GroupReport) : State :=
  if v ≤ s.views.view || !ms.contains ownPkg then s
  else
    let s := (childrenIn ms).foldl (fun u c => u.sendView c (.commit v ms t table)) s
    (s.setViews { s.views with commit := some (v, ms, t, table) }).after (t - s.time) .viewInstall

def execCommitView (s : State) : Host.Outcome State Fault Refusal :=
  .next (let (i, t) := s.popInput .commitView
    match i with
    | .view (.commit v ms at_ table) => t.committed v ms at_ table
    | _ => t)

/-- COMMIT_WAIT_TIMEOUT (R378): without COMMIT after 20 ms the proposer is suspected, and the next one told. -/
def State.commitWait (s : State) : State :=
  match s.views.replied with
  | some (v, p, since) =>
    if v = s.views.view && s.views.commit.isNone && decide (since + 20000000 ≤ s.time) then
      (s.setViews { s.views with replied := none }).suspectPkg p
    else s
  | none => s

def execCommitWaitTimeout (s : State) : Host.Outcome State Fault Refusal := .next s.commitWait

/-! Grafts (R270, R384). -/

/-- GRAFT_REQUEST (R384). -/
def State.graftAsked (s : State) (pkg : Nat) (via : Option Nat) : State :=
  let k := s.views
  if !k.members.contains ownPkg then s.sendView pkg (.graftRefused pkg via)
  else
    match k.lowest with
    | none => s
    | some p =>
      if p ≠ ownPkg then s.sendView p (.graft pkg via)
      else if k.members.contains pkg then s.sendView pkg (.graftRefused pkg via)
      else if Config.graftsOff s.freeCtr then s.fresh.sendView pkg (.graftRefused pkg via)
      else (s.fresh.setViews { k with joins := ascending (pkg :: k.joins) }).collect

def execGraftRequest (s : State) : Host.Outcome State Fault Refusal :=
  .next (let (i, t) := s.popInput .graftRequest
    match i with
    | .view (.graft pkg via) => t.graftAsked pkg via
    | _ => t)

/-! Installation (R379–R383). -/

/-- The first operation of a group that a view change overtakes: H + 1 (R381). -/
def nextOp (i : Inst) (grp : Nat) (table : List GroupReport) : Nat :=
  match table.find? fun r => r.fid == i.fid && r.ver == i.ver && r.grp == grp with
  | some r => (match r.high with
    | some h => h + 1
    | none => 0)
  | none => 0

/-- A CRED that reads its source again when its operation reruns (R382). -/
def ECmd.rereads (c : ECmd) : Bool := c.failed == 0 && !c.queued && !isStream (c.wd 2)

/-- The CREDs of a group whose operation is `n` or later. -/
def ECmd.overtaken (c : ECmd) (grp n : Nat) : Bool :=
  match c.cred with
  | some (k, m, _) => k == grp && decide (n ≤ m)
  | none => false

/-- VDROP of a cluster raised by `n` (R365). -/
def State.dropViews (s : State) (cl n : Nat) : State := s.modCluster cl fun g => { g with vdrop := g.vdrop + n }

/-- A contribution of group `grp` from operation `n` on, at cluster `cl`. -/
def Pkt.contribAt (p : Pkt) (cl grp n : Nat) : Option (Nat × Nat) :=
  match p.body with
  | .contrib k m pos _ => if clOf p.dst = cl ∧ k = grp ∧ n ≤ m ∧ p.dpkg = none ∧ p.spkg = ownPkg ∧ pos < 16 then some (m, pos) else none
  | _ => none

/-- A message of a vector that a contribution of group `grp` from operation `n` on or its result brings (R360). -/
def Pkt.pieceOf (p : Pkt) (grp n : Nat) : Bool :=
  match p.body with
  | .contrib k m _ _ | .result k m _ _ _ => k == grp && decide (n ≤ m)
  | _ => false

/-- Restart at one site (R382): partial results go, the members' values stay; CREDs read their sources again. -/
def State.restartSite (s : State) (cl grp n : Nat) : State :=
  let g := s.cluster cl
  let again (m pos : Nat) : Bool := match s.waitingCred (16 * cl + pos) grp m with
    | some c => c.rereads
    | none => false
  let gone (o : CombOp) : Bool := o.grp == grp && decide (n ≤ o.n)
  let keep (o : CombOp) : CombOp := { o with parts := o.parts.filter (fun (pos, _) => decide (pos < 16) && !again o.n pos), sent := false, fin := [], up := false }
  let lost := ((g.comb.filter gone).map fun o => (o.parts.filter fun (pos, _) => decide (16 ≤ pos)).length).sum
  let t := g.hart 2
  let redo := t.waiting.filter fun c => c.overtaken grp n && c.rereads
  let run := match t.cmd with
    | some c => c.overtaken grp n && c.rereads
    | none => false
  let t := { t with
    waiting := t.waiting.filter fun c => !(c.overtaken grp n && c.rereads)
    q := redo ++ t.q
    pos := if run then 0 else t.pos
    vals := if run then [] else t.vals }
  let old (p : Pkt) : Bool := match p.contribAt cl grp n with
    | some (m, pos) => again m pos
    | none => false
  let part (p : Pkt) : Bool := p.pieceOf grp n && (old p || (p.contribAt cl grp n).isNone)
  let u := { s with net := s.net.filter fun p => !old p }
  let u := u.setCluster cl ({ g with
    comb := g.comb.map fun o => if gone o then keep o else o, pieces := g.pieces.filter fun p => !part p }.setHart 2 t)
  u.dropViews cl (lost + (s.net.filter old).length + (g.pieces.filter part).length)

/-- The fields of a membership-change record, 16 bits each (R383). -/
def changeWords (old new grp n : Nat) (removed added : List Nat) (ix : Nat) (last : Bool) (chunk : List Nat) : List Word :=
  let q (i : Nat) : Nat := chunk.getD i 0
  [BitVec.ofNat 64 (old % 2 ^ 16 + new % 2 ^ 16 * 2 ^ 16 + grp * 2 ^ 32 + 0x16 * 2 ^ 40 + chunk.length * 2 ^ 48),
   BitVec.ofNat 64 (n % 2 ^ 32 + removed.length * 2 ^ 32),
   BitVec.ofNat 64 (added.length + ix * 2 ^ 16 + if last then 2 ^ 32 else 0)]
    ++ (List.range 25).map fun j => BitVec.ofNat 64 (q (4 * j) + q (4 * j + 1) * 2 ^ 16 + q (4 * j + 2) * 2 ^ 32 + q (4 * j + 3) * 2 ^ 48)

/-- The records of a change at a member core, 100 packages each. -/
def State.changeRecords (s : State) (core grp ch old n : Nat) (removed added : List Nat) : State :=
  let all := removed ++ added
  let cnt := max 1 ((all.length + 99) / 100)
  (List.range cnt).foldl (fun t i =>
    let ws := changeWords old t.views.view grp n removed added i (decide (i + 1 = cnt)) ((all.drop (100 * i)).take 100)
    t.sendPkt (t.siteMsg (clOf core) grp core (.chan ch (bytesOfWords ws)))) s

/-- The event arms of a contribution. -/
def OAct.arms : OAct → Option CevtArm
  | .ccon _ _ a => a
  | .kick c => c.arm
  | _ => none

/-- What a member's network interface holds for a group has issued: it has its operation number and its events, it goes, and is counted
(R383). -/
def State.dropHeld (s : State) (cl core grp : Nat) : State :=
  let mine := (s.core core).ni.filter fun e => e.ent.act.group == some grp
  (mine.foldl (fun t e => t.modCore core fun k =>
    let n := SMap.get 0 k.ccount grp
    { k with ccount := SMap.put 0 k.ccount grp (n + 1), ni := removeOne e k.ni
             evArms := k.evArms ++ (e.ent.act.arms.map fun a => (n, a)).toList }) s).dropViews cl mine.length

/-- A collective of a member core ended by a re-weight (R268). -/
def State.reweightOp (s : State) (core grp n : Nat) : State :=
  ((s.groupEvent core grp n 0 0).groupEvent core grp n 1 0x16).groupEvent core grp n 2 0x16

/-- Re-weight at one site (R268, R383). -/
def State.reweightSite (s : State) (cl grp n old : Nat) (removed added : List Nat) : State :=
  let g := s.cluster cl
  let e := s.espOf cl grp
  let gone (o : CombOp) : Bool := o.grp == grp && decide (n ≤ o.n)
  let held (p : Pkt) : Bool := (p.contribAt cl grp n).isSome
  let lost := ((g.comb.filter gone).map (·.parts.length)).sum + (g.galley.filter held).length
    + (g.pieces.filter (·.pieceOf grp n)).length
  let t := g.hart 2
  let keep (c : ECmd) : Bool := !c.overtaken grp n
  let ends := match t.cmd with
    | some c => c.overtaken grp n
    | none => false
  -- CREDs that have issued and not contributed yet
  let lost := lost + (t.q.filter fun c => !keep c).length + (if ends then 1 else 0)
    + ((espMembers e).map fun i => ((s.core (16 * cl + i)).engLane.filter fun c => !keep c).length).sum
  let t := { t with waiting := t.waiting.filter keep, q := t.q.filter keep }
  let t := if ends then { t with cmd := none, begun := false, finished := false, pos := 0, vals := [], dims := [], left := [], err := 0 } else t
  let s := (g.galley.filter held).foldl (fun s p => s.noted p) (s.setCluster cl
    ({ g with
      comb := g.comb.filter fun o => !gone o, galley := g.galley.filter fun p => !held p
      pieces := g.pieces.filter fun p => !p.pieceOf grp n, vdrop := g.vdrop + lost }.setHart 2 t))
  (espMembers e).foldl (fun s i =>
    let core := 16 * cl + i
    let s := s.dropHeld cl core grp
    let ops := ((s.core core).evArms.filter fun (m, a) => a.grp == grp && decide (n ≤ m)).map (·.1)
    let s := ops.foldl (fun t m => t.reweightOp core grp m) s
    let s := s.modCore core fun k => { k with ccount := SMap.put 0 k.ccount grp n, engLane := k.engLane.filter keep }
    s.changeRecords core grp (wbits e 47 42) old n removed added) s

/-- A group of an instance under the new view (R381–R384): results already placed go on under the new tag; what they
overtake restarts or re-weights; a package that joins starts at H + 1. -/
def State.groupInstall (s : State) (i : Inst) (grp n old : Nat) (removed added : List Nat) (joined : Bool) : State :=
  let cls := ((List.range (i.last + 1 - i.first)).map (i.first + ·)).filter fun cl => (s.espOf cl grp).getLsbD 63
  let retag (p : Pkt) : Pkt := match p.body with
    | .result k m _ _ _ => if k = grp ∧ p.gen = i.gen ∧ p.dpkg = none ∧ m < n then { p with vtag := some s.views.view } else p
    | _ => p
  let s := { s with net := s.net.map retag }
  if joined then
    cls.foldl (fun s cl =>
      let s := s.modCluster cl fun g => { g with cbase := SMap.put 0 g.cbase grp n, comb := g.comb.filter (·.grp != grp) }
      (espMembers (s.espOf cl grp)).foldl (fun s m => s.modCore (16 * cl + m) fun k => { k with ccount := SMap.put 0 k.ccount grp n }) s) s
  else
    let s := cls.foldl (fun s cl =>
      if espReweight (s.espOf cl grp) then s.reweightSite cl grp n old removed added else s.restartSite cl grp n) s
    -- the root's reports and partial results belong to the new rank tree
    let s := s.modCluster i.first fun g =>
      { g with comb := g.comb.map fun o => if o.grp == grp then { o with fin := o.fin.filter fun (p, _) => decide (p < 18), up := false } else o }
    cls.foldl (fun s cl =>
      (((s.cluster cl).comb.filter (·.grp == grp)).map (·.n)).foldl (fun t m => (t.siteRun cl grp m).finRun cl grp m) s) s

/-- An operation up to H. -/
def GroupReport.upTo (r : GroupReport) (n : Nat) : Bool :=
  match r.high with
  | some h => decide (n ≤ h)
  | none => false

/-- Elements of a CRED's destination from number `i` on, read through its own page tables; none when one cannot be read. -/
def State.destWords (s : State) (c : ECmd) : (n i : Nat) → Option (List Word × State)
  | 0, _ => some ([], s)
  | n + 1, i =>
    match s.readNow (c.user (clOf c.org.core)) (endpointAt (c.wd 3) (shapeOff c.dims i)) c.size with
    | .ok bs t => (t.destWords c n (i + 1)).map fun (ws, u) => (BitVec.ofNat 64 (natOfBytes bs) :: ws, u)
    | _ => none

/-- A final result as it is sent again: a CRED's from its destination, another's as the site has kept it (R381). -/
def State.again (s : State) (k : KeptResult) : Option (List Word) × State :=
  match k.cred, k.v with
  | some c, some l => if isStream (c.wd 3) then (k.v, s) else
    (match s.destWords c l.length 0 with
      | some (ws, t) => (some ws, t)
      | none => (k.v, s))
  | _, v => (v, s)

/-- The holder of a group's highest operation sends the other survivors the final results they may lack (R381). -/
def State.resendKept (s : State) (table : List GroupReport) (survivors : List Nat) : State :=
  table.foldl (fun s r =>
    if r.holder ≠ ownPkg then s
    else
      match s.insts.find? fun i => i.fid == r.fid && i.ver == r.ver && i.st != .unloaded with
      | none => s
      | some i =>
        (s.views.kept.filter fun k => k.gen == i.gen && k.grp == r.grp && r.upTo k.n).foldl (fun s k =>
          let (v, s) := s.again k
          (survivors.filter (· != ownPkg)).foldl (fun s m => s.sendView m (.resent r.fid r.ver r.grp k.n v)) s) s) s

/-- Messages for departed packages that a core's network interface holds (R379). -/
def OAct.gone (a : OAct) (left : List Nat) : List Pkt := a.pkts.filter fun p => p.dpkg.any left.contains

/-- Messages queued for departed packages are dropped and counted, and dispatches among them fail (R379, R385). -/
def State.dropQueued (s : State) (left : List Nat) : State :=
  let s := (s.clusters.map (·.1)).foldl (fun t cl =>
    let mine (p : Pkt) : Bool := p.dpkg.any left.contains
    let g := t.cluster cl
    (g.held.filter mine).foldl (fun u p => u.dropGone cl p) (t.setCluster cl { g with held := g.held.filter fun p => !mine p })) s
  (s.cores.map (·.1)).foldl (fun t c =>
    let k := t.core c
    let rest := k.ni.filterMap fun e =>
      if (e.ent.act.gone left).isEmpty then some e
      else
        match e.ent.act.pkts.filter fun p => !p.dpkg.any left.contains with
        | [] => none
        | ps => some { e with ent := { e.ent with act := .send ps } }
    (k.ni.flatMap fun e => e.ent.act.gone left).foldl (fun u p => u.dropGone (clOf c) p) (t.setCore c { k with ni := rest })) s

/-- VIEW_INSTALL (R378–R383, R385). -/
def State.install (s : State) (v : Nat) (ms : List Nat) (table : List GroupReport) : State :=
  let old := s.views
  let gone := old.members.filter fun p => !ms.contains p
  let new := ms.filter fun p => !old.members.contains p
  let joined := old.outside (v - 1)
  let s := s.setViews { old with view := v, members := ms, suspects := [], joins := old.joins.filter fun p => !ms.contains p, collecting := false, proposal := none, round := none, replied := none,
                                 commit := none, lastBeat := [] }
  -- dispatches to departed packages fail at their reply slots, in dispatch order
  let s := (s.dispatch.filter fun d => gone.contains d.pkg).foldl State.failDispatch
    { s with dispatch := s.dispatch.filter fun d => !gone.contains d.pkg }
  let s := s.dropQueued gone
  let s := (s.insts.filter fun i => i.st != .unloaded).foldl (fun s i =>
    ((List.range 64).filter fun grp => (s.espOf i.first grp).getLsbD 63 && espXpkg (s.espOf i.first grp)).foldl
      (fun s grp => s.groupInstall i grp (nextOp i grp table) old.view gone new joined) s) s
  let s := s.resendKept table (old.members.filter ms.contains)
  let s := (List.range 32).foldl (fun t st => t.takeRx st (t.station st).rx) s
  -- CVIEW arms (R269)
  let s := (s.cores.map (·.1)).foldl (fun t c =>
    (t.core c).cviewArms.foldl (fun u a =>
      u.signal { core := c, node := .slot c a.fid a.k, tag := a.tag, gen := (u.cluster (clOf c)).gen } a 0 true)
      (t.modCore c fun k => { k with cviewArms := [] })) s
  let s := if joined then s.endGrafts 0 none else gone.foldl (fun t m => t.endGrafts 0x16 (some m)) s
  if s.views.joins.isEmpty then s else s.collect

def execViewInstall (s : State) : Host.Outcome State Fault Refusal :=
  .next (match s.views.commit with
    | some (v, ms, t, table) => if t ≤ s.time && s.views.view < v then s.install v ms table else s
    | none => s)

/-- RESENT_RESULT (R381): placed as if it had come down the tree, where the package lacks it. -/
def State.resentResult (s : State) (fid ver grp n : Nat) (v : Option (List Word)) : State :=
  match s.insts.find? fun i => i.fid == fid && i.ver == ver && i.st != .unloaded with
  | none => s
  | some i => s.siteResult i.first grp n v

def execResentResult (s : State) : Host.Outcome State Fault Refusal :=
  .next (let (i, t) := s.popInput .resentResult
    match i with
    | .view (.resent fid ver grp n v) => t.resentResult fid ver grp n v
    | _ => t)

end Sys2Proof.Machine
end

