-- ==== Sys2Proof/Machine/Dispatch.lean ====
section
/-! DEFINITION. One arm per step of the table: a direct call of its meaning. -/
namespace Sys2Proof.Machine

open Sys2Proof

def exec (i : Instr) (s : State) : Host.Outcome State Fault Refusal :=
  match i with
  | .add o => Sys2Proof.Machine.execAdd o s
  | .sub o => Sys2Proof.Machine.execSub o s
  | .mul o => Sys2Proof.Machine.execMul o s
  | .mulh o => Sys2Proof.Machine.execMulh o s
  | .div o => Sys2Proof.Machine.execDiv o s
  | .rem o => Sys2Proof.Machine.execRem o s
  | .and o => Sys2Proof.Machine.execAnd o s
  | .or o => Sys2Proof.Machine.execOr o s
  | .xor o => Sys2Proof.Machine.execXor o s
  | .shl o => Sys2Proof.Machine.execShl o s
  | .shr o => Sys2Proof.Machine.execShr o s
  | .sar o => Sys2Proof.Machine.execSar o s
  | .min o => Sys2Proof.Machine.execMin o s
  | .max o => Sys2Proof.Machine.execMax o s
  | .clz o => Sys2Proof.Machine.execClz o s
  | .popc o => Sys2Proof.Machine.execPopc o s
  | .ext o => Sys2Proof.Machine.execExt o s
  | .dep o => Sys2Proof.Machine.execDep o s
  | .lea o => Sys2Proof.Machine.execLea o s
  | .pcmp o => Sys2Proof.Machine.execPcmp o s
  | .plog o => Sys2Proof.Machine.execPlog o s
  | .mov o => Sys2Proof.Machine.execMov o s
  | .movZ o => Sys2Proof.Machine.execMovZ o s
  | .movPg o => Sys2Proof.Machine.execMovPg o s
  | .movGp o => Sys2Proof.Machine.execMovGp o s
  | .sel o => Sys2Proof.Machine.execSel o s
  | .fadd o => Sys2Proof.Machine.execFadd o s
  | .fmul o => Sys2Proof.Machine.execFmul o s
  | .ffma o => Sys2Proof.Machine.execFfma o s
  | .fdiv o => Sys2Proof.Machine.execFdiv o s
  | .fsqrt o => Sys2Proof.Machine.execFsqrt o s
  | .fmin o => Sys2Proof.Machine.execFmin o s
  | .fmax o => Sys2Proof.Machine.execFmax o s
  | .fcmp o => Sys2Proof.Machine.execFcmp o s
  | .fcvt o => Sys2Proof.Machine.execFcvt o s
  | .br o => Sys2Proof.Machine.execBr o s
  | .jmp o => Sys2Proof.Machine.execJmp o s
  | .jmpCall o => Sys2Proof.Machine.execJmpCall o s
  | .call o => Sys2Proof.Machine.execCall o s
  | .ret o => Sys2Proof.Machine.execRet o s
  | .loop o => Sys2Proof.Machine.execLoop o s
  | .loopX o => Sys2Proof.Machine.execLoopX o s
  | .loopr o => Sys2Proof.Machine.execLoopr o s
  | .loopm o => Sys2Proof.Machine.execLoopm o s
  | .nop o => Sys2Proof.Machine.execNop o s
  | .exit o => Sys2Proof.Machine.execExit o s
  | .exits o => Sys2Proof.Machine.execExits o s
  | .abort o => Sys2Proof.Machine.execAbort o s
  | .abortRetry o => Sys2Proof.Machine.execAbortRetry o s
  | .ld o => Sys2Proof.Machine.execLd o s
  | .st o => Sys2Proof.Machine.execSt o s
  | .ldi o => Sys2Proof.Machine.execLdi o s
  | .ldv o => Sys2Proof.Machine.execLdv o s
  | .stv o => Sys2Proof.Machine.execStv o s
  | .ldvs o => Sys2Proof.Machine.execLdvs o s
  | .ldvx o => Sys2Proof.Machine.execLdvx o s
  | .stvx o => Sys2Proof.Machine.execStvx o s
  | .ldfar o => Sys2Proof.Machine.execLdfar o s
  | .pref o => Sys2Proof.Machine.execPref o s
  | .fenceAcq o => Sys2Proof.Machine.execFenceAcq o s
  | .fenceRel o => Sys2Proof.Machine.execFenceRel o s
  | .fenceAcqrel o => Sys2Proof.Machine.execFenceAcqrel o s
  | .win o => Sys2Proof.Machine.execWin o s
  | .winOff o => Sys2Proof.Machine.execWinOff o s
  | .amo o => Sys2Proof.Machine.execAmo o s
  | .amof o => Sys2Proof.Machine.execAmof o s
  | .cas o => Sys2Proof.Machine.execCas o s
  | .casw o => Sys2Proof.Machine.execCasw o s
  | .sig o => Sys2Proof.Machine.execSig o s
  | .sigr o => Sys2Proof.Machine.execSigr o s
  | .sigv o => Sys2Proof.Machine.execSigv o s
  | .send o => Sys2Proof.Machine.execSend o s
  | .sendf o => Sys2Proof.Machine.execSendf o s
  | .falloc o => Sys2Proof.Machine.execFalloc o s
  | .ffree o => Sys2Proof.Machine.execFfree o s
  | .slotset o => Sys2Proof.Machine.execSlotset o s
  | .slotsetKeep o => Sys2Proof.Machine.execSlotsetKeep o s
  | .slotadd o => Sys2Proof.Machine.execSlotadd o s
  | .chblk o => Sys2Proof.Machine.execChblk o s
  | .chunb o => Sys2Proof.Machine.execChunb o s
  | .route o => Sys2Proof.Machine.execRoute o s
  | .routeRef o => Sys2Proof.Machine.execRouteRef o s
  | .istw o => Sys2Proof.Machine.execIstw o s
  | .istwClr o => Sys2Proof.Machine.execIstwClr o s
  | .isrd o => Sys2Proof.Machine.execIsrd o s
  | .rlogPut o => Sys2Proof.Machine.execRlogPut o s
  | .rlogRet o => Sys2Proof.Machine.execRlogRet o s
  | .time o => Sys2Proof.Machine.execTime o s
  | .timeAt o => Sys2Proof.Machine.execTimeAt o s
  | .vadd o => Sys2Proof.Machine.execVadd o s
  | .vsub o => Sys2Proof.Machine.execVsub o s
  | .vmul o => Sys2Proof.Machine.execVmul o s
  | .vfma o => Sys2Proof.Machine.execVfma o s
  | .vdiv o => Sys2Proof.Machine.execVdiv o s
  | .vmin o => Sys2Proof.Machine.execVmin o s
  | .vmax o => Sys2Proof.Machine.execVmax o s
  | .vabs o => Sys2Proof.Machine.execVabs o s
  | .vand o => Sys2Proof.Machine.execVand o s
  | .vor o => Sys2Proof.Machine.execVor o s
  | .vxor o => Sys2Proof.Machine.execVxor o s
  | .vshl o => Sys2Proof.Machine.execVshl o s
  | .vshr o => Sys2Proof.Machine.execVshr o s
  | .vsar o => Sys2Proof.Machine.execVsar o s
  | .vsqrt o => Sys2Proof.Machine.execVsqrt o s
  | .vrsq o => Sys2Proof.Machine.execVrsq o s
  | .vexp o => Sys2Proof.Machine.execVexp o s
  | .vlog o => Sys2Proof.Machine.execVlog o s
  | .vrcp o => Sys2Proof.Machine.execVrcp o s
  | .vtanh o => Sys2Proof.Machine.execVtanh o s
  | .vsig o => Sys2Proof.Machine.execVsig o s
  | .vtbl o => Sys2Proof.Machine.execVtbl o s
  | .vcvt o => Sys2Proof.Machine.execVcvt o s
  | .vcmp o => Sys2Proof.Machine.execVcmp o s
  | .mand o => Sys2Proof.Machine.execMand o s
  | .mor o => Sys2Proof.Machine.execMor o s
  | .mxor o => Sys2Proof.Machine.execMxor o s
  | .mnot o => Sys2Proof.Machine.execMnot o s
  | .mpop o => Sys2Proof.Machine.execMpop o s
  | .vperm o => Sys2Proof.Machine.execVperm o s
  | .vslide o => Sys2Proof.Machine.execVslide o s
  | .vbcst o => Sys2Proof.Machine.execVbcst o s
  | .vmov o => Sys2Proof.Machine.execVmov o s
  | .vsel o => Sys2Proof.Machine.execVsel o s
  | .vred o => Sys2Proof.Machine.execVred o s
  | .vscan o => Sys2Proof.Machine.execVscan o s
  | .vdot o => Sys2Proof.Machine.execVdot o s
  | .vcmpr o => Sys2Proof.Machine.execVcmpr o s
  | .vexpd o => Sys2Proof.Machine.execVexpd o s
  | .hsift o => Sys2Proof.Machine.execHsift o s
  | .hsiftC o => Sys2Proof.Machine.execHsiftC o s
  | .vins o => Sys2Proof.Machine.execVins o s
  | .vget o => Sys2Proof.Machine.execVget o s
  | .vidx o => Sys2Proof.Machine.execVidx o s
  | .mgeo o => Sys2Proof.Machine.execMgeo o s
  | .mma o => Sys2Proof.Machine.execMma o s
  | .mmag o => Sys2Proof.Machine.execMmag o s
  | .mzero o => Sys2Proof.Machine.execMzero o s
  | .mldc o => Sys2Proof.Machine.execMldc o s
  | .mstc o => Sys2Proof.Machine.execMstc o s
  | .mque o => Sys2Proof.Machine.execMque o s
  | .mrel o => Sys2Proof.Machine.execMrel o s
  | .sbcfg o => Sys2Proof.Machine.execSbcfg o s
  | .sbevt o => Sys2Proof.Machine.execSbevt o s
  | .sbstep o => Sys2Proof.Machine.execSbstep o s
  | .sbread o => Sys2Proof.Machine.execSbread o s
  | .copy o => Sys2Proof.Machine.execCopy o s
  | .copys o => Sys2Proof.Machine.execCopys o s
  | .copym o => Sys2Proof.Machine.execCopym o s
  | .ckick o => Sys2Proof.Machine.execCkick o s
  | .ccon o => Sys2Proof.Machine.execCcon o s
  | .cext o => Sys2Proof.Machine.execCext o s
  | .cred o => Sys2Proof.Machine.execCred o s
  | .cevt o => Sys2Proof.Machine.execCevt o s
  | .cview o => Sys2Proof.Machine.execCview o s
  | .cviewBm o => Sys2Proof.Machine.execCviewBm o s
  | .cviewArm o => Sys2Proof.Machine.execCviewArm o s
  | .cjoin o => Sys2Proof.Machine.execCjoin o s
  | .trap o => Sys2Proof.Machine.execTrap o s
  | .tret o => Sys2Proof.Machine.execTret o s
  | .tretDrop o => Sys2Proof.Machine.execTretDrop o s
  | .mfs o => Sys2Proof.Machine.execMfs o s
  | .mts o => Sys2Proof.Machine.execMts o s
  | .flushWb o => Sys2Proof.Machine.execFlushWb o s
  | .flushInv o => Sys2Proof.Machine.execFlushInv o s
  | .tlbinvPage o => Sys2Proof.Machine.execTlbinvPage o s
  | .tlbinvAll o => Sys2Proof.Machine.execTlbinvAll o s
  | .round o => Sys2Proof.Machine.execRound o s
  | .probe o => Sys2Proof.Machine.execProbe o s
  | .watch o => Sys2Proof.Machine.execWatch o s
  | .watchUnit o => Sys2Proof.Machine.execWatchUnit o s
  | .bkpt o => Sys2Proof.Machine.execBkpt o s
  | .ecall o => Sys2Proof.Machine.execEcall o s
  | .gstop o => Sys2Proof.Machine.execGstop o s
  | .gstopGo o => Sys2Proof.Machine.execGstopGo o s
  | .opstep o => Sys2Proof.Machine.execOpstep o s
  | .outboundEntryIssue core ctx => Sys2Proof.Machine.execOutboundEntryIssue core ctx s
  | .activationDispatch core => Sys2Proof.Machine.execActivationDispatch core s
  | .starvationLift core => Sys2Proof.Machine.execStarvationLift core s
  | .watchdog core ctx => Sys2Proof.Machine.execWatchdog core ctx s
  | .slotSignal p => Sys2Proof.Machine.execSlotSignal p s
  | .sigrArrival p => Sys2Proof.Machine.execSigrArrival p s
  | .slotaddArrival p => Sys2Proof.Machine.execSlotaddArrival p s
  | .slotsetArrival p => Sys2Proof.Machine.execSlotsetArrival p s
  | .sendfArrival p => Sys2Proof.Machine.execSendfArrival p s
  | .channelMessage p => Sys2Proof.Machine.execChannelMessage p s
  | .chblkArrival p => Sys2Proof.Machine.execChblkArrival p s
  | .chunbArrival p => Sys2Proof.Machine.execChunbArrival p s
  | .fallocServe p => Sys2Proof.Machine.execFallocServe p s
  | .frameRelease core fid => Sys2Proof.Machine.execFrameRelease core fid s
  | .frameReload core fid => Sys2Proof.Machine.execFrameReload core fid s
  | .istwArrival p => Sys2Proof.Machine.execIstwArrival p s
  | .istwClrArrival p => Sys2Proof.Machine.execIstwClrArrival p s
  | .isrdArrival p => Sys2Proof.Machine.execIsrdArrival p s
  | .isrdRetry p => Sys2Proof.Machine.execIsrdRetry p s
  | .rlogPutArrival p => Sys2Proof.Machine.execRlogPutArrival p s
  | .rlogRetireArrival p => Sys2Proof.Machine.execRlogRetireArrival p s
  | .rlogWaitingPut die ix => Sys2Proof.Machine.execRlogWaitingPut die ix s
  | .timerFire core ix => Sys2Proof.Machine.execTimerFire core ix s
  | .storePerform p => Sys2Proof.Machine.execStorePerform p s
  | .ldfarRead p => Sys2Proof.Machine.execLdfarRead p s
  | .ldfarCompletion p => Sys2Proof.Machine.execLdfarCompletion p s
  | .atomicAtTarget p => Sys2Proof.Machine.execAtomicAtTarget p s
  | .atomicCompletion p => Sys2Proof.Machine.execAtomicCompletion p s
  | .l1Fill core line => Sys2Proof.Machine.execL1Fill core line s
  | .tlbWalk cl page => Sys2Proof.Machine.execTlbWalk cl page s
  | .matrixCommandAccept core => Sys2Proof.Machine.execMatrixCommandAccept core s
  | .matrixCommandStart core ix => Sys2Proof.Machine.execMatrixCommandStart core ix s
  | .matrixCommandComplete core ix => Sys2Proof.Machine.execMatrixCommandComplete core ix s
  | .groupCommandTimeout core ix => Sys2Proof.Machine.execGroupCommandTimeout core ix s
  | .quarantineRemap cl u => Sys2Proof.Machine.execQuarantineRemap cl u s
  | .eventQueueArrival p => Sys2Proof.Machine.execEventQueueArrival p s
  | .eventRetry p => Sys2Proof.Machine.execEventRetry p s
  | .sbStep core ix => Sys2Proof.Machine.execSbStep core ix s
  | .engineKickArrival core ix => Sys2Proof.Machine.execEngineKickArrival core ix s
  | .engineCommandStart cl h => Sys2Proof.Machine.execEngineCommandStart cl h s
  | .engineCommandComplete cl h => Sys2Proof.Machine.execEngineCommandComplete cl h s
  | .engineWatchdog cl h => Sys2Proof.Machine.execEngineWatchdog cl h s
  | .combiningContribution p => Sys2Proof.Machine.execCombiningContribution p s
  | .combiningResult p => Sys2Proof.Machine.execCombiningResult p s
  | .streamData gen port branch => Sys2Proof.Machine.execStreamData gen port branch s
  | .tokenBucketRefill cl cls => Sys2Proof.Machine.execTokenBucketRefill cl cls s
  | .heartbeatTimeout pkg => Sys2Proof.Machine.execHeartbeatTimeout pkg s
  | .childReplyTimeout pkg => Sys2Proof.Machine.execChildReplyTimeout pkg s
  | .inputToken port => Sys2Proof.Machine.execInputToken port s
  | .launchStart port => Sys2Proof.Machine.execLaunchStart port s
  | .instanceUnload gen => Sys2Proof.Machine.execInstanceUnload gen s
  | .reclaim gen => Sys2Proof.Machine.execReclaim gen s
  | .generationProbe gen => Sys2Proof.Machine.execGenerationProbe gen s
  | .roundToken p => Sys2Proof.Machine.execRoundToken p s
  | .platePrefetch core plate => Sys2Proof.Machine.execPlatePrefetch core plate s
  | .faultRecordArrival cl r => Sys2Proof.Machine.execFaultRecordArrival cl r s
  | .siteRecordForward cl => Sys2Proof.Machine.execSiteRecordForward cl s
  | .errorTokenIssue gen => Sys2Proof.Machine.execErrorTokenIssue gen s
  | .errorToken p => Sys2Proof.Machine.execErrorToken p s
  | .guardLogRaise cl => Sys2Proof.Machine.execGuardLogRaise cl s
  | .gangStop ix => Sys2Proof.Machine.execGangStop ix s
  | .stopComplete ix => Sys2Proof.Machine.execStopComplete ix s
  | .gangResume ix => Sys2Proof.Machine.execGangResume ix s
  | .flushCompletion ix => Sys2Proof.Machine.execFlushCompletion ix s
  | .tlbinvCompletion ix => Sys2Proof.Machine.execTlbinvCompletion ix s
  | .filler => Sys2Proof.Machine.execFiller s
  | .suspectScoreDecay => Sys2Proof.Machine.execSuspectScoreDecay s
  | .stationPacketArrival => Sys2Proof.Machine.execStationPacketArrival s
  | .heartbeat => Sys2Proof.Machine.execHeartbeat s
  | .lossOfSignal => Sys2Proof.Machine.execLossOfSignal s
  | .suspect => Sys2Proof.Machine.execSuspect s
  | .proposerCollectionEnd => Sys2Proof.Machine.execProposerCollectionEnd s
  | .propose => Sys2Proof.Machine.execPropose s
  | .accept => Sys2Proof.Machine.execAccept s
  | .commitView => Sys2Proof.Machine.execCommitView s
  | .commitWaitTimeout => Sys2Proof.Machine.execCommitWaitTimeout s
  | .viewInstall => Sys2Proof.Machine.execViewInstall s
  | .resentResult => Sys2Proof.Machine.execResentResult s
  | .graftRequest => Sys2Proof.Machine.execGraftRequest s
  | .launchToken => Sys2Proof.Machine.execLaunchToken s
  | .placementToken => Sys2Proof.Machine.execPlacementToken s
  | .placement => Sys2Proof.Machine.execPlacement s
  | .scrubError => Sys2Proof.Machine.execScrubError s
  | .opstepArrival => Sys2Proof.Machine.execOpstepArrival s
  | .evacuation => Sys2Proof.Machine.execEvacuation s
  | .opSwitch => Sys2Proof.Machine.execOpSwitch s
  | .voltageRampDone => Sys2Proof.Machine.execVoltageRampDone s
  | .stateWindowAccess => Sys2Proof.Machine.execStateWindowAccess s
  | .fmtwinWrite => Sys2Proof.Machine.execFmtwinWrite s
  | .registerWrite => Sys2Proof.Machine.execRegisterWrite s
  | .hostPostedWrite => Sys2Proof.Machine.execHostPostedWrite s
  | .hostRead => Sys2Proof.Machine.execHostRead s
  | .hostAtomicop => Sys2Proof.Machine.execHostAtomicop s
  | .powerSample => Sys2Proof.Machine.execPowerSample s
  | .thermalStop => Sys2Proof.Machine.execThermalStop s
  | .thermalPowerOff => Sys2Proof.Machine.execThermalPowerOff s
  | .coldReset => Sys2Proof.Machine.execColdReset s
  | .functionLevelReset => Sys2Proof.Machine.execFunctionLevelReset s
  | .hotReset => Sys2Proof.Machine.execHotReset s
  | .getId => Sys2Proof.Machine.execGetId s
  | .getMeas => Sys2Proof.Machine.execGetMeas s
  | .extend => Sys2Proof.Machine.execExtend s
  | .attest => Sys2Proof.Machine.execAttest s
  | .setFkey => Sys2Proof.Machine.execSetFkey s
  | .setPolicy => Sys2Proof.Machine.execSetPolicy s
  | .getTelem => Sys2Proof.Machine.execGetTelem s
  | .setPcap => Sys2Proof.Machine.execSetPcap s
  | .clrTstop => Sys2Proof.Machine.execClrTstop s
  | .reset => Sys2Proof.Machine.execReset s
  | .beatCrcFailure => Sys2Proof.Machine.execBeatCrcFailure s
  | .ualinkPeerFailure => Sys2Proof.Machine.execUalinkPeerFailure s
  | .entdaa => Sys2Proof.Machine.execEntdaa s
  | .bringUpStage => Sys2Proof.Machine.execBringUpStage s

end Sys2Proof.Machine
end

