-- ==== Sys2Proof/Machine/Fetch.lean ====
section
/-! DEFINITION. Fetching an instruction and the checks of R60 before its guard (R31, R50–R52, R56, R59, R261, R401). -/
namespace Sys2Proof.Machine

open Sys2Proof

/-- The plate that the executing context fetches from is valid (R31); a hart has plate 0 alone (R251). -/
def State.plateValid (s : State) : Bool :=
  match s.cur with
  | .ctx c _ => ((s.core c).plate s.cx.plate).st != .invalid
  | .hart _ _ => s.cx.plate == 0

/-- A word that uses a feature the part lacks (R59): an opcode of state banks, or a 4-bit or 2-bit format code in FN. -/
def State.absent (s : State) (w : Nat) : Bool :=
  let op := bitsOf w 9 2
  (!s.caps.testBit 0 && [0xC8, 0xC9, 0xCA, 0xCB].contains op)
    || (!s.caps.testBit 1 && [0x1F, 0x96].contains op && fmtNarrow (bitsOf w 33 29))

/-- The instructions that engine microcode may hold (R261). -/
def hartRuns (i : Instr) : Bool :=
  match codeOf i with
  | none => true
  | some (op, o) =>
    decide (op ≤ 0x28) || op == 0x2A || (decide (0x80 ≤ op) && decide (op ≤ 0xAB) && op != 0x95)
      || [0x30, 0x31, 0x33, 0x34, 0x35, 0x36, 0x37, 0x3A].contains op
      || (op == 0xF2 && decide (0x100 ≤ o.extBits 11 0) && decide (o.extBits 11 0 ≤ 0x7FF))
      || ((op == 0x50 || op == 0x52) && o.modBits 61 61 == 1)

/-- A hart does not execute the instruction (R261). -/
def State.forbidden (s : State) (i : Instr) : Bool := s.cur.isHart && !hartRuns i

/-- Steps 1 to 9 of R60: the instruction at the fetch address, or the cause and TVAL of the first check that fails. -/
def State.fetch (s : State) : Except (Nat × Nat) Instr :=
  let off := s.cx.off
  if !s.plateValid then .error (0x01, s.cx.plate)
  else if 8192 ≤ off then .error (0x04, 0x2000)
  else
    let w := loadN s.code off 8
    if off % 32 = 28 then
      let h := loadN s.code off 4
      if h = 0xFFFFFFFF then .ok .filler else if h % 4 = 3 then .error (0x01, h) else .error (0x04, h)
    else if lenBytes w = 0 then .error (0x01, w)
    else if 32 < off % 32 + lenBytes w then .error (0x04, off)
    else if s.absent w then .error (0x01, w)
    else
      match decodeWord (loadN s.code off (lenBytes w)) with
      | .error e => .error (e.cause, w)
      | .ok i => if s.forbidden i then .error (0x1A, 0) else .ok i

/-- An uncorrectable error in the executing context's registers or buffers (R401). -/
def State.ctxUpset (s : State) : Bool := s.cx.bad
/-- An uncorrectable error in the plate that the executing context fetches from (R401). -/
def State.plateUpset (s : State) : Bool :=
  match s.cur with
  | .ctx c _ => SMap.get false (s.core c).pbad s.cx.plate
  | .hart _ _ => false

/-- The plate is rewritten (R401). -/
def State.healPlate (s : State) : State :=
  match s.cur with
  | .ctx c _ => s.modCore c fun k => { k with pbad := SMap.put false k.pbad s.cx.plate false }
  | .hart _ _ => s

/-- The activation is delivered again; the location that its fourth detection reports the manual does not lay out (log
entry 1). -/
def State.upset (s : State) : State := s.fresh.settle 0 (s.fresh.redeliver (s.freeNat % 2 ^ 64))

/-- What the executing context does next: an instruction, or, in its place, a trap or a redelivery. -/
def State.fetched (s : State) : Except State Instr :=
  if s.ctxUpset then .error s.upset
  else if s.plateUpset then .error s.healPlate.upset
  else
    match s.fetch with
    | .ok i => .ok i
    | .error (c, v) => .error (s.trapNow c v)

/-! An instruction placed where the next fetch finds it. -/

/-- The offset at which the placed instruction stands: a filler is one only at offset 28 of a block (R51). -/
def placeAt (nbits w : Nat) : Nat := if nbits = 32 && w = 0xFFFFFFFF then 28 else 0

/-- The core with the instruction at that offset of plate 0, valid, and context 0 running there. -/
def Core.place1 (k : Core) (nbits w : Nat) : Core :=
  let p := k.plate 0
  let k := { k with pbad := SMap.put false k.pbad 0 false }
  let k := k.setPlate 0 { p with st := .active, bytes := storeBytes p.bytes (placeAt nbits w) (bytesOfWord 16 (w % 2 ^ nbits)) }
  k.setCtx 0 { k.ctx 0 with phase := .running, plate := 0, off := placeAt nbits w, bad := false, ran := 0 }

end Sys2Proof.Machine
end

