-- ==== Sys2Proof/Machine/Candidates.lean ====
section
/-! DEFINITION. What could happen next (R283): the running contexts and harts, and the steps of the hardware that are due or
whose conditions hold. -/
namespace Sys2Proof.Machine

open Sys2Proof

/-! Packets on their way. -/

/-- The event that a packet's arrival is. -/
def Pkt.arrival (p : Pkt) : Instr :=
  match p.body with
  | .sig _ _ _ _ _ | .complete _ _ _ _ => .slotSignal p
  | .sigr _ _ _ => .sigrArrival p
  | .slotadd _ _ _ => .slotaddArrival p
  | .slotset _ _ _ _ => .slotsetArrival p
  | .sendf _ _ _ _ => .sendfArrival p
  | .chan _ _ => .channelMessage p
  | .chblk _ => .chblkArrival p
  | .chunb _ => .chunbArrival p
  | .falloc _ _ _ => .fallocServe p
  | .istw _ _ _ _ _ => .istwArrival p
  | .istwClr _ _ _ _ => .istwClrArrival p
  | .isrd _ _ _ _ _ _ => .isrdArrival p
  | .rlogPut _ _ _ _ _ => .rlogPutArrival p
  | .rlogRet _ _ _ _ => .rlogRetireArrival p
  | .store _ _ _ => .storePerform p
  | .ldfar _ _ _ _ _ _ _ _ => .ldfarRead p
  | .ldfarResp _ _ _ => .ldfarCompletion p
  | .atomic _ => .atomicAtTarget p
  | .atomicResp _ _ _ => .atomicCompletion p
  | .sbevt _ _ _ _ _ _ _ _ => .eventQueueArrival p
  | .contrib _ _ _ _ => .combiningContribution p
  | .result _ _ _ _ _ | .finished _ _ _ _ _ _ => .combiningResult p
  | .round _ => .roundToken p
  | .errTok _ => .errorToken p
  | .fault r => .faultRecordArrival (clOf p.dst) r
  | .unlisted _ => .slotSignal p

/-- A packet that crosses a link of the torus, so that a stop of its partition holds it (R403, R404). -/
def Pkt.crosses (p : Pkt) : Bool :=
  match p.port with
  | some cl => p.injects cl
  | none => !p.onRing && (decide (noCore + 1024 ≤ p.src) || clOf p.dst != clOf p.org.core)

/-- The instance of a generation is stopped. -/
def State.genStopped (s : State) (gen : Nat) : Bool :=
  match s.inst? gen with
  | some i => (s.cluster i.first).stopped
  | none => false

/-- This package has accepted a proposal that is not settled (R378): what it places finally is not added to (R381). -/
def Views.settling (v : Views) : Bool :=
  v.commit.isSome || match v.round with
    | some r => r.answered && !r.reject && r.v == v.view
    | none => false

/-- A packet that stays behind one which its core has not taken yet, in the network interface or at the frame port (R129, R346). -/
def State.heldBack (s : State) (p : Pkt) : Bool :=
  let k := s.core p.dst
  k.niQ.any (fun q => ordered q p) || (p.body.target.isNone && k.portQ.any fun
    | .pkt q => ordered q p
    | _ => false)

/-- What else holds a packet: a ROUND token stays behind what the instance sent the core before it (R277; DEDUCED, log entry 37); an emission behind a
retry of its bank (R246); a result while its core's queue is full (R265); the final result of a group that spans packages,
at the site that places it in this package, while a view change is being settled (R381). -/
def State.bodyReady (s : State) (earlier : List Pkt) (p : Pkt) : Bool :=
  match p.body with
  | .round _ => !(earlier.any fun q => q.gen == p.gen && q.dst == p.dst) && !((s.core p.dst).niQ ++ (s.core p.dst).portPkts).any (·.gen == p.gen)
  | .sbevt _ _ _ _ _ _ _ (some b) =>
    !(s.timed.any fun t => match t.2 with
      | .eventRetry q => q.body.emittedBy b && q.dst == p.dst
      | _ => false)
  | .result grp n site _ v =>
    if site then
      let e := s.espOf (clOf p.dst) grp
      !(espPar e == 0 && espXpkg e && s.views.settling)
    else (s.waitingCred p.dst grp n).isSome || v.isNone || decide ((s.core p.dst).results.length < 16)
  | _ => true

/-- The packets that can arrive next, each behind the earlier ones that it follows (R129, R180, R358, R364). -/
def State.arrivals (s : State) : (earlier : List Pkt) → List Pkt → List Instr
  | _, [] => []
  | earlier, p :: t =>
    (if !(earlier.any fun q => ordered q p || (follows q p && !s.heldBack q)) && !s.heldBack p && !(s.genStopped p.gen && p.crosses) && s.bodyReady earlier p then [p.arrival] else [])
      ++ s.arrivals (snoc earlier p) t

/-- The packet of an arrival. -/
def packetOf : Instr → Option Pkt
  | .slotSignal p | .sigrArrival p | .slotaddArrival p | .slotsetArrival p | .sendfArrival p | .channelMessage p | .chblkArrival p
  | .chunbArrival p | .fallocServe p | .istwArrival p | .istwClrArrival p | .isrdArrival p | .rlogPutArrival p | .rlogRetireArrival p
  | .storePerform p | .ldfarRead p | .ldfarCompletion p | .atomicAtTarget p | .atomicCompletion p | .eventQueueArrival p
  | .combiningContribution p | .combiningResult p | .roundToken p | .errorToken p => some p
  | _ => none

/-! Steps whose conditions hold. -/

/-- The step would change something. -/
def State.moves (s : State) (i : Instr) : Bool :=
  match exec i s with
  | .next t => decide ({ t with freeCtr := s.freeCtr } ≠ s)
  | _ => false

/-- Indices of a list. -/
def indices {α : Type} (l : List α) : List Nat := List.range l.length

/-- Members of `l` under a condition. -/
def when (b : Bool) (i : Instr) : List Instr := if b then [i] else []

/-- A plate's fill can begin or end (R343). -/
def Core.fillable (k : Core) (p : Nat) : Bool :=
  (k.plate p).st == .prefetching ||
    ((k.plate p).st == .invalid && (k.sched.head?.any fun e => e.plate == p)
      && !((List.range 4).any fun q => (k.plate q).st == .prefetching))

/-- A remap that a core waits for: of a lane of its vector unit, before its next instruction, or of an array column, before its region's next
command (R399). -/
def State.remapDue (s : State) (c : Nat) (lane : Bool) : Bool :=
  s.timed.any fun t => match t.2 with
    | .quarantineRemap cl u =>
      cl == clOf c && (if lane then decide (256 ≤ u) && (u - 256) / 35 == c % 16 else decide (u < 128) && u / 32 == c % 4)
    | _ => false

/-- What a core can do by itself. -/
def State.coreSteps (s : State) (c : Nat) (k : Core) : List Instr :=
  let g := s.cluster (clOf c)
  (match k.issuer with
      | some x => [.outboundEntryIssue c x]
      | none => when (s.niPick c [] k.ni).isSome (.outboundEntryIssue c 4))
    ++ when (!g.stopped && k.nextAct.isSome) (.activationDispatch c)
    ++ when (k.ready.any (s.starved c)) (.starvationLift c)
    ++ ((k.ftab.map (·.1)).filter (s.releasable c)).map (.frameRelease c)
    ++ ((s.nextReload c).map (.frameReload c)).toList
    ++ (if g.stopped then [] else ((indices k.timers).filter fun i => (k.timers[i]?.any fun t => decide (t.at_ ≤ s.time))).map (.timerFire c))
    ++ when (!k.lane.isEmpty && decide (k.regionQ.length < 16)) (.matrixCommandAccept c)
    ++ ((indices k.regionQ).flatMap fun i => 
        when (!s.remapDue c false) (.matrixCommandStart c i) ++ [.matrixCommandComplete c i, .sbStep c i]).filter s.moves
    ++ ((indices k.engLane).map (.engineKickArrival c)).filter s.moves
    ++ ((List.range 4).filter k.fillable).map (.platePrefetch c)

/-- What a cluster's harts can do. -/
def State.hartSteps (s : State) (cl : Nat) (g : Cluster) : List Instr :=
  ((g.harts.map (·.1)).flatMap fun h =>
    (if s.engineLate cl h then [.engineWatchdog cl h] else [.engineCommandStart cl h, .engineCommandComplete cl h])).filter s.moves

/-- The first token of a port is an input token that can go on: to a running instance that is not stopped, or nowhere (R333). -/
def State.inputReady (s : State) (p : Nat) : Bool :=
  ((s.port p).tokens.head?.any fun t => tokenKind t.1 == 2) &&
    match (s.port p).stream.bind s.inst? with
    | some i => i.st == .running && !s.genStopped i.gen
    | none => true

/-- What the loader, the ports and the package-wide units can do. -/
def State.unitSteps (s : State) : List Instr :=
  let ports := s.ports.map (·.1)
  when s.booting .bringUpStage
    ++ (ports.filter s.inputReady).map .inputToken
    ++ (ports.filter s.launchReady).map .launchStart
    ++ when (ports.any s.placementReady) .placement
    ++ ((s.insts.filter fun i => (i.st == .draining || i.st == .frozen) && s.quiet i).map fun i => .instanceUnload i.gen)
    ++ ((indices s.stops).flatMap fun i => [.gangStop i, .stopComplete i, .gangResume i]).filter s.moves
    ++ (indices s.flushes).map .flushCompletion
    ++ ((indices s.tlbinvs).map .tlbinvCompletion).filter s.moves
    ++ when (s.opstage == 0 && !s.ops.isEmpty) .opstepArrival
    ++ when ((s.opstage == 1 || !s.heldFrames.isEmpty) && s.moves .evacuation) .evacuation
    ++ when s.thermalDue .thermalStop
    ++ when (decide (1920 ≤ s.host.hottest)) .thermalPowerOff
    ++ ((s.streams.filter fun t => !t.flight.isEmpty).map fun t => .streamData t.gen t.port t.branch)
    -- the 64 walkers of a die serve the oldest requests (R413)
    ++ (s.dies.flatMap fun (_, k) => (k.walks.take 64).map fun w => .tlbWalk w.cl w.page)
    ++ s.dies.flatMap fun (d, k) => ((indices k.rlog).filter fun i => (s.rlogFree d i).isSome).map (.rlogWaitingPut d)

/-- Every step of the hardware that can be next: arrivals, what is due, the oldest input from outside, and what the state of a
unit calls for. -/
def State.hwSteps (s : State) : List Instr :=
  s.arrivals [] s.net ++ ((s.timed.filter fun t => decide (t.1 ≤ s.time)).map (·.2)) ++ ((s.inputs.take 1).map (·.1))
    ++ (s.cores.flatMap fun (c, k) => s.coreSteps c k) ++ (s.clusters.flatMap fun (cl, g) => s.hartSteps cl g) ++ s.unitSteps

/-! Contexts and harts. -/

/-- The running contexts; one that has used up its watchdog limit traps instead (R115). -/
def State.ctxActors (s : State) : List Actor :=
  s.cores.flatMap fun (c, k) =>
    if (s.cluster (clOf c)).stopped || s.remapDue c true then []
    else ((k.ctxs.filter fun (_, x) => x.phase == .running).map (·.1)).map fun x =>
      if s.wdogDue c x then .hw (.watchdog c x) else .ctx c x

/-- The harts that run a forme's own microcode. -/
def State.hartActors (s : State) : List Actor :=
  s.clusters.flatMap fun (cl, g) =>
    if s.hartsHeld cl then []
    else ((g.harts.filter fun (h, t) => t.begun && !t.std && !t.finished && !s.engineLate cl h).map (·.1)).map (.hart cl)

/-- Everything that can be next. -/
def State.candidates (s : State) : List Actor := s.ctxActors ++ s.hartActors ++ s.hwSteps.map .hw

/-- Who moves: the one that the state names, or one of the candidates as the part chooses (R283; log entry 2). -/
def State.mover (s : State) : Option Actor :=
  match s.next with
  | some a => some a
  | none =>
    let l := s.candidates
    l[Config.pick s.freeCtr % l.length]?

/-! Time. -/

/-- The step begins: TIME moves on by what it takes (log entry 3), and the next free value is another. -/
def State.turn (s : State) : State :=
  { s with next := none, time := s.time + Config.elapsed s.freeCtr, freeCtr := s.freeCtr + 1 }

/-- The first of what is due is taken out of the list. -/
def takeDue (now : Nat) (i : Instr) : List (Nat × Instr) → List (Nat × Instr)
  | [] => []
  | t :: r => if t.1 ≤ now ∧ t.2 = i then r else t :: takeDue now i r

/-- A step of the hardware no longer waits: its packet leaves the network, or its entry the list of what is due. -/
def State.withdraw (s : State) (i : Instr) : State :=
  match packetOf i, i with
  | some p, _ => { s with net := removeOne p s.net }
  | none, .faultRecordArrival cl r => { s with net := s.net.eraseP fun p => p.body == .fault r && clOf p.dst == cl }
  | none, _ => { s with timed := takeDue s.time i s.timed }

/-- When something can next become due: times after now. -/
def State.dues (s : State) : List Nat :=
  let stopped (c : Nat) : Bool := (s.cluster (clOf c)).stopped
  ((s.timed.map (·.1)) ++ (s.stops.map (·.at_))
    ++ (s.cores.flatMap fun (c, k) =>
      if stopped c then []
      else (k.timers.map (·.at_))
        ++ if k.starvw = 0 then [] else (k.ready.filter fun a => decide (a.level < 255)).map fun a => a.since + s.cyc k.starvw.toNat)
    ++ s.clusters.flatMap fun (cl, g) =>
      if s.hartsHeld cl then []
      else g.harts.flatMap fun (_, t) => (t.cmd.map fun c => t.since + s.cyc (s.core c.org.core).wdog.toNat).toList).filter (s.time < ·)

/-- Nothing can be next: TIME passes until something can become due. -/
def State.idle (s : State) : State :=
  match s.dues with
  | [] => s.turn
  | d :: t => { s.turn with time := t.foldl min d }

/-! Without power. -/

/-- Every die is without power (R429). -/
def State.dark (s : State) : Bool := (List.range 8).all fun d => (s.die d).poweredOff

/-- A cold reset follows the removal of power, or is asked for. -/
def State.powerUp (s : State) : Bool := s.timed.any (fun t => t.2 == .coldReset) || s.inputs.any fun i => i.1 == .coldReset

/-- A context or hart about to execute: it is the current one, and its instruction counts (R115); of an access of several pieces it performs
one or all that are left (R295; log entry 46). -/
def State.enter (s : State) (w : Who) : State :=
  { s with cur := w }.modCx fun k => { k with ran := k.ran + 1, alone := Sys2Proof.Config.alone s.freeCtr }

end Sys2Proof.Machine
end

