-- ==== Sys2Proof/Machine/Step.lean ====
section
/-! DEFINITION. One step: somebody moves (R283). -/
namespace Sys2Proof.Machine

open Sys2Proof

/-- The next instruction of a context or hart. -/
def stepWho (w : Who) (s : State) : Host.Outcome State Fault Refusal :=
  let t := s.turn.enter w
  match t.fetched with
  | .ok i => exec i t
  | .error u => .next u

/-- One step of the package. -/
def step (s : State) : Host.Outcome State Fault Refusal :=
  if s.dark then (if s.powerUp then exec .coldReset s.turn else .fault .noPower)
  else
    match s.mover with
    | some (.ctx c x) => stepWho (.ctx c x) s
    | some (.hart cl h) => stepWho (.hart cl h) s
    | some (.hw i) => exec i (s.turn.withdraw i)
    | none => .next s.idle

/-- The instruction placed at offset 0 of plate 0 of core 0 (a filler at offset 28), with context 0 running there and moving
next. -/
def State.withFetchWord (s : State) (nbits w : Nat) : State :=
  { (s.modDie 0 fun d => { d with poweredOff := false }).modCore 0 (fun k => k.place1 nbits w) with next := some (.ctx 0 0) }

end Sys2Proof.Machine
end

