-- ==== Sys2Proof/Safety.lean ====
section
/-! DEFINITION. What statements say of states and steps: the canonical form of memory, the bounds that a running context keeps,
the condition under which an instruction goes on to the next one, and a run without a stop. -/
namespace Sys2Proof.Machine

open Sys2Proof

/-- The canonical form of a memory: addresses rise, and no byte is listed that equals what an unlisted one reads as. -/
def Memory.wf (m : List Host.Cell) : Bool := SMap.wf (0 : Byte) m

/-- Every byte memory of the package is in canonical form: HBM4, the frame SRAM of each core, the scratchpad of each cluster. -/
def State.memWf (s : State) : Bool :=
  Memory.wf s.hbm && s.cores.all (fun (_, k) => Memory.wf k.fsram) && s.clusters.all (fun (_, g) => Memory.wf g.spad)

/-- A context's place is one that fetch can reach: a multiple of 4 within the plate, or just behind it (R52, R111). -/
def Ctx.placed (k : Ctx) : Bool := k.off % 4 == 0 && decide (k.off ≤ 8192)

/-- Its buffers, links and loops keep their sizes (R14, R16). -/
def Ctx.bounded (k : Ctx) : Bool :=
  decide (k.out.length ≤ 48) && decide (k.fw.length ≤ 32) && decide (k.links.length ≤ 8) && decide (k.loops.length ≤ 2)

/-- The invariant of the machine: byte memories in canonical form, and every context and every hart within its sizes (R14, R16, R112,
R113). -/
def State.Inv (s : State) : Prop := s.memWf = true ∧ ∀ w : Who, ({ s with cur := w } : State).cx.bounded = true

/-- The guard of an instruction is 1 (R55). -/
def State.guarded1 (s : State) (o : Ops) : Prop := guardOn o s.cx = true

/-- Going on behind an instruction of `n` bytes passes over no loop end (R114). -/
def State.smooth (s : State) (n : Nat) : Prop := s.cx.skips (fallThrough s.code (s.cx.off + n)) = none

/-- The executing context after an instruction of `n` bytes (R55, R114): it stands behind it, or at a loop's start. -/
def State.onward (s : State) (n : Nat) : State := s.setCx (s.cx.goTo (fallThrough s.code (s.cx.off + n)))

/-- The instruction of `n` bytes at which the current context stands can complete: its guard is 1 and fetch goes on behind it. -/
structure State.Ready (s : State) (o : Ops) : Prop where
  guard : s.guarded1 o
  smooth : s.smooth o.form.bytes

/-! Memory as statements see it. -/

/-- A byte of a memory of the package: HBM4 behind its home slice, HBM4 itself, a scratchpad. -/
def State.byteAt (s : State) : Loc → Byte
  | .mem a => s.homeByte a
  | .side a _ => s.hbmByte a
  | .spad c o => SMap.get 0 (s.cluster c).spad o
  | _ => 0

/-- Every byte of HBM4, of the scratchpads and of the frame SRAMs reads as before. -/
def SameBytes (s t : State) : Prop :=
  (∀ l, t.byteAt l = s.byteAt l) ∧ ∀ c a, SMap.get 0 (t.core c).fsram a = SMap.get 0 (s.core c).fsram a

/-- `n` bytes at address `a` lie in the executing cluster's scratchpad at `off`, where an aligned access meets no watchpoint, no
withdrawn row, no damaged word and no furniture, and, for a load, no atomic or ISTW of the core on its way to them (R153, R154, R278,
R292, R300–R302, R401, R402). -/
structure State.PlainSpad (s : State) (a n off : Nat) (rd wr : Bool) : Prop where
  space : spaceOf s.cur.cl a = .spad s.cur.cl off
  aligned : a % n = 0
  unwatched : s.watchHit a n rd wr = none
  usable : (s.cluster s.cur.cl).usable off n = true
  sound : anyPoison (s.cluster s.cur.cl).sbad off n = false
  unpoisoned : anyPoison (s.cluster s.cur.cl).spoison off n = false
  open_ : (s.cluster s.cur.cl).firstGuarded off n = none
  settled : rd = true → s.unsettled (.spad s.cur.cl off) n = false

/-- `n` bytes at `off` of a resident own frame, aligned, within it and undamaged (R154, R157, R402). -/
structure State.PlainFrame (s : State) (fid off n : Nat) : Prop where
  own : s.cx.act.fid = some fid
  aligned : off % n = 0
  inside : off + n ≤ 256 * (((s.core s.cur.core).fent fid).len + 1)
  sound : anyPoison (s.core s.cur.core).fbad (256 * ((s.core s.cur.core).fent fid).gran + off) n = false
  unpoisoned : anyPoison (s.core s.cur.core).fpoison (256 * ((s.core s.cur.core).fent fid).gran + off) n = false

/-- The number in the scratchpad bytes that a load of the executing context reads: its youngest buffered store to each byte first,
then what its core has issued, then the bank (R159, R160). -/
def State.spadNum (s : State) (off n : Nat) : Nat :=
  natOfBytes (s.overlay (.spad s.cur.cl off) (loadBytes (s.cluster s.cur.cl).spad off n))

/-- The number in the own frame's bytes as the executing context reads them (R17). -/
def State.frameNum (s : State) (fid off n : Nat) : Nat := natOfBytes (s.ownBytes fid off n)

/-- A vector register holds `f i` in each active element of `n` bytes and zero in the others (R163). -/
def Loads (x : VReg) (n : Nat) (active : List Nat) (f : Nat → Nat) : Prop :=
  ∀ i, i < 128 / n → vElem x n i = if i ∈ active then f i else 0

/-! What statements say of a completed instruction. -/

/-- Frame-write entries are taken behind those the context holds, and fetch goes on (R16). -/
def State.takesFw (s : State) (o : Ops) (es : List FwEnt) : State :=
  (s.setCx { s.cx with fw := s.cx.fw ++ es }).onward o.form.bytes

/-- g[D] := v, and fetch goes on behind the instruction. -/
def State.givesG (s : State) (o : Ops) (v : Word) : State := (s.wg o.d.toNat v).onward o.form.bytes

/-- p[D] := b, and fetch goes on behind the instruction. -/
def State.givesP (s : State) (o : Ops) (b : Bool) : State := (s.wp o.d.toNat b).onward o.form.bytes

/-- Outbound entries are taken behind those the context holds, and fetch goes on (R16). -/
def State.takes (s : State) (o : Ops) (es : List OutEnt) : State :=
  (s.setCx { s.cx with out := s.cx.out ++ es }).onward o.form.bytes

/-- `n` more outbound entries fit (R16, R143). -/
def State.outRoom (s : State) (n : Nat) : Prop := s.cx.out.length + n ≤ 48

/-- The code of an F32 result in bits [31:0] of g[D], its flags sticky in FPCTL, and fetch goes on (R106). -/
def State.givesF (s : State) (o : Ops) (r : Nat × FFlags) : State :=
  (((s.wg o.d.toNat (BitVec.ofNat 64 r.1))).flag r.2).onward o.form.bytes

/-- A signed number limited to the 64-bit range. -/
def satSigned (i : Int) : Word := BitVec.ofInt 64 (max (-2 ^ 63) (min (2 ^ 63 - 1) i))

/-- A frame update of packet `p` that names slot `i` of frame `fid` is applied at once, to word `k` (R25, R127, R340, R346, R401): the
packet is not stale, nothing is held before it, and the frame is resident, unmoved and undamaged. -/
structure State.Lands (s : State) (p : Pkt) (fid i k : Nat) : Prop where
  fresh : s.stale p = false
  first : (s.core p.dst).portQ = []
  valid : ((s.core p.dst).fent fid).v = true
  resident : ((s.core p.dst).fent fid).res = true
  unmoved : ((s.core p.dst).fent fid).held = false
  slot : i < ((s.core p.dst).fent fid).words
  copy : s.copyOf p.dst fid i p.tag = some k
  inside : k < ((s.core p.dst).fent fid).words
  sound : ∀ w, SMap.get false (s.core p.dst).fbad w = false ∧ SMap.get false (s.core p.dst).fpoison w = false

/-- `n` bytes at `off` of cluster `cl`'s scratchpad are open to a requester for reading, and for writing when `wr` (R173, R300–R302, R401,
R402). -/
structure State.PortOpen (s : State) (cl off n : Nat) (org : Origin) (wr : Bool) : Prop where
  window : s.windowOk cl (clOf org.core) off n false = true
  writable : wr = true → s.windowOk cl (clOf org.core) off n true = true
  usable : (s.cluster cl).usable off n = true
  sound : anyPoison (s.cluster cl).sbad off n = false
  unpoisoned : anyPoison (s.cluster cl).spoison off n = false
  open_ : (s.cluster cl).firstGuarded off n = none

/-- A memory packet is not stale at its place, and nothing waits for its performance in its core's network interface (R180, R340). -/
structure State.Calm (s : State) (p : Pkt) : Prop where
  fresh : s.staleAt p = false
  idle : (s.core p.src).ni = []

/-- The frame of an activation, if it has one, is in frame SRAM (R23). -/
def State.Here (s : State) (core : Nat) (a : Act) : Prop :=
  ∀ f, a.fid = some f → ((s.core core).fent f).v = true → ((s.core core).fent f).res = true

/-- Nothing of a cluster's scratchpad is damaged, poisoned or furniture (R302, R401, R402). -/
structure Cluster.Sound (g : Cluster) : Prop where
  undamaged : ∀ w, SMap.get false g.sbad w = false
  clean : ∀ w, SMap.get false g.spoison w = false
  open_ : ∀ o, g.guarded o = false

/-- The oldest input of event `i` that waits is `x`, and `t` is the state once it has been taken (log entry 2). -/
def State.Offers (s : State) (i : Instr) (x : Input) (t : State) : Prop :=
  ∃ pre post, s.inputs = pre ++ (i, x) :: post ∧ (∀ q ∈ pre, q.1 ≠ i) ∧ t = { s with inputs := pre ++ post }

/-- Double firing finds no disagreement in the executing core's next vector instruction (R397, R398); a hart has none. -/
def State.Agreed (s : State) : Prop := ∀ c x, s.cur = .ctx c x → (s.core c).vmism = []

/-- A vector instruction leaves `(r i).1` in each active element of v[D], zero under ZI or the old contents in the others, with the flags
of the active ones, and fetch goes on (R184, R185). -/
def VecResult (s : State) (o : Ops) (t : VTy) (r : Nat → Nat × FFlags) (x : Host.Outcome State Fault Refusal) : Prop :=
  ∃ v : VReg, x = .next (((s.wv o.d.toNat v).flag (orFlags ((vactives o s t).map fun i => (r i).2))).onward o.form.bytes) ∧
    ∀ i, i < t.lanes → elem v t.w i =
      if vactive o s t i then (r i).1 % 2 ^ t.w else if zi o then 0 else elem (s.rv o.d.toNat) t.w i

/-- An outcome is the next state `t`. -/
def Goes (x : Host.Outcome State Fault Refusal) (t : State) : Prop := x = .next t

/-- A run of `n` steps meets no stop. -/
def SafeRun (n : Nat) (s : State) : Prop := ∃ t, Sys2Proof.core.run n s = .next t

/-- Everything of the package but the executing context is as before. -/
def State.SameBut (s t : State) : Prop := ∃ k, t = s.setCx k

end Sys2Proof.Machine
end

