-- ==== Sys2Proof/Certificates/Slice0/Obligations.lean ====
section
/-! DEFINITION. The statements for the provers: rules of the manual about what the machine does. -/

section Slice0

open Sys2Proof Sys2Proof.Machine

/-! Scalar integer instructions. -/

/-- R96, R97: ADD, SUB, MUL and MULH complete with the sum, the difference and the halves of the product, wrapped or limited. -/
def Sys2Proof.Claims.SumsDifferencesAndProducts : Prop :=
  ∀ (s : State) (o : Ops), s.Ready o →
    (o.fn6 = 0 → exec (.add o) s = .next (s.givesG o (BitVec.ofNat 64 ((srcA o s).toNat + (bop o s.cx).toNat)))) ∧
    (o.fn6 = 1 → exec (.add o) s = .next (s.givesG o (satSigned ((srcA o s).toInt + (bop o s.cx).toInt)))) ∧
    (o.fn6 = 2 → exec (.add o) s = .next (s.givesG o (BitVec.ofNat 64 (min ((srcA o s).toNat + (bop o s.cx).toNat) (2 ^ 64 - 1))))) ∧
    (o.fn6 = 0 → exec (.sub o) s = .next (s.givesG o (BitVec.ofInt 64 ((srcA o s).toInt - (bop o s.cx).toInt)))) ∧
    (o.fn6 = 1 → exec (.sub o) s = .next (s.givesG o (satSigned ((srcA o s).toInt - (bop o s.cx).toInt)))) ∧
    (o.fn6 = 2 → exec (.sub o) s = .next (s.givesG o (BitVec.ofNat 64 ((srcA o s).toNat - (bop o s.cx).toNat)))) ∧
    exec (.mul o) s = .next (s.givesG o (BitVec.ofNat 64 ((srcA o s).toNat * (bop o s.cx).toNat))) ∧
    (o.fn6 = 0 → exec (.mulh o) s = .next (s.givesG o (BitVec.ofInt 64 ((srcA o s).toInt * (bop o s.cx).toInt / 2 ^ 64)))) ∧
    (o.fn6 = 1 → exec (.mulh o) s = .next (s.givesG o (BitVec.ofNat 64 ((srcA o s).toNat * (bop o s.cx).toNat / 2 ^ 64)))) ∧
    (o.fn6 = 2 → exec (.mulh o) s = .next (s.givesG o (BitVec.ofInt 64 ((srcA o s).toInt * ((bop o s.cx).toNat : Int) / 2 ^ 64))))

/-- R97: AND, OR and XOR bit by bit, with Bop inverted first under `.n`; MIN and MAX are one of the two operands, and no operand
lies beyond them. -/
def Sys2Proof.Claims.BitwiseAndLesserAndGreater : Prop :=
  ∀ (s : State) (o : Ops), s.Ready o → o.fn6 ≤ 1 →
    (∃ v, exec (.and o) s = .next (s.givesG o v) ∧
      ∀ i, i < 64 → v.getLsbD i = ((srcA o s).getLsbD i && ((bop o s.cx).getLsbD i != (o.fn6 == 1)))) ∧
    (∃ v, exec (.or o) s = .next (s.givesG o v) ∧
      ∀ i, i < 64 → v.getLsbD i = ((srcA o s).getLsbD i || ((bop o s.cx).getLsbD i != (o.fn6 == 1)))) ∧
    (∃ v, exec (.xor o) s = .next (s.givesG o v) ∧
      ∀ i, i < 64 → v.getLsbD i = ((srcA o s).getLsbD i != ((bop o s.cx).getLsbD i != (o.fn6 == 1)))) ∧
    (∃ v, exec (.min o) s = .next (s.givesG o v) ∧ (v = srcA o s ∨ v = bop o s.cx) ∧
      (o.fn6 = 0 → v.toInt ≤ (srcA o s).toInt ∧ v.toInt ≤ (bop o s.cx).toInt) ∧
      (o.fn6 = 1 → v.toNat ≤ (srcA o s).toNat ∧ v.toNat ≤ (bop o s.cx).toNat)) ∧
    (∃ v, exec (.max o) s = .next (s.givesG o v) ∧ (v = srcA o s ∨ v = bop o s.cx) ∧
      (o.fn6 = 0 → (srcA o s).toInt ≤ v.toInt ∧ (bop o s.cx).toInt ≤ v.toInt) ∧
      (o.fn6 = 1 → (srcA o s).toNat ≤ v.toNat ∧ (bop o s.cx).toNat ≤ v.toNat))

/-- R98: DIV and REM complete on every pair of operands, by zero and at the overflow corner too; the remainder is
A − Bop × quotient; and the borderline results of R98's table. -/
def Obligations.DivisionNeverTraps : Prop :=
  (∀ (s : State) (o : Ops), s.Ready o → o.fn6 ≤ 1 →
    ∃ q r : Word, exec (.div o) s = .next (s.givesG o q) ∧ exec (.rem o) s = .next (s.givesG o r) ∧
      (bop o s.cx = 0 → q = 0xFFFFFFFFFFFFFFFF#64 ∧ r = srcA o s) ∧
      (bop o s.cx ≠ 0 → r = srcA o s - bop o s.cx * q) ∧
      (bop o s.cx ≠ 0 → o.fn6 = 0 → q = BitVec.ofInt 64 ((srcA o s).toInt.tdiv (bop o s.cx).toInt)) ∧
      (bop o s.cx ≠ 0 → o.fn6 = 1 → q = BitVec.ofNat 64 ((srcA o s).toNat / (bop o s.cx).toNat)) ∧
      (srcA o s = 0x8000000000000000#64 → bop o s.cx = -1#64 → o.fn6 = 0 → q = 0x8000000000000000#64 ∧ r = 0)) ∧
  divide 0 7 (-2) = -3 ∧ divide 1 7 (-2) = 0 ∧ remainder 0 7 (-2) = 1 ∧ remainder 1 7 (-2) = 7 ∧
  divide 0 (-7) 2 = -3 ∧ divide 1 (-7) 2 = 0x7FFFFFFFFFFFFFFC#64 ∧ remainder 0 (-7) 2 = -1 ∧ remainder 1 (-7) 2 = 1 ∧
  divide 1 0x8000000000000000#64 (-1) = 0 ∧ remainder 1 0x8000000000000000#64 (-1) = 0x8000000000000000#64

/-- R99: the shifts and rotations, with the amount read unsigned and every amount from 64 up; they have the REG and IMM forms
only, and SAR has FN 0 only. -/
def Sys2Proof.Claims.ShiftsAndRotations : Prop :=
  (∀ (s : State) (o : Ops), s.Ready o →
    (o.fn6 = 0 → ∃ v, exec (.shl o) s = .next (s.givesG o v) ∧
      ∀ i, i < 64 → v.getLsbD i = (decide ((bop o s.cx).toNat ≤ i) && (srcA o s).getLsbD (i - (bop o s.cx).toNat))) ∧
    (o.fn6 = 0 → ∃ v, exec (.shr o) s = .next (s.givesG o v) ∧
      ∀ i, i < 64 → v.getLsbD i = (srcA o s).getLsbD (i + (bop o s.cx).toNat)) ∧
    (∃ v, exec (.sar o) s = .next (s.givesG o v) ∧
      ∀ i, i < 64 → v.getLsbD i = (srcA o s).getLsbD (min 63 (i + (bop o s.cx).toNat))) ∧
    (o.fn6 = 1 → ∃ v, exec (.shl o) s = .next (s.givesG o v) ∧
      ∀ i, i < 64 → v.getLsbD ((i + (bop o s.cx).toNat) % 64) = (srcA o s).getLsbD i) ∧
    (o.fn6 = 1 → ∃ v, exec (.shr o) s = .next (s.givesG o v) ∧
      ∀ i, i < 64 → v.getLsbD i = (srcA o s).getLsbD ((i + (bop o s.cx).toNat) % 64))) ∧
  (∀ o : Ops, WellFormed (.shl o) = true ∨ WellFormed (.shr o) = true ∨ WellFormed (.sar o) = true →
    (o.form.kind = .reg ∨ o.form.kind = .imm) ∧ o.fn6 ≤ 1) ∧
  (∀ o : Ops, WellFormed (.sar o) = true → o.fn6 = 0)

/-- R100: CLZ and POPC of the whole register or, under `.n32`, of its low half; CLZ of zero is the width; they are REG-only with
B = 0. -/
def Obligations.LeadingZerosAndOneBits : Prop :=
  (∀ (s : State) (o : Ops) (w : Nat), s.Ready o → (o.fn6 = 0 ∧ w = 64 ∨ o.fn6 = 1 ∧ w = 32) →
    (∃ n, exec (.clz o) s = .next (s.givesG o (BitVec.ofNat 64 n)) ∧ n ≤ w ∧
      (∀ i, i < n → (srcA o s).getLsbD (w - 1 - i) = false) ∧ (n < w → (srcA o s).getLsbD (w - 1 - n) = true)) ∧
    exec (.popc o) s = .next (s.givesG o (BitVec.ofNat 64 ((List.range w).countP fun i => (srcA o s).getLsbD i)))) ∧
  (∀ o : Ops, WellFormed (.clz o) = true ∨ WellFormed (.popc o) = true → o.form.kind = .reg ∧ o.b = 0 ∧ o.fn6 ≤ 1)

/-- R101: EXT takes the bits from POS on, zeros above bit 63 of A, and extends them; DEP replaces LEN bits of its destination
from POS on, and loses what would land above bit 63. -/
def Sys2Proof.Claims.BitFieldsOfRegisters : Prop :=
  ∀ (s : State) (o : Ops) (pos len : Nat), s.Ready o → fieldOf o s.cx = (pos, len) →
    (o.fn6 = 0 → ∃ v, exec (.ext o) s = .next (s.givesG o v) ∧
      ∀ i, i < 64 → v.getLsbD i = (decide (i < len) && (srcA o s).getLsbD (pos + i))) ∧
    (o.fn6 = 1 → ∃ v, exec (.ext o) s = .next (s.givesG o v) ∧
      ∀ i, i < 64 → v.getLsbD i = (srcA o s).getLsbD (pos + min i (len - 1))) ∧
    (∃ v, exec (.dep o) s = .next (s.givesG o v) ∧
      ∀ i, i < 64 → v.getLsbD i =
        if pos ≤ i ∧ i < pos + len then (srcA o s).getLsbD (i - pos) else (s.rg o.d.toNat).getLsbD i)

/-- R96, R102: Bop by form, and the address that LEA leaves: base plus scaled index, or base plus Bop, modulo 2^64; memory,
translation and everything but g[D] and the fetch address stay. -/
def Sys2Proof.Claims.AddressesComputed : Prop :=
  ∀ (s : State) (o : Ops), s.Ready o →
    (∀ m c, o.form = .reg m c →
      exec (.lea o) s = .next (s.givesG o (BitVec.ofNat 64 ((s.rg o.a.toNat).toNat + (s.rg c.toNat).toNat * 2 ^ o.modBits 42 41)))) ∧
    (∀ i, o.form = .imm i → exec (.lea o) s = .next (s.givesG o (BitVec.ofInt 64 ((s.rg o.a.toNat).toInt + i.toInt)))) ∧
    (∀ i, o.form = .imx i → exec (.lea o) s = .next (s.givesG o (BitVec.ofInt 64 ((s.rg o.a.toNat).toInt + i.toInt)))) ∧
    (∀ m c i, o.form = .wide m c i → exec (.lea o) s = .next (s.givesG o (s.rg o.a.toNat + i)))

/-- R103: the twelve conditions of PCMP, and how the result combines with the old predicate; p0 keeps reading 1. -/
def Sys2Proof.Claims.PredicateComparisons : Prop :=
  ∀ (s : State) (o : Ops) (a b : Word) (c : Bool), s.Ready o → a = srcA o s → b = bop o s.cx →
    (o.fnBits 3 0 = 0 ∧ c = decide (a = b) ∨ o.fnBits 3 0 = 1 ∧ c = decide (a ≠ b) ∨
      o.fnBits 3 0 = 2 ∧ c = decide (a.toInt < b.toInt) ∨ o.fnBits 3 0 = 3 ∧ c = decide (b.toInt ≤ a.toInt) ∨
      o.fnBits 3 0 = 4 ∧ c = decide (a.toNat < b.toNat) ∨ o.fnBits 3 0 = 5 ∧ c = decide (b.toNat ≤ a.toNat) ∨
      o.fnBits 3 0 = 6 ∧ c = decide (b.toInt < a.toInt) ∨ o.fnBits 3 0 = 7 ∧ c = decide (a.toInt ≤ b.toInt) ∨
      o.fnBits 3 0 = 8 ∧ c = decide (b.toNat < a.toNat) ∨ o.fnBits 3 0 = 9 ∧ c = decide (a.toNat ≤ b.toNat) ∨
      o.fnBits 3 0 = 10 ∧ c = decide (a &&& b ≠ 0) ∨ o.fnBits 3 0 = 11 ∧ c = decide (a &&& b = 0)) →
    (o.fnBits 5 4 = 0 → exec (.pcmp o) s = .next (s.givesP o c)) ∧
    (o.fnBits 5 4 = 1 → exec (.pcmp o) s = .next (s.givesP o (s.rp o.d.toNat && c))) ∧
    (o.fnBits 5 4 = 2 → exec (.pcmp o) s = .next (s.givesP o (s.rp o.d.toNat || c))) ∧
    (∀ b, (s.givesP o b).rp 0 = true)

/-- R104, R105: PLOG's truth table; MOV of a register, of a sign-extended and of a zero-extended immediate, between predicates
and registers; SEL. -/
def Sys2Proof.Claims.PredicateLogicAndMoves : Prop :=
  ∀ (s : State) (o : Ops), s.Ready o →
    exec (.plog o) s = .next (s.givesP o
      (o.fn.getLsbD ((if s.rp o.a.toNat then 2 else 0) + (if s.rp o.b.toNat then 1 else 0)))) ∧
    (∀ m c, o.form = .reg m c → exec (.mov o) s = .next (s.givesG o (s.rg o.a.toNat))) ∧
    (∀ i, o.form = .imm i → exec (.mov o) s = .next (s.givesG o (BitVec.ofInt 64 i.toInt))) ∧
    (∀ i, o.form = .imx i → exec (.mov o) s = .next (s.givesG o (BitVec.ofInt 64 i.toInt))) ∧
    (∀ m c i, o.form = .wide m c i → exec (.mov o) s = .next (s.givesG o i)) ∧
    (∀ i, o.form = .imm i → exec (.movZ o) s = .next (s.givesG o (BitVec.ofNat 64 i.toNat))) ∧
    exec (.movPg o) s = .next (s.givesG o (if s.rp o.a.toNat then 1 else 0)) ∧
    exec (.movGp o) s = .next (s.givesP o (decide (s.rg o.a.toNat ≠ 0))) ∧
    exec (.sel o) s = .next (s.givesG o
      (if s.rp (o.fnBits 2 0) = true ∧ o.fnBits 3 3 = 0 ∨ s.rp (o.fnBits 2 0) = false ∧ o.fnBits 3 3 = 1
       then srcA o s else bop o s.cx))

/-! Scalar floating point. -/

/-- R106, R107: the scalar float instructions complete with the operation on the F32 patterns in bits [31:0] of their sources,
rounded once, flushed under FTZ, and with sticky flags. -/
def Sys2Proof.Claims.ScalarFloatOperations : Prop :=
  ∀ (s : State) (o : Ops) (a b c : Nat), s.Ready o →
    a = f32.flushIn s.ftz ((s.rg o.a.toNat).toNat % 2 ^ 32) →
    ((∀ m c i, o.form ≠ .wide m c i) ∧ b = f32.flushIn s.ftz ((s.rg o.b.toNat).toNat % 2 ^ 32) ∨
      ∃ m c i, o.form = .wide m c i ∧ b = f32.flushIn s.ftz (i.toNat % 2 ^ 32)) →
    c = f32.flushIn s.ftz ((s.rg o.form.c.toNat).toNat % 2 ^ 32) →
    let out := fun r : Nat × FFlags => Host.Outcome.next (s.givesF o (f32.flushOut s.ftz r))
    (o.fn = 0 → exec (.fadd o) s = out (f32.arith ((f32.decode a).add (f32.decode b)))) ∧
    (o.fn = 1 → exec (.fadd o) s = out (f32.arith ((f32.decode a).add (f32.decode b).negate))) ∧
    exec (.fmul o) s = out (f32.arith ((f32.decode a).mul (f32.decode b))) ∧
    (∀ n d, o.fn = 0 ∧ n = false ∧ d = false ∨ o.fn = 1 ∧ n = false ∧ d = true ∨ o.fn = 2 ∧ n = true ∧ d = false ∨
        o.fn = 3 ∧ n = true ∧ d = true →
      (f32.decode a).isNan = false → (f32.decode b).isNan = false → ((f32.decode a).mul (f32.decode b)).1.isNan = false →
      exec (.ffma o) s = out (f32.arith
        ((if n then ((f32.decode a).mul (f32.decode b)).1.negate else ((f32.decode a).mul (f32.decode b)).1).add
          (if d then (f32.decode c).negate else f32.decode c)))) ∧
    (∃ r, exec (.ffma o) s = out r ∧ ((f32.decode a).isNan = true ∨ (f32.decode b).isNan = true → r.1 = 0x7FC00000)) ∧
    exec (.fdiv o) s = out (fpDiv f32 a b) ∧
    exec (.fsqrt o) s = out (fpSqrt f32 a) ∧
    exec (.fmin o) s = out (f32.minMax true (o.fn == 1) a b) ∧
    exec (.fmax o) s = out (f32.minMax false (o.fn == 1) a b) ∧
    (∀ r, (s.givesF o r).cx.fpctl = s.cx.fpctl ||| r.2.word)

/-- R107: the special results of FDIV, FSQRT, FMIN and FMAX, with the flags that they set and no other. -/
def Sys2Proof.Claims.FloatSpecialResults : Prop :=
  ∀ (a b : Nat), a < 2 ^ 32 → b < 2 ^ 32 →
    ((f32.decode a).isNan = false → (f32.decode a).isInf = false → (f32.decode a).isZero = false → (f32.decode b).isZero = true →
      fpDiv f32 a b = (if a / 2 ^ 31 = b / 2 ^ 31 then 0x7F800000 else 0xFF800000, { dz := true })) ∧
    ((f32.decode a).isZero = true ∧ (f32.decode b).isZero = true ∨ (f32.decode a).isInf = true ∧ (f32.decode b).isInf = true →
      fpDiv f32 a b = (0x7FC00000, { nv := true })) ∧
    ((f32.decode a).isZero = true → fpSqrt f32 a = (a, {})) ∧
    (2 ^ 31 ≤ a → (f32.decode a).isNan = false → (f32.decode a).isZero = false → fpSqrt f32 a = (0x7FC00000, { nv := true })) ∧
    (∀ isMin, (f32.decode a).isNan = true ∨ (f32.decode b).isNan = true →
      f32.minMax isMin false a b = (0x7FC00000, { nv := (f32.decode a).isSig || (f32.decode b).isSig })) ∧
    (∀ isMin, (f32.decode a).isNan = true → (f32.decode b).isNan = false → (f32.minMax isMin true a b).1 = b) ∧
    (∀ isMin, (f32.decode a).isNan = false → (f32.decode b).isNan = true → (f32.minMax isMin true a b).1 = a) ∧
    (∀ isMin, (f32.decode a).isNan = true → (f32.decode b).isNan = true → (f32.minMax isMin true a b).1 = 0x7FC00000) ∧
    f32.minMax true false 0 0x80000000 = (0x80000000, {}) ∧ f32.minMax false false 0x80000000 0 = (0, {})

/-- R108, R109: FCMP writes its predicate by the conditions, ordered or not, and FCVT completes with the conversion between the
format X and the wide type W. -/
def Sys2Proof.Claims.FloatComparisonsAndConversions : Prop :=
  ∀ (s : State) (o : Ops) (a b : Val) (c nv : Bool), s.Ready o →
    a = f32.decode (f32In s (srcA o s)) → b = f32.decode (f32In s (fpB o s)) →
    (o.fnBits 2 0 = 0 ∧ c = (!(a.isNan || b.isNan) && a.eq b) ∧ nv = (a.isSig || b.isSig) ∨
      o.fnBits 2 0 = 1 ∧ c = ((a.isNan || b.isNan) || !a.eq b) ∧ nv = (a.isSig || b.isSig) ∨
      o.fnBits 2 0 = 2 ∧ c = (!(a.isNan || b.isNan) && a.lt b) ∧ nv = (a.isNan || b.isNan) ∨
      o.fnBits 2 0 = 3 ∧ c = (!(a.isNan || b.isNan) && (a.lt b || a.eq b)) ∧ nv = (a.isNan || b.isNan) ∨
      o.fnBits 2 0 = 4 ∧ c = (a.isNan || b.isNan) ∧ nv = (a.isSig || b.isSig)) →
    let p := fun x => Host.Outcome.next ((((s.wp o.d.toNat x)).flag { nv := nv }).onward o.form.bytes)
    (o.fnBits 5 4 = 0 → exec (.fcmp o) s = p c) ∧
    (o.fnBits 5 4 = 1 → exec (.fcmp o) s = p (s.rp o.d.toNat && c)) ∧
    (o.fnBits 5 4 = 2 → exec (.fcmp o) s = p (s.rp o.d.toNat || c)) ∧
    (∃ r, exec (.fcvt o) s = .next (s.givesF o r) ∧
      ∀ fmt w rm x : Nat, fmt = o.fnBits 4 0 → w = o.modBits 42 41 → rm = o.modBits 45 43 → x = (s.rg o.a.toNat).toNat →
        (fmt = 0x0A → w = 0 → r = f32.flushOut s.ftz (fpIntegral rm (f32.flushIn s.ftz (x % 2 ^ 32)))) ∧
        (¬(fmt = 0x0A ∧ w = 0) → o.fnBits 5 5 = 0 →
          r = (if fmt = 0x0A then f32.flushOut s.ftz else id) (fmtEncode fmt rm (toSigned 8 ((s.rg o.b.toNat).toNat % 256))
            (wideDecode w (if w = 0 then f32.flushIn s.ftz (x % 2 ^ 32) else x)))) ∧
        (¬(fmt = 0x0A ∧ w = 0) → o.fnBits 5 5 = 1 →
          r = (if w = 0 then f32.flushOut s.ftz else id) (wideEncode w rm
            (fmtDecode fmt (toSigned 8 ((s.rg o.b.toNat).toNat % 256)) (if fmt = 0x0A then f32.flushIn s.ftz (x % 2 ^ 32) else x)))))

/-! Control flow. -/

/-- R49, R52, R111, R112: BR, CALL, JMP, JMP.call and RET, with their traps: targets outside the plate, a bad JMP register, a full
and an empty link stack. A branch target in the plate is where the context goes on, loop levels settled as R115 says. The model's choices:
a CALL at 8184 pushes 8192 (log entry 31), and a bad target is found before a full link stack (log entry 32). -/
def Sys2Proof.Claims.BranchesCallsAndReturns : Prop :=
  ∀ (s : State) (o : Ops), s.guarded1 o →
    (∀ i t, o.form = .imm i → t = (s.cx.off : Int) + 4 * i.toInt →
      (0 ≤ t ∧ t ≤ 8191 → exec (.br o) s = .next (s.setCx (s.cx.branch s.cx.plate t.toNat))) ∧
      (0 ≤ t ∧ t ≤ 8191 → s.cx.links.length < 8 → exec (.call o) s = .next (s.setCx
        ({ s.cx with links := (s.cx.plate, s.cx.off + 8) :: s.cx.links }.goTo t.toNat))) ∧
      (0 ≤ t ∧ t ≤ 8191 → 8 ≤ s.cx.links.length → exec (.call o) s = .next (s.trapNow 0x01 (opWord 0x22 o))) ∧
      (t < 0 ∨ 8191 < t → exec (.br o) s = .next (s.trapNow 0x04 (BitVec.ofInt 64 t).toNat) ∧
        exec (.call o) s = .next (s.trapNow 0x04 (BitVec.ofInt 64 t).toNat))) ∧
    (∀ a, a = s.rg o.a.toNat →
      (a.toNat < 2 ^ 15 ∧ a.toNat % 4 = 0 →
        exec (.jmp o) s = .next (s.setCx (s.cx.branch (a.toNat / 2 ^ 13) (a.toNat % 2 ^ 13))) ∧
        (s.cx.links.length < 8 → exec (.jmpCall o) s = .next (s.setCx
          ({ s.cx with links := (s.cx.plate, s.cx.off + 8) :: s.cx.links, plate := a.toNat / 2 ^ 13 }.goTo (a.toNat % 2 ^ 13)))) ∧
        (8 ≤ s.cx.links.length → exec (.jmpCall o) s = .next (s.trapNow 0x01 (opWord 0x21 o)))) ∧
      (2 ^ 15 ≤ a.toNat ∨ a.toNat % 4 ≠ 0 →
        exec (.jmp o) s = .next (s.trapNow 0x04 a.toNat) ∧ exec (.jmpCall o) s = .next (s.trapNow 0x04 a.toNat))) ∧
    (s.cx.links = [] → exec (.ret o) s = .next (s.trapNow 0x01 (opWord 0x23 o))) ∧
    (∀ p t ls, s.cx.links = (p, t) :: ls → exec (.ret o) s = .next (s.setCx
      ({ s.cx with links := ls, loops := s.cx.loops.filter fun l => decide (l.lsd ≤ ls.length) }.branch p t)))

/-- R114, R115: what a branch does to the loop levels. A level of the present depth whose range excludes the target is closed, with
every level inside it; the others stay. Then, at the END of the innermost level that was opened at this depth, its count goes down:
above 1 the level starts again, at 1 it closes. Nothing else of the context changes. That the offset alone decides, whatever the plate, is
the model's reading (log entry 20). -/
def Sys2Proof.Claims.LoopLevelsAtABranch : Prop :=
  ∀ (k : Ctx) (plate t : Nat),
    (k.loops = [] → k.branch plate t = { k with plate := plate, off := t }) ∧
    (∀ inner l outer, k.loops = inner ++ l :: outer → l.lsd = k.links.length → ¬(l.start ≤ t ∧ t ≤ l.stop) →
      k.branch plate t = { k with loops := outer }.branch plate t) ∧
    ((∀ l ∈ k.loops, l.lsd = k.links.length → l.start ≤ t ∧ t ≤ l.stop) → k.branch plate t = { k with plate := plate }.goTo t) ∧
    (∀ l outer, k.loops = l :: outer → t = l.stop → l.lsd = k.links.length → 1 < l.count →
      k.goTo t = { k with off := l.start, loops := { l with count := l.count - 1 } :: outer }) ∧
    (∀ l outer, k.loops = l :: outer → t = l.stop → l.lsd = k.links.length → l.count ≤ 1 →
      k.goTo t = { k with loops := outer }.goTo t) ∧
    (∀ l outer, k.loops = l :: outer → t ≠ l.stop ∨ l.lsd ≠ k.links.length → k.goTo t = { k with off := t }) ∧
    (k.loops = [] → k.goTo t = { k with off := t })

/-- R113, R114, R116: LOOP, LOOP.x, LOOPR and LOOPM open a level behind themselves up to END, or skip to END with count 0; the count
that LOOPR and LOOPM take from 64 bits; and the traps of a bad END and of a third or wider level. The levels left by offset alone are log
entry 20's. -/
def Sys2Proof.Claims.HardwareLoops : Prop :=
  ∀ (s : State) (o : Ops) (i : Instr) (op endoff n : Nat),
    (i = .loop o ∧ op = 0x24 ∧ (∃ v, o.form = .imm v ∧ endoff = v.toNat % 2 ^ 11 ∧ n = v.toNat / 2 ^ 11) ∨
      i = .loopX o ∧ op = 0x24 ∧ (∃ m c v, o.form = .xtd m c v ∧ endoff = m.toNat % 2 ^ 11 ∧ n = v.toNat) ∨
      i = .loopr o ∧ op = 0x25 ∧ (∃ m c, o.form = .reg m c ∧ endoff = m.toNat % 2 ^ 11) ∧
        n = (if (s.rg o.a.toNat).toInt < 0 then 0 else min (s.rg o.a.toNat).toNat (2 ^ 32 - 1)) ∨
      i = .loopm o ∧ op = 0x26 ∧ (∃ m c, o.form = .reg m c ∧ endoff = m.toNat % 2 ^ 11) ∧
        n = (if (s.mailboxN (o.modBits 54 52)).toInt < 0 then 0 else min (s.mailboxN (o.modBits 54 52)).toNat (2 ^ 32 - 1))) →
    s.guarded1 o →
    let stop := s.cx.off + 4 * endoff
    (s.cx.off + o.form.bytes < stop → stop ≤ 8192 →
      (n = 0 → exec i s = .next (s.setCx (s.cx.goTo stop))) ∧
      (n ≠ 0 → s.cx.loops = [] ∨ (∃ l, s.cx.loops = [l] ∧ stop ≤ l.stop) → s.smooth o.form.bytes →
        exec i s = .next ((s.setCx { s.cx with loops :=
          { start := s.cx.off + o.form.bytes, stop := stop, count := n, lsd := s.cx.links.length } :: s.cx.loops }).onward
            o.form.bytes)) ∧
      (n ≠ 0 → 2 ≤ s.cx.loops.length ∨ (∃ l, s.cx.loops = [l] ∧ l.stop < stop) →
        exec i s = .next (s.trapNow 0x01 (opWord op o)))) ∧
    (stop ≤ s.cx.off + o.form.bytes ∨ 8192 < stop → exec i s = .next (s.trapNow 0x04 stop))

/-- R51, R55, R117: NOP changes nothing but the fetch address, whatever its guard; the filler likewise; and every Decat instruction
whose guard is 0 does what NOP does, a privileged opcode in user mode aside (R60). -/
def Obligations.GuardedOffAndNoOperation : Prop :=
  (∀ (s : State) (o : Ops), s.smooth o.form.bytes → exec (.nop o) s = .next (s.onward o.form.bytes)) ∧
  (∀ s : State, s.smooth 4 → exec .filler s = .next (s.onward 4)) ∧
  (∀ (s : State) (i : Instr) (op : Nat) (o : Ops), codeOf i = some (op, o) → guardOn o s.cx = false → s.smooth o.form.bytes →
    op < 0xFB ∨ s.cx.priv = true → exec i s = .next (s.onward o.form.bytes)) ∧
  (∀ (s : State) (n : Nat), ∃ k, s.onward n = s.setCx k ∧ k.g = s.cx.g ∧ k.v = s.cx.v ∧ k.p = s.cx.p ∧ k.m = s.cx.m ∧
    k.links = s.cx.links ∧ k.out = s.cx.out ∧ k.fw = s.cx.fw ∧ k.fpctl = s.cx.fpctl ∧ k.act = s.cx.act ∧ k.plate = s.cx.plate)

/-! The ends of an activation, exceptions and their return. -/

/-- R26, R38, R118, R119, R273, R346: EXIT and EXITS of a core's activation. With outbound entries to issue the context is in Commit, its
frame-write buffer applied in program order and emptied, its outbound buffer whole, behind the commits before it; with none the
context is idle at once, its frame writes applied, RP of the slot that EXITS fires again aside. Frame writes that reach a port at which
updates are held are held behind them, and the context stays in Commit (log entry 22). EXITS queues the same activation again with its
error flag cleared. The other contexts stay. EXIT and EXITS in a handler commit its buffers and raise the trapped activation's record. -/
def Sys2Proof.Claims.CommitOfAnActivation : Prop :=
  (∀ (s : State) (o : Ops) (c x : Nat), s.cur = .ctx c x → s.guarded1 o → s.cx.trap = none →
    ∀ (i : Instr) (after : Option Act),
      (i = .exit o ∧ after = none ∨
        i = .exits o ∧ after = some { s.cx.act with err := false, ecls := 0, redel := 0, vmis := 0 }) →
      ∃ t, exec i s = .next t ∧
        (∀ d y, ¬(d = c ∧ y = x) → (t.core d).ctx y = (s.core d).ctx y) ∧
        let inCommit := { s.cx with fw := [], phase := .committing, issued := 0, job := (s.core c).jobs, after := after }
        let direct := (s.core c).portQ = [] ∨ s.cx.fw = [] ∧ (s.core c).fwHeld x = false
        let written := fun f => s.cx.fw.flatten.foldl (fun m (e : Nat × Byte) =>
          SMap.put 0 m (256 * ((s.core c).fent f).gran + e.1) e.2) (s.core c).fsram
        (s.cx.out ≠ [] → (t.core c).ctx x = inCommit ∧
          (t.core c).commits = (s.core c).commits ++ [x] ∧ t.hbm = s.hbm ∧
          ((s.core c).fpoison = [] → t.net = s.net ∧ t.clusters = s.clusters)) ∧
        (∀ f, s.cx.act.fid = some f → (s.core c).fpoison = [] → direct →
          (s.cx.out ≠ [] → (t.core c).fsram = written f) ∧
          (s.cx.out = [] → (s.core c).portQ = [] → ∀ a, (after = none ∨
              ¬(256 * ((s.core c).fent f).gran + 8 * s.cx.act.ix ≤ a ∧ a < 256 * ((s.core c).fent f).gran + 8 * s.cx.act.ix + 8)) →
            SMap.get 0 (t.core c).fsram a = SMap.get 0 (written f) a)) ∧
        (∀ f, s.cx.act.fid = some f → (s.core c).portQ ≠ [] → s.cx.fw ≠ [] → (t.core c).ctx x = inCommit ∧
          (t.core c).fsram = (s.core c).fsram ∧ ∃ org, (t.core c).portQ = (s.core c).portQ ++ [.fw x f org s.cx.fw]) ∧
        (s.cx.out = [] → direct → (t.core c).ctx x = {} ∧ ∀ a, after = some a →
          ∃ r, (t.core c).ready = (s.core c).ready ++ { a with level := a.first, since := s.time } :: r)) ∧
  (∀ (s : State) (o : Ops) (c x : Nat) (t0 : Trapped) (i : Instr), s.cur = .ctx c x → s.guarded1 o → s.cx.trap = some t0 →
    i = .exit o ∨ i = .exits o → (s.core c).portQ = [] → ∃ t l r, exec i s = .next t ∧ t.net = l ++ [FaultRec.pkt r (clOf c)] ∧
      r.cause = t0.cause ∧ r.tval = t0.tval ∧ r.epc = t0.epc ∧ r.gen = s.cx.gen ∧
      (s.cx.out = [] → (t.core c).ctx x = {}) ∧
      (s.cx.out ≠ [] → (t.core c).ctx x = { s.cx with fw := [], phase := .committing, issued := 0, job := (s.core c).jobs, after := none }))

/-- R38, R41, R120: ABORT and ABORT.retry leave the context idle, both buffers and the registers discarded, and every other context
as it was; ABORT.retry queues the activation again, unchanged, at the tail of the level at which it was first queued. ABORT in a handler
discards its buffers and raises the trapped activation's record (R273). -/
def Sys2Proof.Claims.AbortOfAnActivation : Prop :=
  ∀ (s : State) (o : Ops) (c x : Nat), s.cur = .ctx c x → s.guarded1 o →
    (s.cx.trap = none →
      (∃ t, exec (.abort o) s = .next t ∧ (t.core c).ctx x = {} ∧
        (∀ d y, ¬(d = c ∧ y = x) → (t.core d).ctx y = (s.core d).ctx y)) ∧
      (∃ t, exec (.abortRetry o) s = .next t ∧ (t.core c).ctx x = {} ∧
        (∀ d y, ¬(d = c ∧ y = x) → (t.core d).ctx y = (s.core d).ctx y) ∧
        ∃ r, (t.core c).ready = (s.core c).ready ++ { s.cx.act with level := s.cx.act.first, since := s.time } :: r)) ∧
    (∀ t0, s.cx.trap = some t0 → ∃ t l r, exec (.abort o) s = .next t ∧ (t.core c).ctx x = {} ∧
      (∀ d y, ¬(d = c ∧ y = x) → (t.core d).ctx y = (s.core d).ctx y) ∧
      t.net = l ++ [FaultRec.pkt r (clOf c)] ∧ r.cause = t0.cause ∧ r.tval = t0.tval ∧ r.epc = t0.epc ∧ r.gen = s.cx.gen)

/-- R38, R391–R393, R15: taking an exception with TVEC.EN = 1 outside a handler. The handler starts on the same context, at the
plate and offset that TVEC names, with the registers of an activation start and empty buffers, loops and links; CAUSE, TVAL and EPC
are those of the trap; the activation, its privilege and its instance stay; STATUS.TRAP reads 1. The other contexts stay. EPC holds 13 bits
of the offset: of a fetch at 0x2000 bit 13 is dropped (the model's choice, log entry 25). -/
def Sys2Proof.Claims.ExceptionEntersHandler : Prop :=
  ∀ (s : State) (c x cause tval : Nat), s.cur = .ctx c x → s.cx.trap = none → ((s.core c).tvec).getLsbD 15 = true →
    let t := s.trapNow cause tval
    let k := (t.core c).ctx x
    t.cur = s.cur ∧
    k.cause = BitVec.ofNat 64 cause ∧ k.tval = BitVec.ofNat 64 tval ∧
    k.epc = BitVec.ofNat 64 (s.cx.plate * 2 ^ 13 + s.cx.off % 2 ^ 13) ∧
    k.plate = (s.core c).tvec.toNat / 2 ^ 13 % 4 ∧ k.off = (s.core c).tvec.toNat / 8 % 2 ^ 10 * 8 ∧
    k.phase = .running ∧ k.act = s.cx.act ∧ k.priv = s.cx.priv ∧ k.gen = s.cx.gen ∧
    k.g = [] ∧ k.v = [] ∧ k.p = [] ∧ k.m = [(0, BitVec.allOnes 128)] ∧ k.links = [] ∧ k.loops = [] ∧ k.out = [] ∧ k.fw = [] ∧
    k.fpctl = 0 ∧ k.ran = 0 ∧
    k.trap = some { act := s.cx.act, cause := cause, tval := tval, epc := s.cx.plate * 2 ^ 13 + s.cx.off % 2 ^ 13 } ∧
    (x < 4 → (k.status x).getLsbD 12 = true) ∧
    (∀ d y, ¬(d = c ∧ y = x) → (t.core d).ctx y = (s.core d).ctx y)

/-- R38, R391, R393, R394: an exception with TVEC.EN = 0 aborts the activation and raises a precise fault record against its
instance; one inside a handler raises two, the trapped activation's first. The EPC of a fetch at 0x2000 is log entry 25's choice. -/
def Sys2Proof.Claims.ExceptionRaisesRecords : Prop :=
  ∀ (s : State) (c x cause tval : Nat), s.cur = .ctx c x →
    let node := match s.cx.act.fid with
      | some f => Node.slot c f s.cx.act.ix
      | none => Node.chan c s.cx.act.ix
    let rec1 := fun (time : Nat) => ({ cause := cause, imprecise := false, tval := tval, time := time, tag := s.cx.act.tag
                                       gen := s.cx.gen, core := c, epc := s.cx.plate * 2 ^ 13 + s.cx.off % 2 ^ 13, node := node } : FaultRec)
    (s.cx.trap = none → (s.core c).tvec.getLsbD 15 = false →
      ((s.trapNow cause tval).core c).ctx x = {} ∧
      ∃ l, (s.trapNow cause tval).net = l ++ [(rec1 s.time).pkt (clOf c)]) ∧
    (∀ t0, s.cx.trap = some t0 →
      ((s.trapNow cause tval).core c).ctx x = {} ∧
      ∃ l r0, (s.trapNow cause tval).net = l ++ [FaultRec.pkt r0 (clOf c), (rec1 s.time).pkt (clOf c)] ∧
        r0.cause = t0.cause ∧ r0.tval = t0.tval ∧ r0.epc = t0.epc ∧ r0.gen = s.cx.gen ∧ r0.core = c)

/-- R272: TRAP takes an exception of the cause it names, with gA as TVAL, when that is a cause of the table, and one of cause 0x01
with its own word otherwise; BKPT takes one of cause 0x17. -/
def Sys2Proof.Claims.TrapAndBreakpoint : Prop :=
  ∀ (s : State) (o : Ops), s.guarded1 o →
    (∀ n, n = o.extBits 7 0 → (0x01 ≤ n ∧ n ≤ 0x05) ∨ (0x08 ≤ n ∧ n ≤ 0x1B) →
      exec (.trap o) s = .next (s.trapNow n (s.rg o.a.toNat).toNat)) ∧
    (∀ n, n = o.extBits 7 0 → ¬((0x01 ≤ n ∧ n ≤ 0x05) ∨ (0x08 ≤ n ∧ n ≤ 0x1B)) →
      exec (.trap o) s = .next (s.trapNow 0x01 (encodeOps 0xF0 o % 2 ^ 64))) ∧
    exec (.bkpt o) s = .next (s.trapNow 0x17 (o.extBits 15 0))

/-- R273: TRET in a handler commits the handler's buffers and queues the trapped activation again, unchanged; TRET.drop raises
its record instead; elsewhere both trap with cause 0x01. -/
def Sys2Proof.Claims.ReturnFromException : Prop :=
  ∀ (s : State) (o : Ops), s.guarded1 o →
    (∀ c x t0, s.cur = .ctx c x → s.cx.trap = some t0 → s.cx.out = [] → (s.core c).portQ = [] →
      (∃ t r, exec (.tret o) s = .next t ∧ (t.core c).ctx x = {} ∧
        (t.core c).ready = (s.core c).ready ++ { t0.act with level := t0.act.first, since := s.time } :: r) ∧
      (∃ t l r, exec (.tretDrop o) s = .next t ∧ (t.core c).ctx x = {} ∧
        t.net = l ++ [FaultRec.pkt r (clOf c)] ∧ r.cause = t0.cause ∧ r.tval = t0.tval ∧ r.epc = t0.epc)) ∧
    (∀ c x t0, s.cur = .ctx c x → s.cx.trap = some t0 → s.cx.out ≠ [] →
      (∃ t, exec (.tret o) s = .next t ∧ (t.core c).ctx x =
        { s.cx with fw := [], phase := .committing, issued := 0, job := (s.core c).jobs, after := some t0.act }) ∧
      (∃ t l r, exec (.tretDrop o) s = .next t ∧ (t.core c).ctx x =
          { s.cx with fw := [], phase := .committing, issued := 0, job := (s.core c).jobs, after := none } ∧
        t.net = l ++ [FaultRec.pkt r (clOf c)] ∧ r.cause = t0.cause ∧ r.tval = t0.tval ∧ r.epc = t0.epc)) ∧
    ((∀ c x, s.cur = .ctx c x → s.cx.trap = none) →
      exec (.tret o) s = .next (s.trapNow 0x01 (encodeOps 0xF1 o % 2 ^ 64)) ∧
      exec (.tretDrop o) s = .next (s.trapNow 0x01 (encodeOps 0xF1 o % 2 ^ 64)))

/-! Loads, stores, fences and windows of a core's context. -/

/-- R156, R157, R159, R17: LD from the own frame, from the own cluster's scratchpad and from an L1 line gives the bytes there, extended
by the size code; LDI gives the inbox's, zero from INLEN on. Nothing but g[D] and the fetch address changes. -/
def Sys2Proof.Claims.ScalarLoads : Prop :=
  ∀ (s : State) (o : Ops) (c x a n : Nat), s.cur = .ctx c x → s.Ready o → a = (memAddr o s.cx).toNat → n = 2 ^ (o.fnBits 2 0 % 4) →
    (∀ fid, o.fnBits 4 3 = 1 → s.PlainFrame fid a n →
      exec (.ld o) s = .next (s.givesG o (sizeValue (o.fnBits 2 0) (s.frameNum fid a n)))) ∧
    (∀ off, o.fnBits 4 3 = 0 → s.PlainSpad a n off true false →
      exec (.ld o) s = .next (s.givesG o (sizeValue (o.fnBits 2 0) (s.spadNum off n)))) ∧
    (∀ pa l, o.fnBits 4 3 = 0 → spaceOf s.cur.cl a = .virt a → a % n = 0 → s.watchHit a n true false = none →
      s.xlateCx .read a = .at_ (.mem pa) → s.l1Line c s.cx.act.id (pa / 64) = some l → l.poison = false →
      SMap.get false (s.core (s.l1Core c (pa / 64))).l1bad (pa / 64) = false →
      s.unsettled (.mem pa) n = false → (∀ i, i < n → l.valid.testBit ((pa + i) % 64 / 8) = true) →
      exec (.ld o) s = .next (s.givesG o (sizeValue (o.fnBits 2 0)
        (natOfBytes (s.overlay (.mem pa) ((List.range n).map fun i => l.data.getD ((pa + i) % 64) 0)))))) ∧
    (a % n = 0 → a + n ≤ 224 → s.cx.act.bad = false →
      exec (.ldi o) s = .next (s.givesG o (sizeValue (o.fnBits 2 0)
        (natOfBytes ((List.range n).map fun i => s.cx.act.inbox.getD (a + i) 0)))))

/-- R30, R153–R157: what a scalar load traps on, with the address as TVAL: an address in no space, a misaligned one, another
cluster's scratchpad, the end of the own frame; and a channel activation has no frame. -/
def Sys2Proof.Claims.LoadTraps : Prop :=
  ∀ (s : State) (o : Ops) (c x a n : Nat), s.cur = .ctx c x → s.guarded1 o → a = (memAddr o s.cx).toNat → n = 2 ^ (o.fnBits 2 0 % 4) →
    (o.fnBits 4 3 = 0 → spaceOf s.cur.cl a = .none → exec (.ld o) s = .next (s.trapNow 0x08 a)) ∧
    (o.fnBits 4 3 = 0 → spaceOf s.cur.cl a ≠ .none → a % n ≠ 0 → exec (.ld o) s = .next (s.trapNow 0x03 a)) ∧
    (∀ cl off, o.fnBits 4 3 = 0 → spaceOf s.cur.cl a = .spad cl off → cl ≠ s.cur.cl → a % n = 0 →
      s.watchHit a n true false = none → exec (.ld o) s = .next (s.trapNow 0x09 a)) ∧
    (o.fnBits 4 3 = 1 → s.cx.act.fid = none → exec (.ld o) s = .next (s.trapNow 0x09 0)) ∧
    (∀ fid, o.fnBits 4 3 = 1 → s.cx.act.fid = some fid → a % n ≠ 0 → exec (.ld o) s = .next (s.trapNow 0x03 a)) ∧
    (∀ fid, o.fnBits 4 3 = 1 → s.cx.act.fid = some fid → a % n = 0 → 256 * (((s.core s.cur.core).fent fid).len + 1) < a + n →
      exec (.ld o) s = .next (s.trapNow 0x09 a)) ∧
    (a % n ≠ 0 → exec (.ldi o) s = .next (s.trapNow 0x03 a)) ∧
    (a % n = 0 → 224 < a + n → exec (.ldi o) s = .next (s.trapNow 0x09 a))

/-- R165, R166, R413: a load whose line is in no L1 of its core does not complete: the activation is aborted and waits, at the level
at which it was first queued, for the line alone, which is requested; registers and buffers are discarded. -/
def Sys2Proof.Claims.LoadMissReplays : Prop :=
  ∀ (s : State) (o : Ops) (c x a pa : Nat), s.cur = .ctx c x → s.guarded1 o → a = (memAddr o s.cx).toNat →
    o.fnBits 4 3 = 0 → spaceOf s.cur.cl a = .virt a → a % 2 ^ (o.fnBits 2 0 % 4) = 0 →
    s.watchHit a (2 ^ (o.fnBits 2 0 % 4)) true false = none → s.xlateCx .read a = .at_ (.mem pa) →
    s.unsettled (.mem pa) (2 ^ (o.fnBits 2 0 % 4)) = false → s.l1Line c s.cx.act.id (pa / 64) = none →
    s.hasWay c (s.pinned c s.cx.act.id) (pa / 64) = true →
    (s.pinned c s.cx.act.id).length + (if (s.core c).rbOwner = some s.cx.act.id then (s.core c).rb.length else 0) < 64 →
    s.cx.trap = none →
    ∃ t, exec (.ld o) s = .next t ∧ (t.core c).ctx x = {} ∧
      (∃ l, (t.core c).misses = l ++
        [{ act := { s.cx.act with level := s.cx.act.first }, lines := [pa / 64], pages := [], forBuf := false }]) ∧
      ∃ l, t.timed = l ++ [(t.time, .l1Fill c (pa / 64))]

/-- R162, R163, R295: the vector loads give each active element the bytes at its own address and zero to the others: LDV contiguous, from
the own frame or the own scratchpad; LDVS strided; LDVX indexed. Elements of several 64-byte blocks are read together or, as the part
chooses (log entry 46), those of one block first: the context keeps them and goes on with the same instruction. -/
def Sys2Proof.Claims.VectorLoads : Prop :=
  ∀ (s : State) (o : Ops) (c x n : Nat), s.cur = .ctx c x → s.Ready o → n = vecBytes o →
    let base := s.rg o.a.toNat
    let done := fun v : VReg => Host.Outcome.next ((s.wv o.d.toNat v).onward o.form.bytes)
    let ldv := fun i => (memAddr o s.cx + BitVec.ofNat 64 (n * i)).toNat
    let ldvs := fun i => (base + BitVec.ofNat 64 i * s.rg o.b.toNat).toNat
    let ldvx := fun i => (base + BitVec.ofNat 64 (n * vElem (s.rv o.b.toNat) n i)).toNat
    (∀ fid, o.fnBits 5 5 = 1 → s.cx.act.fid = some fid → (∀ i ∈ vecActive o s, s.PlainFrame fid (ldv i) n) →
      ∃ v, exec (.ldv o) s = done v ∧ Loads v n (vecActive o s) fun i => s.frameNum fid (ldv i) n) ∧
    (∀ (i : Instr) (at_ : Nat → Nat), (i = .ldv o ∧ o.fnBits 5 5 = 0 ∧ at_ = ldv ∨ i = .ldvs o ∧ at_ = ldvs ∨ i = .ldvx o ∧ at_ = ldvx) →
      (∀ j ∈ vecActive o s, ∃ off, s.PlainSpad (at_ j) n off true false) → s.cx.part = [] →
      (s.cx.alone = 0 → ∃ v, exec i s = done v ∧ Loads v n (vecActive o s) fun j => s.spadNum (at_ j % 2 ^ 22) n) ∧
      (∀ as, s.cx.pieceNow ((vecActive o s).map at_) = some as → ∃ es, exec i s = .next (s.partDone es) ∧ es.map (·.1) = as ∧
        (∀ e ∈ es, natOfBytes e.2 = s.spadNum (e.1 % 2 ^ 22) n) ∧ (∀ a ∈ as, ∀ b ∈ as, a / 64 = b / 64) ∧ as ≠ []))

/-- R16, R154, R158, R163: a store to the own frame takes its bytes as frame-write entries, one for each aligned block of 32 bytes;
elsewhere ST takes one outbound entry with its bytes at the place of its address. Nothing is written to any memory before Commit. -/
def Sys2Proof.Claims.ScalarStores : Prop :=
  ∀ (s : State) (o : Ops) (c x a n : Nat), s.cur = .ctx c x → s.Ready o → a = (memAddr o s.cx).toNat → n = 2 ^ (o.fnBits 2 0 % 4) →
    (∀ fid, o.fnBits 4 3 = 1 → s.cx.act.fid = some fid → a % n = 0 → a + n ≤ 256 * (((s.core c).fent fid).len + 1) →
      s.cx.fw.length < 32 →
      exec (.st o) s = .next (s.takesFw o [(List.range n).map fun i => (a + i, BitVec.ofNat 8 ((s.rg o.b.toNat).toNat / 256 ^ i))]) ∧
      SameBytes s (s.takesFw o [(List.range n).map fun i => (a + i, BitVec.ofNat 8 ((s.rg o.b.toNat).toNat / 256 ^ i))])) ∧
    (∀ l, o.fnBits 4 3 = 0 → s.placeElem .write false true a n = .at_ l → s.outRoom 1 →
      exec (.st o) s = .next (s.takes o
        [s.storeEnt a ((List.range n).map fun i => (l.plus i, BitVec.ofNat 8 ((s.rg o.b.toNat).toNat / 256 ^ i)))]) ∧
      SameBytes s (s.takes o
        [s.storeEnt a ((List.range n).map fun i => (l.plus i, BitVec.ofNat 8 ((s.rg o.b.toNat).toNat / 256 ^ i)))])) ∧
    (∀ cause v, o.fnBits 4 3 = 0 → s.placeElem .write false true a n = .trap cause v →
      exec (.st o) s = .next (s.trapNow cause v)) ∧
    (∀ l, o.fnBits 4 3 = 0 → s.placeElem .write false true a n = .at_ l → s.cx.out.length = 48 →
      exec (.st o) s = .next (s.trapNow 0x0D 0))

/-- R153–R155, R158, R411: where a store's bytes go. A scratchpad address is a place of that cluster's scratchpad; a virtual address
of a page that may be written is its physical place; an address of no space, a misaligned one, a watched one and a page that may not
be written trap with their causes. -/
def Sys2Proof.Claims.PlacesOfStores : Prop :=
  ∀ (s : State) (a n : Nat),
    (spaceOf s.cur.cl a = .none → s.placeElem .write false true a n = .trap 0x08 a) ∧
    (spaceOf s.cur.cl a ≠ .none → a % n ≠ 0 → s.placeElem .write false true a n = .trap 0x03 a) ∧
    (∀ w, spaceOf s.cur.cl a ≠ .none → a % n = 0 → s.watchHit a n false true = some w →
      s.placeElem .write false true a n = .trap 0x18 w) ∧
    (∀ cl off, spaceOf s.cur.cl a = .spad cl off → a % n = 0 → s.watchHit a n false true = none →
      s.placeElem .write false true a n = .at_ (.spad cl off)) ∧
    (∀ t, spaceOf s.cur.cl a = .virt a → a % n = 0 → s.watchHit a n false true = none →
      (s.cluster s.cur.cl).ptroot.getLsbD 63 = true →
      (s.cluster s.cur.cl).tlb.find? (fun e => e.gen == s.cx.gen && decide (e.va ≤ a) && decide (a < e.va + e.size)) = some t →
      (t.attr.testBit 5 = false → s.placeElem .write false true a n = .trap 0x09 a) ∧
      (t.attr.testBit 5 = true → t.attr.testBit 11 = false → t.attr.testBit 6 = false → t.attr.testBit 10 = false →
        t.attr.testBit 7 = false →
        (t.pa + (a - t.va) < 2 ^ 40 → s.placeElem .write false true a n = .at_ (.mem (t.pa + (a - t.va)))) ∧
        (2 ^ 40 ≤ t.pa + (a - t.va) → t.pa + (a - t.va) < 2 ^ 48 → s.placeElem .write false true a n = .trap 0x08 a))) ∧
    (8 * 2 ^ 60 ≤ a → a < 8 * 2 ^ 60 + 2 ^ 32 →
      spaceOf s.cur.cl a = .spad (if a / 2 ^ 31 % 2 = 1 then s.cur.cl else a / 2 ^ 22 % 2 ^ 9) (a % 2 ^ 22)) ∧
    (a < 2 ^ 60 → spaceOf s.cur.cl a = .virt a)

/-- R16, R154, R155, R163: STV and STVX take the bytes of their active elements: STV to the own frame one entry for each aligned block of
32 bytes, elsewhere one outbound entry with the bytes at the places of their elements; STVX one for each aligned line of 64 bytes, with the
address of the first element in it. Memory is as before. The first element, in ascending order, that may not be written traps with its
cause; a channel activation has no frame; entries that do not all fit trap and none is taken. -/
def Sys2Proof.Claims.VectorStores : Prop :=
  ∀ (s : State) (o : Ops) (c x n : Nat) (data : Nat → List Byte), s.cur = .ctx c x → s.Ready o → n = vecBytes o →
    let place := fun a : Nat => s.placeElem .write false true a n
    let inFrame := fun (fid a : Nat) => a % n = 0 ∧ a + n ≤ 256 * (((s.core c).fent fid).len + 1)
    (∀ fid, o.fnBits 5 5 = 1 → s.cx.act.fid = some fid → (∀ i ∈ vecActive o s, inFrame fid (contiguous o s i).toNat) →
      ∀ es, es = fwEnts ((vecActive o s).flatMap fun i =>
          (List.range n).map fun j => ((contiguous o s i).toNat + j, BitVec.ofNat 8 (vElem (s.rv o.b.toNat) n i / 256 ^ j))) →
        (s.cx.fw.length + es.length ≤ 32 → exec (.stv o) s = .next (s.takesFw o es) ∧ SameBytes s (s.takesFw o es)) ∧
        (32 < s.cx.fw.length + es.length → exec (.stv o) s = .next (s.trapNow 0x0E 0))) ∧
    (∀ fid pre i post, o.fnBits 5 5 = 1 → s.cx.act.fid = some fid → vecActive o s = pre ++ i :: post →
      (∀ j ∈ pre, inFrame fid (contiguous o s j).toNat) → ¬inFrame fid (contiguous o s i).toNat →
      exec (.stv o) s = .next (s.trapNow (if (contiguous o s i).toNat % n ≠ 0 then 0x03 else 0x09) (contiguous o s i).toNat)) ∧
    (o.fnBits 5 5 = 1 → s.cx.act.fid = none → exec (.stv o) s = .next (s.trapNow 0x09 0)) ∧
    (∀ loc : Nat → Loc, o.fnBits 5 5 = 0 → (∀ i ∈ vecActive o s, place (contiguous o s i).toNat = .at_ (loc i)) →
      (∀ i, data i = (List.range n).map fun j => BitVec.ofNat 8 (vElem (s.rv o.b.toNat) n i / 256 ^ j)) →
      ∀ es, es = [s.storeEnt (((vecActive o s).head?.map fun i => (contiguous o s i).toNat).getD 0) ((vecActive o s).flatMap fun i =>
          (data i).mapIdx fun j b => ((loc i).plus j, b))] →
        (s.outRoom 1 → exec (.stv o) s = .next (s.takes o es) ∧ SameBytes s (s.takes o es)) ∧
        (¬s.outRoom 1 → exec (.stv o) s = .next (s.trapNow 0x0D 0))) ∧
    (∀ (loc : Nat → Loc) (es : List OutEnt) (bs : List (Nat × Placed)),
      (∀ i ∈ vecActive o s, place (indexed o s i).toNat = .at_ (loc i)) →
      (∀ i, data i = (List.range n).map fun j => BitVec.ofNat 8 (vElem (s.rv o.form.c.toNat) n i / 256 ^ j)) →
      bs = ((vecActive o s).map fun i => ((indexed o s i).toNat, (data i).mapIdx fun j b => ((loc i).plus j, b))) →
      es = (byLine bs).map (fun g =>
        s.storeEnt ((g.head?.map (·.1)).getD 0) (sortPlaced (lastWrites (g.flatMap (·.2))))) →
      (s.outRoom es.length → exec (.stvx o) s = .next (s.takes o es) ∧ SameBytes s (s.takes o es)) ∧
      (¬s.outRoom es.length → exec (.stvx o) s = .next (s.trapNow 0x0D 0))) ∧
    (∀ (i : Instr) (addr : Nat → Word) (pre post : List Nat) (j cause v : Nat),
      i = .stv o ∧ o.fnBits 5 5 = 0 ∧ addr = contiguous o s ∨ i = .stvx o ∧ addr = indexed o s →
      vecActive o s = pre ++ j :: post → (∀ m ∈ pre, ∃ l, place (addr m).toNat = .at_ l) → place (addr j).toNat = .trap cause v →
      exec i s = .next (s.trapNow cause v))

/-- R139, R167–R169, R155: LDFAR takes one entry that pins the own frame, with the places of its bytes, the frame words it will fill
and the slot it will signal; a translation fault does not trap but travels with the entry. -/
def Sys2Proof.Claims.SplitPhaseLoads : Prop :=
  ∀ (s : State) (o : Ops) (c x fid va n w : Nat) (ls : List Loc) (fault : Nat), s.cur = .ctx c x → s.Ready o →
    s.cx.act.fid = some fid → va = (s.rg o.a.toNat + s.rg o.form.c.toNat).toNat → w = o.modBits 58 50 →
    n = (if o.fnBits 3 3 = 1 then 64 else 2 ^ (o.fnBits 2 0 % 4)) →
    (va % n ≠ 0 → exec (.ldfar o) s = .next (s.trapNow 0x03 va)) ∧
    (va % n = 0 → s.ownWords fid < w + (if o.fnBits 3 3 = 1 then 8 else 1) → exec (.ldfar o) s = .next (s.trapNow 0x09 w)) ∧
    (va % n = 0 → w + (if o.fnBits 3 3 = 1 then 8 else 1) ≤ s.ownWords fid → s.placeKept .read true va n = .at_ ls fault → s.outRoom 1 →
      exec (.ldfar o) s = .next (s.takes o [{ act := .send [{ s.origin.pkt ((ls.head?.map Loc.node).getD c) 0 4
            (.ldfar (List.zip (List.range n) ls) [] va (o.fnBits 2 0) (o.fnBits 3 3 == 1) fault w
              { core := c, fid := fid, k := o.modBits 49 41
                tag := if o.modBits 59 59 = 1 then o.modBits 62 60 else s.cx.act.tag }) with src := c }], pins := some fid }])) ∧
    (∀ v cause, va < 2 ^ 60 → va % n = 0 → w + (if o.fnBits 3 3 = 1 then 8 else 1) ≤ s.ownWords fid →
      s.watchHit va n true true = none → s.xlateCx .read va = .fault cause → v = s.placeKept .read true va n → v = .at_ [] cause)

/-- R170, R171, R174, R286: PREF asks for its line and changes no register; FENCE.ACQ drops from the own L1 what its core does not
own and no replay pins; FENCE.REL marks the end of the outbound buffer; WIN takes an entry with the window's register value. -/
def Sys2Proof.Claims.PrefetchFencesAndWindows : Prop :=
  ∀ (s : State) (o : Ops) (c x : Nat), s.cur = .ctx c x → s.Ready o →
    (∀ a, a = (memAddr o s.cx).toNat → 2 ^ 60 ≤ a → exec (.pref o) s = .next (s.onward o.form.bytes)) ∧
    (∀ a pa t, a = (memAddr o s.cx).toNat → a < 2 ^ 60 → o.fnBits 0 0 = 0 →
      s.placeNow s.accessor .read a = .ok (.mem pa, t) →
      exec (.pref o) s = .next ((t.after 0 (.l1Fill c (pa / 64))).onward o.form.bytes)) ∧
    exec (.fenceAcq o) s = .next ((s.acquire c).onward o.form.bytes) ∧
    exec (.fenceRel o) s = .next ((s.setCx { s.cx with marks := s.cx.marks ++ [s.cx.out.length] }).onward o.form.bytes) ∧
    (∃ k : Ctx, exec (.fenceAcqrel o) s = .next (((s.acquire c).setCx k).onward o.form.bytes) ∧
      k = { s.cx with marks := s.cx.marks ++ [s.cx.out.length] }) ∧
    ((s.core c).l1mode = false → ∀ line l, SMap.get none ((s.acquire c).core c).l1 line = some l → l.pins = [] →
      ∀ i, i < 8 → l.valid.testBit i = true → SMap.get 0 s.owner (8 * line + i) = c + 1) ∧
    (∀ m cc d first last row rows, o.form = .desc m cc d → first = wbits d 8 0 → last = wbits d 17 9 → row = wbits d 33 18 →
      rows = wbits d 49 34 + 1 →
      (last < first ∨ 65536 < row + rows → exec (.win o) s = .next (s.trapNow 0x09 d.toNat)) ∧
      (first ≤ last → row + rows ≤ 65536 → s.outRoom 1 → ∃ v : Word,
        exec (.win o) s = .next (s.takes o [{ act := .win (o.modBits 44 41) v }]) ∧
        v.getLsbD 63 = true ∧ (v.getLsbD 62 = (o.fn == 1)) ∧ wbits v 8 0 = first ∧ wbits v 17 9 = last ∧ wbits v 33 18 = row ∧
        wbits v 49 34 + 1 = rows)) ∧
    (s.outRoom 1 → exec (.winOff o) s = .next (s.takes o [{ act := .win (o.modBits 44 41) 0 }]))
/-- R175–R178: an atomic takes one entry whose packet names its place, operator, operands and orders; with NR = 1 no completion, else the
own frame's words from W on and the slot K, the frame pinned; a fault of translation traps with NR = 1 and travels with the entry
otherwise. -/
def Obligations.AtomicsTakeAnEntry : Prop :=
  ∀ (s : State) (o : Ops) (i : Instr) (c x va n b cmp : Nat) (op : AtOp) (sx : Bool), s.cur = .ctx c x → s.Ready o →
    va = (match o.form with
      | .xtd _ _ e => (s.rg o.a.toNat + e.signExtend 64).toNat
      | _ => (s.rg o.a.toNat).toNat) →
    (i = .amo o ∧ n = 2 ^ (o.fnBits 2 0 % 4) ∧ b = (s.rg o.b.toNat).toNat % 2 ^ (8 * n) ∧ cmp = 0 ∧ sx = (o.fnBits 2 2 == 1) ∧
        (o.fnBits 5 3 = 0 ∧ op = .add ∨ o.fnBits 5 3 = 1 ∧ op = .and ∨ o.fnBits 5 3 = 2 ∧ op = .or ∨ o.fnBits 5 3 = 3 ∧ op = .xor ∨
          o.fnBits 5 3 = 4 ∧ op = .min (o.fnBits 2 2 == 1) ∨ o.fnBits 5 3 = 5 ∧ op = .max (o.fnBits 2 2 == 1) ∨
          o.fnBits 5 3 = 6 ∧ op = .swap) ∨
      i = .amof o ∧ (o.fnBits 4 0 = 0x0A ∧ n = 4 ∨ o.fnBits 4 0 = 0x0C ∧ n = 2) ∧ b = (s.rg o.b.toNat).toNat % 2 ^ (8 * n) ∧ cmp = 0 ∧
        sx = false ∧ (o.fnBits 6 5 = 0 ∧ op = .fadd (n == 2) ∨ o.fnBits 6 5 = 1 ∧ op = .fmin (n == 2) ∨
          o.fnBits 6 5 = 2 ∧ op = .fmax (n == 2)) ∨
      i = .cas o ∧ o.fnBits 3 3 = 0 ∧ n = 2 ^ (o.fnBits 2 0 % 4) ∧ b = (s.rg o.form.c.toNat).toNat % 2 ^ (8 * n) ∧
        cmp = (s.rg o.b.toNat).toNat % 2 ^ (8 * n) ∧ sx = (o.fnBits 2 2 == 1) ∧ op = .cas ∨
      i = .cas o ∧ o.fnBits 3 3 = 1 ∧ n = 16 ∧ b = (s.rg o.form.c.toNat).toNat + 2 ^ 64 * (s.rg (o.form.c.toNat + 1)).toNat ∧
        cmp = (s.rg o.b.toNat).toNat + 2 ^ 64 * (s.rg (o.b.toNat + 1)).toNat ∧ sx = false ∧ op = .cas ∨
      i = .casw o ∧ n = 32 ∧ b = (s.rv o.form.c.toNat).toNat % 2 ^ 256 ∧ cmp = (s.rv o.b.toNat).toNat % 2 ^ 256 ∧ sx = false ∧ op = .cas) →
    let req := fun (l : Loc) (fault : Nat) (res : Option (Nat × Cmpl)) =>
      ({ loc := l, va := va, n := n, op := op, b := b, cmp := cmp, sx := sx, fault := fault, res := res
         acq := o.modBits 59 59 == 1, rel := o.modBits 60 60 == 1 } : AtReq)
    let ent := fun (l : Loc) (fault : Nat) (res : Option (Nat × Cmpl)) =>
      ({ act := .send [{ s.origin.pkt l.node 0 4 (.atomic (req l fault res)) with src := c }], rel := o.modBits 60 60 == 1
         acq := o.modBits 59 59 == 1, pins := res.map fun r => r.2.fid } : OutEnt)
    (va % n ≠ 0 → exec i s = .next (s.trapNow 0x03 va)) ∧
    (va % n = 0 → o.modBits 61 61 = 1 →
      (∀ l, s.placeElem .atomic true true va n = .at_ l → s.outRoom 1 → exec i s = .next (s.takes o [ent l 0 none])) ∧
      (∀ l, s.placeElem .atomic true true va n = .at_ l → ¬s.outRoom 1 → exec i s = .next (s.trapNow 0x0D 0)) ∧
      (∀ cause v, s.placeElem .atomic true true va n = .trap cause v → exec i s = .next (s.trapNow cause v))) ∧
    (va % n = 0 → o.modBits 61 61 ≠ 1 → s.cx.act.fid = none → exec i s = .next (s.trapNow 0x09 0)) ∧
    (∀ fid w, va % n = 0 → o.modBits 61 61 ≠ 1 → s.cx.act.fid = some fid → w = o.modBits 58 50 →
      (s.ownWords fid < w + max 1 (n / 8) → exec i s = .next (s.trapNow 0x09 w)) ∧
      (∀ ls fault, w + max 1 (n / 8) ≤ s.ownWords fid → s.placeKept .atomic true va n = .at_ ls fault → s.outRoom 1 →
        exec i s = .next (s.takes o [ent (ls.headD (.guard va)) fault
          (some (w, { core := c, fid := fid, k := o.modBits 49 41, tag := s.cx.act.tag }))])))

/-! Signals, messages, frames and channels. -/

/-- R122–R126: SIG, SIGR, SLOTADD, SLOTSET and SLOTSET.keep take one entry to word K of the frame that SELF or the reference in gA names,
with the route tag of TS and T; SIGR and SLOTADD of n = 0 do nothing and of n above 65,535 trap; a bad reference traps. -/
def Sys2Proof.Claims.SlotActionsTakeAnEntry : Prop :=
  (∀ (s : State) (o : Ops) (c x : Nat) (t : Target), s.cur = .ctx c x → s.Ready o → s.outRoom 1 →
    (o.modBits 54 54 = 1 ∧ (∃ fid, s.cx.act.fid = some fid ∧ t = ⟨c, fid, none⟩) ∨
      o.modBits 54 54 ≠ 1 ∧ s.refOk (s.rg o.a.toNat) = true ∧ t = ⟨refCore (s.rg o.a.toNat), refFid (s.rg o.a.toNat),
        if refRem (s.rg o.a.toNat) then some (refPkg (s.rg o.a.toNat)) else none⟩) →
    let sends := fun (body : Body) (sig : Bool) => Host.Outcome.next (s.takes o
      [sendEnt (s.pktTo t (if o.modBits 53 53 = 1 then o.modBits 52 50 else s.cx.act.tag) 2 body) sig])
    let k := o.modBits 49 41
    let n := (s.rg o.b.toNat).toNat
    exec (.sig o) s = sends (.sig t.fid k 0 none false) true ∧
    exec (.slotset o) s = sends (.slotset t.fid k (s.rg o.b.toNat) false) false ∧
    exec (.slotsetKeep o) s = sends (.slotset t.fid k (s.rg o.b.toNat) true) false ∧
    (0 < n → n ≤ 65535 → exec (.sigr o) s = sends (.sigr t.fid k n) true ∧ exec (.slotadd o) s = sends (.slotadd t.fid k n) false) ∧
    (n = 0 → exec (.sigr o) s = .next (s.onward o.form.bytes) ∧ exec (.slotadd o) s = .next (s.onward o.form.bytes)) ∧
    (65535 < n → exec (.sigr o) s = .next (s.trapNow 0x02 n) ∧ exec (.slotadd o) s = .next (s.trapNow 0x02 n)) ∧
    (t.pkg = none → ∀ tag cls body, s.pktTo t tag cls body =
      { org := s.origin, src := c, dst := t.core, tag := tag, cls := cls, gen := s.origin.gen, body := body })) ∧
  (∀ (s : State) (o : Ops) (tval : Nat), s.guarded1 o → (s.rg o.b.toNat).toNat ≤ 65535 →
    (o.modBits 54 54 ≠ 1 ∧ s.refOk (s.rg o.a.toNat) = false ∧ tval = (s.rg o.a.toNat).toNat ∨
      o.modBits 54 54 = 1 ∧ s.cx.act.fid = none ∧ tval = 0) →
    ∀ i ∈ [Instr.sig o, .sigr o, .slotadd o, .slotset o, .slotsetKeep o], exec i s = .next (s.trapNow 0x09 tval)) ∧
  (∀ (s : State) (r : Word), s.refOk r = true ↔
    wbits r 63 60 = 0 ∧ wbits r 31 29 = 0 ∧ wbits r 15 12 = 0 ∧
      (r.getLsbD 46 = true ∧ wbits r 45 32 ∈ s.views.members ∨
        r.getLsbD 46 = false ∧ wbits r 45 32 = 0 ∧ (s.cluster (wbits r 28 20)).loaded = true ∧ (s.cluster (wbits r 28 20)).gen = s.cx.gen))

/-- R128: SIGV takes one signalling entry for each of the sixteen references of v[B] whose bit of m[C] is set, in lane order, each with
its own word and tag; the first bad one traps, and so does a buffer that they do not all fit. -/
def Sys2Proof.Claims.VectorOfSignals : Prop :=
  ∀ (s : State) (o : Ops) (c x : Nat) (refs : List Word), s.cur = .ctx c x → s.Ready o →
    refs = ((List.range 16).filter fun i => (s.rm o.form.c.toNat).getLsbD (8 * i)).map
      (fun i => BitVec.ofNat 64 ((s.rv o.b.toNat).toNat / 2 ^ (64 * i))) →
    ((∀ r ∈ refs, s.refOk r = true) → s.outRoom refs.length →
      exec (.sigv o) s = .next (s.takes o (refs.map fun r =>
        sendEnt (s.pktTo ⟨refCore r, refFid r, if refRem r then some (refPkg r) else none⟩
          (if wbits r 59 59 = 1 then wbits r 58 56 else s.cx.act.tag) 2 (.sig (refFid r) (wbits r 55 47) 0 none false)) true))) ∧
    ((∀ r ∈ refs, s.refOk r = true) → ¬s.outRoom refs.length → exec (.sigv o) s = .next (s.trapNow 0x0D 0)) ∧
    (∀ pre r post, refs = pre ++ r :: post → (∀ q ∈ pre, s.refOk q = true) → s.refOk r = false →
      exec (.sigv o) s = .next (s.trapNow 0x09 r.toNat))

/-- R131, R132, R135, R385: SEND, SENDF and ROUTE take one signalling entry: to a channel with words of the own frame, to a frame with
words and a slot, to a channel with the own inbox; ROUTE.REF gives the own frame's reference. -/
def Sys2Proof.Claims.MessagesTakeAnEntry : Prop :=
  ∀ (s : State) (o : Ops) (c x fid : Nat) (t : Target), s.cur = .ctx c x → s.Ready o → s.outRoom 1 → s.cx.act.fid = some fid →
    let r := s.rg o.a.toNat
    let named := fun (self : Nat) (own : Target) => (self = 1 ∧ t = own ∨
      self ≠ 1 ∧ s.refOk r = true ∧ t = ⟨refCore r, refFid r, if refRem r then some (refPkg r) else none⟩)
    let here := fun cls => ∀ d, t.pkg = some d → d = ownPkg ∨ cls ≠ 6
    (∀ nw src cls, nw = o.extBits 10 6 → src = o.extBits 19 11 → cls = o.extBits 26 24 → nw ≤ 28 → (2 ≤ cls ∨ s.cx.priv = true) →
      named (o.extBits 27 27) ⟨c, 0, none⟩ → here cls → src + nw ≤ s.ownWords fid →
      exec (.send o) s = .next (s.takes o [sendEnt (s.pktTo t (if o.extBits 23 23 = 1 then o.extBits 22 20 else s.cx.act.tag) cls
        (.chan (o.extBits 5 0) (bytesOfWords (s.frameWords fid src nw)))) true])) ∧
    (∀ nw src cls, nw = o.extBits 13 9 → src = o.extBits 22 14 → cls = o.extBits 38 36 → nw ≤ 28 → (2 ≤ cls ∨ s.cx.priv = true) →
      named (o.extBits 39 39) ⟨c, fid, none⟩ → src + nw ≤ s.ownWords fid →
      exec (.sendf o) s = .next (s.takes o [sendEnt (s.pktTo t (if o.extBits 35 35 = 1 then o.extBits 34 32 else s.cx.act.tag) cls
        (.sendf t.fid (o.extBits 8 0) (o.extBits 31 23) (s.frameWords fid src nw))) true])) ∧
    (∀ cls, cls = o.modBits 53 51 → (2 ≤ cls ∨ s.cx.priv = true) → named (o.modBits 54 54) ⟨c, 0, none⟩ → here cls →
      exec (.route o) s = .next (s.takes o [sendEnt (s.pktTo t (if o.modBits 50 50 = 1 then o.modBits 49 47 else s.cx.act.tag) cls
        (.chan (o.modBits 46 41) s.cx.act.inbox)) true])) ∧
    exec (.routeRef o) s = .next (s.givesG o (BitVec.ofNat 64 (c / 16 * 2 ^ 20 + c % 16 * 2 ^ 16 + fid))) ∧
    (28 < o.extBits 10 6 → exec (.send o) s = .next (s.trapNow 0x01 (opWord 0x63 o))) ∧
    (28 < o.extBits 13 9 → exec (.sendf o) s = .next (s.trapNow 0x01 (opWord 0x64 o))) ∧
    (o.extBits 10 6 ≤ 28 → o.extBits 26 24 < 2 → s.cx.priv = false → exec (.send o) s = .next (s.trapNow 0x05 (opWord 0x63 o))) ∧
    (o.extBits 13 9 ≤ 28 → o.extBits 38 36 < 2 → s.cx.priv = false → exec (.sendf o) s = .next (s.trapNow 0x05 (opWord 0x64 o))) ∧
    (o.modBits 53 51 < 2 → s.cx.priv = false → exec (.route o) s = .next (s.trapNow 0x05 (opWord 0x6B o)))

/-- R134, R136, R138: FALLOC, FFREE, CHBLK and CHUNB take one entry; FALLOC pins the own frame until its answer; FFREE frees the own
frame or, by reference, one of the own core, and traps on any other. -/
def Sys2Proof.Claims.FramesAndChannelsTakeAnEntry : Prop :=
  ∀ (s : State) (o : Ops) (c x : Nat), s.cur = .ctx c x → s.Ready o → s.outRoom 1 →
    (∀ fid, s.cx.act.fid = some fid →
      exec (.falloc o) s = .next (s.takes o [{ pins := some fid, act := .send [{ s.origin.pkt c 0 8
        (.falloc (o.modBits 62 59 + 1) (o.modBits 58 50) { core := c, fid := fid, k := o.modBits 49 41, tag := s.cx.act.tag })
          with src := c }] }]) ∧
      (o.modBits 54 54 = 1 → exec (.ffree o) s = .next (s.takes o [{ act := .ffree fid (frameRef c fid) }]))) ∧
    (o.modBits 54 54 ≠ 1 →
      (s.refOk (s.rg o.a.toNat) = true → refRem (s.rg o.a.toNat) = false → refCore (s.rg o.a.toNat) = c →
        exec (.ffree o) s = .next (s.takes o [{ act := .ffree (refFid (s.rg o.a.toNat)) (s.rg o.a.toNat) }])) ∧
      (s.refOk (s.rg o.a.toNat) = false ∨ refRem (s.rg o.a.toNat) = true ∨ refCore (s.rg o.a.toNat) ≠ c →
        exec (.ffree o) s = .next (s.trapNow 0x09 (s.rg o.a.toNat).toNat))) ∧
    (∀ t : Target, (o.modBits 54 54 = 1 ∧ t = ⟨c, 0, none⟩ ∨ o.modBits 54 54 ≠ 1 ∧ s.refOk (s.rg o.a.toNat) = true ∧
        t = ⟨refCore (s.rg o.a.toNat), refFid (s.rg o.a.toNat),
          if refRem (s.rg o.a.toNat) then some (refPkg (s.rg o.a.toNat)) else none⟩) →
      exec (.chblk o) s = .next (s.takes o [sendEnt (s.pktTo t s.cx.act.tag 2 (.chblk (o.modBits 46 41))) false]) ∧
      exec (.chunb o) s = .next (s.takes o [sendEnt (s.pktTo t s.cx.act.tag 2 (.chunb (o.modBits 46 41))) false])) ∧
    (o.modBits 54 54 = 1 → s.cx.act.fid = none → exec (.ffree o) s = .next (s.trapNow 0x09 0)) ∧
    (s.cx.act.fid = none → exec (.falloc o) s = .next (s.trapNow 0x09 0))

/-- R145, R146, R150, R151: ISTW, ISTW.clr, ISRD, RLOG put and retire and TIME.AT take one entry with the places and slots that they
name, and pin the own frame of a slot; TIME gives the package's time; a write-once address that is not a multiple of 8 traps. The cause of
a guarded page without WO, and that ISTW counts as a write and ISRD as a read for the watchpoints, are the model's reading (log entry 82). -/
def Obligations.WriteOnceLogAndTimers : Prop :=
  ∀ (s : State) (o : Ops) (c x fid va : Nat), s.cur = .ctx c x → s.Ready o → s.outRoom 1 → s.cx.act.fid = some fid →
    va = (match o.form with
      | .xtd _ _ e => (s.rg o.a.toNat + e.signExtend 64).toNat
      | _ => (s.rg o.a.toNat).toNat) →
    let slot := fun (ts t : Nat) => ({ core := c, fid := fid, k := o.modBits 49 41, tag := if ts = 1 then t else s.cx.act.tag } : Cmpl)
    let sends := fun (p : Pkt) (signal : Bool) (pins : Option Nat) =>
      Host.Outcome.next (s.takes o [{ act := .send [{ p with src := c }], signal := signal, pins := pins }])
    let logged := fun (body : Body) => sends (s.origin.pkt (sliceNode s (s.rg o.a.toNat).toNat) 0 2 body) false (some fid)
    (va % 8 ≠ 0 → ∀ i ∈ [Instr.istw o, .istwClr o, .isrd o], exec i s = .next (s.trapNow 0x03 va)) ∧
    (∀ l fault, va % 8 = 0 → s.watchHit va 8 false true = none →
      ((∃ cl off, spaceOf s.cur.cl va = .spad cl off ∧ l = .spad cl off ∧ fault = 0) ∨
        (spaceOf s.cur.cl va = .virt va ∧ (s.xlateCx .write va = .at_ l ∧ fault = (if l.isGuard && !((s.tlbAt va).any fun e => e.attr.testBit 8) then 0x0C else 0) ∨
          s.xlateCx .write va = .fault fault ∧ l = .guard va))) →
      (o.modBits 50 50 = 0 → exec (.istw o) s = sends (s.origin.pkt l.node 0 4 (.istw l va (s.rg o.b.toNat) fault none)) true none ∧
        exec (.istwClr o) s = sends (s.origin.pkt l.node 0 4 (.istwClr l va fault none)) true none) ∧
      (o.modBits 50 50 ≠ 0 → ∀ k, k = slot (o.modBits 51 51) (o.modBits 54 52) →
        exec (.istw o) s = sends (s.origin.pkt l.node 0 4 (.istw l va (s.rg o.b.toNat) fault (some k))) true (some fid) ∧
        exec (.istwClr o) s = sends (s.origin.pkt l.node 0 4 (.istwClr l va fault (some k))) true (some fid))) ∧
    (∀ l fault, va % 8 = 0 → s.watchHit va 8 true false = none →
      ((∃ cl off, spaceOf s.cur.cl va = .spad cl off ∧ l = .spad cl off ∧ fault = 0) ∨
        (spaceOf s.cur.cl va = .virt va ∧ (s.xlateCx .read va = .at_ l ∧ fault = (if l.isGuard && !((s.tlbAt va).any fun e => e.attr.testBit 8) then 0x0C else 0) ∨
          s.xlateCx .read va = .fault fault ∧ l = .guard va))) →
      exec (.isrd o) s = sends (s.origin.pkt l.node 0 4
        (.isrd l va fault (o.modBits 58 50) (slot (o.modBits 62 62) (o.modBits 61 59)) 0)) false (some fid)) ∧
    exec (.rlogPut o) s = logged (.rlogPut (s.rg o.a.toNat).toNat (wbits (s.rg o.form.c.toNat) 15 0) (wbits (s.rg o.form.c.toNat) 47 16)
      (s.rv o.b.toNat) (slot (o.modBits 50 50) (o.modBits 53 51))) ∧
    exec (.rlogRet o) s = logged (.rlogRet (s.rg o.a.toNat).toNat (wbits (s.rg o.form.c.toNat) 15 0) (wbits (s.rg o.form.c.toNat) 47 16)
      (slot (o.modBits 50 50) (o.modBits 53 51))) ∧
    exec (.timeAt o) s = .next (s.takes o
      [{ pins := some fid, act := .timer (s.rg o.a.toNat).toNat (slot (o.modBits 50 50) (o.modBits 53 51)) }]) ∧
    exec (.time o) s = .next (s.givesG o (BitVec.ofNat 64 s.time))

/-! Vector instructions. -/

/-- R182–R187, R195: the elementwise integer instructions and the bitwise ones, wrapped or limited, on every integer type, with the
elements below the count whose mask bit is set; no flag is set. -/
def Obligations.VectorIntegers : Prop :=
  ∀ (s : State) (o : Ops) (t : VTy) (a b c : Nat → Nat), s.Ready o → s.Agreed → t = vtyOf o.fn6 →
    (∀ i, a i = elem (s.rv o.a.toNat) t.w i) →
    (∀ i, b i = if o.fnBits 6 6 = 1 then (s.rg o.b.toNat).toNat % 2 ^ t.w else elem (s.rv o.b.toNat) t.w i) →
    (∀ i, c i = elem (s.rv o.form.c.toNat) t.w i) →
    let gives := fun (i : Instr) (f : Nat → Int) => VecResult s o t (fun j => ((f j % 2 ^ t.w).toNat, {})) (exec i s)
    let sat := fun x : Int => max t.lo (min t.hi x)
    let A := fun j => t.int (a j)
    let B := fun j => t.int (b j)
    (t.flt = none →
      (opf o = 0 → gives (.vadd o) (fun j => A j + B j) ∧ gives (.vsub o) (fun j => A j - B j) ∧ gives (.vmul o) (fun j => A j * B j) ∧
        gives (.vabs o) (fun j => ((A j).natAbs : Nat)) ∧ gives (.vfma o) (fun j => a j * b j + c j)) ∧
      (opf o = 1 → gives (.vadd o) (fun j => sat (A j + B j)) ∧ gives (.vsub o) (fun j => sat (A j - B j)) ∧
        gives (.vabs o) (fun j => sat ((A j).natAbs : Nat)) ∧ gives (.vmul o) (fun j => A j * B j / 2 ^ t.w)) ∧
      gives (.vdiv o) (fun j => if b j = 0 then -1 else (A j).tdiv (B j)) ∧
      gives (.vmin o) (fun j => min (A j) (B j)) ∧ gives (.vmax o) (fun j => max (A j) (B j)) ∧
      gives (.vshl o) (fun j => if b j < t.w then a j * 2 ^ b j else 0) ∧
      gives (.vshr o) (fun j => if b j < t.w then (a j / 2 ^ b j : Nat) else 0) ∧
      gives (.vsar o) (fun j => toSigned t.w (a j) / 2 ^ min (b j) (t.w - 1))) ∧
    (∀ n : Nat → Nat, (∀ j, n j = if opf o = 1 then 2 ^ t.w - 1 - b j else b j) →
      gives (.vand o) (fun j => (a j &&& n j : Nat)) ∧ gives (.vor o) (fun j => (a j ||| n j : Nat)) ∧
      gives (.vxor o) (fun j => (a j ^^^ n j : Nat))) ∧
    (∀ i, vactive o s t i = true ↔ i < t.lanes ∧ (s.rm (o.modBits 43 41)).getLsbD (t.w / 8 * i) = true ∧
      ∀ m cc e, o.form = .xtd m cc e →
        (o.extBits 13 13 = 1 → i < (s.rg (o.extBits 12 8)).toNat) ∧ (o.extBits 13 13 = 0 → i < o.extBits 7 0))

/-- R185–R188: the elementwise float instructions round once into the element type, with FTZ on F32 alone; the transcendentals, with
their exact special results and flags. -/
def Obligations.VectorFloats : Prop :=
  (∀ (s : State) (o : Ops) (t : VTy) (f : BinFmt) (a b c : Nat → Nat) (z : Bool), s.Ready o → s.Agreed → t = vtyOf o.fn6 →
    t.flt = some f → z = (s.ftz && f == f32) →
    (∀ i, a i = f.flushIn z (elem (s.rv o.a.toNat) t.w i)) →
    (∀ i, b i = f.flushIn z (if o.fnBits 6 6 = 1 then (s.rg o.b.toNat).toNat % 2 ^ t.w else elem (s.rv o.b.toNat) t.w i)) →
    (∀ i, c i = f.flushIn z (elem (s.rv o.form.c.toNat) t.w i)) →
    let gives := fun (i : Instr) (r : Nat → Nat × FFlags) => VecResult s o t (fun j => f.flushOut z (r j)) (exec i s)
    let v := fun (x : Nat → Nat) (j : Nat) => f.decode (x j)
    gives (.vadd o) (fun j => f.arith ((v a j).add (v b j))) ∧
    gives (.vsub o) (fun j => f.arith ((v a j).add (v b j).negate)) ∧
    gives (.vmul o) (fun j => f.arith ((v a j).mul (v b j))) ∧
    gives (.vdiv o) (fun j => fpDiv f (a j) (b j)) ∧
    gives (.vfma o) (fun j => fpFma f ((opf o).testBit 1) ((opf o).testBit 0) (a j) (b j) (c j)) ∧
    gives (.vmin o) (fun j => f.minMax true (opf o == 1) (a j) (b j)) ∧
    gives (.vmax o) (fun j => f.minMax false (opf o == 1) (a j) (b j)) ∧
    gives (.vabs o) (fun j => if (v a j).isNan then (f.nanCode, { nv := (v a j).isSig }) else (a j % 2 ^ (f.eb + f.fb), {})) ∧
    gives (.vsqrt o) (fun j => fpSqrt f (a j)) ∧
    (∀ i op, (i = .vrsq o ∧ op = 0x8F ∨ i = .vexp o ∧ op = 0x90 ∨ i = .vlog o ∧ op = 0x91 ∨ i = .vrcp o ∧ op = 0x92 ∨
        i = .vtanh o ∧ op = 0x93 ∨ i = .vsig o ∧ op = 0x94) →
      gives i (fun j => transcend f (f != f32) op (opf o == 1) (Config.approx op (opf o) o.fn6 (a j)) (v a j)))) ∧
  (∀ (f : BinFmt) (e : Bool) (k : Nat), f = f32 ∨ f = bf16 ∨ f = f16 →
    let r := fun (op : Nat) (x : Val) => transcend f (f != f32) op e k x
    let zero := fun n => Val.fin n 0 0 false
    (∀ op ∈ [0x8F, 0x90, 0x91, 0x92, 0x93, 0x94], ∀ sig, r op (.nan sig) = (f.nanCode, { nv := sig })) ∧
    (∀ n, r 0x92 (zero n) = (f.infCode n, { dz := true }) ∧ r 0x8F (zero n) = (f.infCode n, { dz := true }) ∧
      r 0x91 (zero n) = (f.infCode true, { dz := true }) ∧ r 0x93 (zero n) = ((f.encode 0 true (zero n)).1, {}) ∧
      r 0x92 (.inf n) = ((f.encode 0 true (zero n)).1, {})) ∧
    (∀ m x, m ≠ 0 → r 0x8F (.fin true m x false) = (f.nanCode, { nv := true }) ∧
      r 0x91 (.fin true m x false) = (f.nanCode, { nv := true })) ∧
    r 0x8F (.inf true) = (f.nanCode, { nv := true }) ∧ r 0x8F (.inf false) = (0, {}) ∧
    r 0x90 (.inf true) = (0, {}) ∧ r 0x90 (.inf false) = (f.infCode false, {}) ∧
    r 0x91 (.inf true) = (f.nanCode, { nv := true }) ∧ r 0x91 (.inf false) = (f.infCode false, {}) ∧
    r 0x91 (.ofInt 1) = (0, {}) ∧ r 0x94 (.inf true) = (0, {}))

/-- R193, R194: VCMP writes all w/8 mask bits of each active element's group, combined with the old ones, by the condition, with NV as
FCMP has it; MAND, MOR, MXOR, MNOT and MPOP. -/
def Sys2Proof.Claims.VectorComparesAndMasks : Prop :=
  ∀ (s : State) (o : Ops) (t : VTy) (a b : Nat → Nat), s.Ready o → s.Agreed → t = vtyOf o.fn6 →
    (∀ i, a i = elem (s.rv o.a.toNat) t.w i) →
    (∀ i, b i = if o.fnBits 6 6 = 1 then (s.rg o.b.toNat).toNat % 2 ^ t.w else elem (s.rv o.b.toNat) t.w i) →
    (∀ (c nv : Nat → Bool), opf o / 16 ≤ 2 →
      (t.flt = none ∧ (∀ i, nv i = false) ∧
          (opf o % 16 = 0 ∧ (∀ i, c i = decide (t.int (a i) = t.int (b i))) ∨ opf o % 16 = 1 ∧ (∀ i, c i = decide (t.int (a i) ≠ t.int (b i))) ∨
            opf o % 16 = 2 ∧ (∀ i, c i = decide (t.int (a i) < t.int (b i))) ∨ opf o % 16 = 3 ∧ (∀ i, c i = decide (t.int (a i) ≤ t.int (b i))) ∨
            opf o % 16 = 4 ∧ (∀ i, c i = decide (t.int (b i) < t.int (a i))) ∨ opf o % 16 = 5 ∧ (∀ i, c i = decide (t.int (b i) ≤ t.int (a i)))) ∨
        (∃ f, t.flt = some f ∧ ∀ i x y, x = f.decode (f.flushIn (s.ftz && f == f32) (a i)) → y = f.decode (f.flushIn (s.ftz && f == f32) (b i)) →
          (opf o % 16 = 0 ∧ c i = (!(x.isNan || y.isNan) && x.eq y) ∧ nv i = (x.isSig || y.isSig) ∨
            opf o % 16 = 1 ∧ c i = ((x.isNan || y.isNan) || !x.eq y) ∧ nv i = (x.isSig || y.isSig) ∨
            opf o % 16 = 2 ∧ c i = (!(x.isNan || y.isNan) && x.lt y) ∧ nv i = (x.isNan || y.isNan) ∨
            opf o % 16 = 3 ∧ c i = (!(x.isNan || y.isNan) && (x.lt y || x.eq y)) ∧ nv i = (x.isNan || y.isNan) ∨
            opf o % 16 = 4 ∧ c i = (!(x.isNan || y.isNan) && y.lt x) ∧ nv i = (x.isNan || y.isNan) ∨
            opf o % 16 = 5 ∧ c i = (!(x.isNan || y.isNan) && (y.lt x || y.eq x)) ∧ nv i = (x.isNan || y.isNan) ∨
            opf o % 16 = 6 ∧ c i = (x.isNan || y.isNan) ∧ nv i = (x.isSig || y.isSig)))) →
      ∃ m : MReg, exec (.vcmp o) s =
          .next (((s.wm o.d.toNat m).flag { nv := (vactives o s t).any nv }).onward o.form.bytes) ∧
        ∀ j i old, j < 128 → i = j / (t.w / 8) → old = (s.rm o.d.toNat).getLsbD j →
          m.getLsbD j = if vactive o s t i then
              (if opf o / 16 = 0 then c i else if opf o / 16 = 1 then old && c i else old || c i)
            else if zi o then false else old) ∧
    (∀ (n : MReg), n = (if opf o = 1 then ~~~(s.rm o.b.toNat) else s.rm o.b.toNat) →
      exec (.mand o) s = .next ((s.wm o.d.toNat (s.rm o.a.toNat &&& n)).onward o.form.bytes) ∧
      exec (.mor o) s = .next ((s.wm o.d.toNat (s.rm o.a.toNat ||| n)).onward o.form.bytes) ∧
      exec (.mxor o) s = .next ((s.wm o.d.toNat (s.rm o.a.toNat ^^^ n)).onward o.form.bytes)) ∧
    exec (.mnot o) s = .next ((s.wm o.d.toNat (~~~(s.rm o.a.toNat))).onward o.form.bytes) ∧
    (∀ n, n = vcount o s t.lanes →
      (opf o = 0 → exec (.mpop o) s = .next (s.givesG o (BitVec.ofNat 64
        ((List.range n).countP fun i => (s.rm o.a.toNat).getLsbD (t.w / 8 * i))))) ∧
      (opf o = 1 → ∃ k, exec (.mpop o) s = .next (s.givesG o (BitVec.ofNat 64 k)) ∧ k ≤ n ∧
        (∀ i, i < k → (s.rm o.a.toNat).getLsbD (t.w / 8 * i) = false) ∧
        (k < n → (s.rm o.a.toNat).getLsbD (t.w / 8 * k) = true)))

/-- R191, R192: VCVT converts M elements between a packed format X and lanes of W, and writes only their bits; a PART out of range
traps. -/
def Sys2Proof.Claims.VectorConversions : Prop :=
  ∀ (s : State) (o : Ops) (x w part nx m : Nat) (t : VTy), s.Ready o → s.Agreed → x = o.fnBits 4 0 → w = opf o % 8 →
    part = o.modBits 57 53 → t = laneTy w → nx = fmtBits x → m = min (1024 / t.w) (1024 / nx) →
    let up := o.fnBits 5 5 == 1
    let src := s.rv o.a.toNat
    let old := s.rv o.d.toNat
    let centre := fun q => if fmtSprig x = true ∧ o.form.c ≠ 0 then centreOf ((s.rg o.form.c.toNat).toNat / 2 ^ (8 * (q / 64)) % 256) else 0
    let done := fun (v : VReg) (fl : FFlags) => Host.Outcome.next (((s.wv o.d.toNat v).flag fl).onward o.form.bytes)
    (nx ≤ t.w → 1024 < (part + 1) * m * nx → exec (.vcvt o) s = .next (s.trapNow 0x01 (opWord 0x96 o))) ∧
    (t.w < nx → 1024 / t.w < (part + 1) * m → exec (.vcvt o) s = .next (s.trapNow 0x01 (opWord 0x96 o))) ∧
    (∀ (pos lane : Nat → Nat),
      (nx ≤ t.w ∧ (part + 1) * m * nx ≤ 1024 ∧ (∀ j, pos j = part * m + j ∧ lane j = j) ∨
        t.w < nx ∧ (part + 1) * m ≤ 1024 / t.w ∧ (∀ j, pos j = j ∧ lane j = part * m + j)) →
      ∃ v fl, exec (.vcvt o) s = done v fl ∧
        (∀ j, j < m → up = true → elem v t.w (lane j) =
          if vactive o s t (lane j) then (cvtElem s true x w (opf o / 8 % 8) (centre (pos j)) (elem src nx (pos j))).1 % 2 ^ t.w
          else if zi o then 0 else elem old t.w (lane j)) ∧
        (∀ j, j < m → up = false → elem v nx (pos j) =
          if vactive o s t (lane j) then (cvtElem s false x w (opf o / 8 % 8) (centre (pos j)) (elem src t.w (lane j))).1 % 2 ^ nx
          else if zi o then 0 else elem old nx (pos j)) ∧
        (∀ i, i < 1024 → (up = true → ∀ j, j < m → i / t.w ≠ lane j) → (up = false → ∀ j, j < m → i / nx ≠ pos j) →
          v.getLsbD i = old.getLsbD i)) ∧
    (∀ c a rm, sameType x w = false →
      (x ≠ 0x0A → cvtElem s true x w rm c a = laneEncode s w rm (fmtDecode x c a) ∧
        cvtElem s false x w rm c a = fmtEncode x rm c (laneDecode s w a)))

/-- R189, R190: VTBL reads the two words of its element's segment from the own scratchpad and interpolates; a NaN index gives the NaN
of the type; a table outside the own scratchpad and a misaligned one trap. Segments of several 64-byte blocks are read together or those of
one block first, as the part chooses (R295; log entry 46). FTZ acts on F32 elements alone, the model's reading (log entry 110). -/
def Obligations.TableInterpolation : Prop :=
  ∀ (s : State) (o : Ops) (c x a n off : Nat) (t : VTy), s.cur = .ctx c x → s.Ready o → s.Agreed → t = vtyOf o.fn6 →
    (∃ m cc d, o.form = .desc m cc d) → a = (s.rg o.a.toNat).toNat → n = opf o + 1 →
    ((∀ cl k, spaceOf s.cur.cl a = .spad cl k → cl ≠ s.cur.cl) → exec (.vtbl o) s = .next (s.trapNow 0x09 a)) ∧
    (spaceOf s.cur.cl a = .spad s.cur.cl off → a % 8 ≠ 0 → exec (.vtbl o) s = .next (s.trapNow 0x03 a)) ∧
    (spaceOf s.cur.cl a = .spad s.cur.cl off → a % 8 = 0 → 2 ^ 22 < off + 8 * n → exec (.vtbl o) s = .next (s.trapNow 0x09 a)) ∧
    (spaceOf s.cur.cl a = .spad s.cur.cl off → a % 8 = 0 → off + 8 * n ≤ 2 ^ 22 →
      (∀ k, k < n → s.PlainSpad (a + 8 * k) 8 (off + 8 * k) true false) → s.cx.part = [] →
      let at_ := fun i => a + 8 * segment (f32.decode (tblIndex s o t (elem (s.rv o.b.toNat) t.w i)).1) n
      let value := fun i =>
        let u := tblIndex s o t (elem (s.rv o.b.toNat) t.w i)
        let k := segment (f32.decode u.1) n
        let cs := s.spadNum (off + 8 * k) 8
        if (f32.decode u.1).isNan then ((t.flt.map BinFmt.nanCode).getD 0, u.2)
        else
          let r := tblElem s (o.fnBits 6 6 == 1) t u.1 n (cs % 2 ^ 32) (cs / 2 ^ 32)
          (r.1, u.2.or r.2)
      (s.cx.alone = 0 → ∃ v : VReg, exec (.vtbl o) s =
          .next (((s.wv o.d.toNat v).flag (orFlags ((vactives o s t).map fun i => (value i).2))).onward o.form.bytes) ∧
        ∀ i, i < t.lanes → elem v t.w i =
          if vactive o s t i then (value i).1 % 2 ^ t.w else if zi o then 0 else elem (s.rv o.d.toNat) t.w i) ∧
      (∀ as, s.cx.pieceNow (((vactives o s t).filter fun i =>
          !(f32.decode (tblIndex s o t (elem (s.rv o.b.toNat) t.w i)).1).isNan).map at_) = some as →
        ∃ es, exec (.vtbl o) s = .next (s.partDone es) ∧ es.map (·.1) = as ∧
          ∀ e ∈ es, natOfBytes e.2 = s.spadNum (e.1 % 2 ^ 22) 8))

/-- R195: moves, selections, broadcasts, permutations, slides, compressions, insertions and index vectors act on element patterns and
set no flag. -/
def Obligations.VectorMoves : Prop :=
  ∀ (s : State) (o : Ops) (t : VTy) (a b c : Nat → Nat) (j : Nat), s.Ready o → s.Agreed → t = vtyOf o.fn6 →
    (∀ i, a i = elem (s.rv o.a.toNat) t.w i) → (∀ i, b i = elem (s.rv o.b.toNat) t.w i) →
    (∀ i, c i = elem (s.rv o.form.c.toNat) t.w i) →
    j = (if opf o / 128 = 1 then o.extBits 31 16 else (s.rg o.b.toNat).toNat) →
    let gives := fun (i : Instr) (r : Nat → Nat) => VecResult s o t (fun k => (r k, {})) (exec i s)
    let plain := fun (i : Instr) (r : Nat → Nat) => ∃ v : VReg, exec i s = .next ((s.wv o.d.toNat v).onward o.form.bytes) ∧
      ∀ k, k < t.lanes → elem v t.w k = r k % 2 ^ t.w
    let old := elem (s.rv o.d.toNat) t.w
    gives (.vmov o) a ∧
    gives (.vbcst o) (fun _ => if opf o % 2 = 1 then (if j < t.lanes then a j else 0) else (s.rg o.a.toNat).toNat) ∧
    gives (.vperm o) (fun k => if b k < t.lanes then a (b k) else if b k < 2 * t.lanes then c (b k - t.lanes) else 0) ∧
    (opf o % 2 = 0 → gives (.vslide o) (fun k => if k + j < t.lanes then a (k + j)
      else if k + j < 2 * t.lanes ∧ opf o / 2 % 2 = 1 then c (k + j - t.lanes) else 0)) ∧
    (opf o % 2 = 1 → gives (.vslide o) (fun k => if j ≤ k then a (k - j)
      else if j ≤ t.lanes + k ∧ opf o / 2 % 2 = 1 then c (t.lanes + k - j) else 0)) ∧
    gives (.vexpd o) (fun k => a ((List.range k).countP fun q => vactive o s t q)) ∧
    plain (.vsel o) (fun k => if k < vcount o s t.lanes
      then (if (s.rm (o.modBits 43 41)).getLsbD (t.w / 8 * k) then a k else b k) else old k) ∧
    plain (.vcmpr o) (fun k => match (vactives o s t)[k]? with
      | some q => a q
      | none => if zi o then 0 else old k) ∧
    (j < t.lanes → plain (.vins o) (fun k => if k = j then (s.rg o.a.toNat).toNat else old k)) ∧
    (t.lanes ≤ j → exec (.vins o) s = .next (s.onward o.form.bytes)) ∧
    exec (.vget o) s = .next (s.givesG o (BitVec.ofInt 64 (if j < t.lanes then t.int (a j) else 0))) ∧
    (opf o = 0 → gives (.vidx o) (fun k => (s.rg o.a.toNat).toNat + k * (s.rg o.b.toNat).toNat)) ∧
    (opf o = 1 → ∃ m : MReg, exec (.vidx o) s = .next ((s.wm o.d.toNat m).onward o.form.bytes) ∧
      ∀ k, k < 128 → m.getLsbD k = decide (k / (t.w / 8) < (s.rg o.a.toNat).toNat))

/-- R90, R91, R196–R198: reductions, scans and dot products: integer sums exact modulo 2^64 or the element width, the least and the
greatest, bitwise reductions, float sums by the fixed tree and the fixed scan; tail elements of a scan stay. Where FTZ applies in them is
the model's reading (log entry 59). -/
def Sys2Proof.Claims.ReductionsScansAndDots : Prop :=
  ∀ (s : State) (o : Ops) (t : VTy) (a b : Nat → Nat), s.Ready o → s.Agreed → t = vtyOf o.fn6 →
    (∀ i, a i = elem (s.rv o.a.toNat) t.w i) → (∀ i, b i = elem (s.rv o.b.toNat) t.w i) →
    let act := vactives o s t
    let op := opf o % 8
    let A := fun i => t.int (a i)
    let done := fun (v : Word) (fl : FFlags) => Host.Outcome.next (((s.wg o.d.toNat v).flag fl).onward o.form.bytes)
    let old := s.rg o.d.toNat
    (t.flt = none →
      (op = 0 → exec (.vred o) s = .next (s.givesG o (BitVec.ofInt 64 (act.map A).sum))) ∧
      (op = 1 → ∃ r, exec (.vred o) s = .next (s.givesG o (BitVec.ofInt 64 r)) ∧ (∀ i ∈ act, r ≤ A i) ∧
        (r = t.hi ∨ ∃ i ∈ act, r = A i) ∧ r ≤ t.hi) ∧
      (op = 2 → ∃ r, exec (.vred o) s = .next (s.givesG o (BitVec.ofInt 64 r)) ∧ (∀ i ∈ act, A i ≤ r) ∧
        (r = t.lo ∨ ∃ i ∈ act, r = A i) ∧ t.lo ≤ r) ∧
      (op = 3 → ∃ v, exec (.vred o) s = .next (s.givesG o v) ∧
        ∀ k, k < 64 → v.getLsbD k = act.all fun i => (BitVec.ofInt 64 (A i)).getLsbD k) ∧
      (op = 4 → ∃ v, exec (.vred o) s = .next (s.givesG o v) ∧
        ∀ k, k < 64 → v.getLsbD k = act.any fun i => (BitVec.ofInt 64 (A i)).getLsbD k) ∧
      (op = 5 → ∃ v, exec (.vred o) s = .next (s.givesG o v) ∧
        ∀ k, k < 64 → v.getLsbD k = ((act.countP fun i => (BitVec.ofInt 64 (A i)).getLsbD k) % 2 == 1)) ∧
      (opf o = 0 → exec (.vdot o) s = .next (s.givesG o (BitVec.ofInt 64 (act.map fun i => A i * t.int (b i)).sum))) ∧
      (opf o = 1 → exec (.vdot o) s = .next (s.givesG o (BitVec.ofInt 64 ((act.map fun i => A i * t.int (b i)).sum + old.toInt)))) ∧
      (op = 0 → ∃ v : VReg, exec (.vscan o) s = .next ((s.wv o.d.toNat v).onward o.form.bytes) ∧
        ∀ i, i < t.lanes → elem v t.w i =
          if vactive o s t i then ((((act.filter (· ≤ i)).map A).sum) % 2 ^ t.w).toNat
          else if zi o = true ∧ i < vcount o s t.lanes then 0 else elem (s.rv o.d.toNat) t.w i) ∧
      (op = 1 ∨ op = 2 → ∃ v : VReg, exec (.vscan o) s = .next ((s.wv o.d.toNat v).onward o.form.bytes) ∧
        ∀ i, i < t.lanes → elem v t.w i =
          if vactive o s t i then ((((act.filter (· ≤ i)).map A).foldl (fun x y => if op = 1 then min x y else max x y)
            (if op = 1 then t.hi else t.lo)) % 2 ^ t.w).toNat
          else if zi o = true ∧ i < vcount o s t.lanes then 0 else elem (s.rv o.d.toNat) t.w i)) ∧
    (∀ f, t.flt = some f →
      let v := fun (x : Nat → Nat) (i : Nat) => f.decode (f.flushIn (s.ftz && f == f32) (x i))
      let tree := sumTree 7 ((List.range t.lanes).map fun i => if act.contains i then v a i else .zero)
      let dots := sumTree 7 ((List.range t.lanes).map fun i => if act.contains i then ((v a i).mul (v b i)).1 else .zero)
      let bad := ({ nv := act.any fun i => ((v a i).mul (v b i)).2 } : FFlags)
      (op = 0 → ∀ r, r = f32.flushOut s.ftz (f32Code tree.1, tree.2) → exec (.vred o) s = done (BitVec.ofNat 64 r.1) r.2) ∧
      (op = 1 ∨ op = 2 → ∀ r, r = f32.flushOut s.ftz (act.foldl (fun r i => (f32.minMax (op == 1) false r
          (f32Code (if (v a i).isNan then .nan false else v a i))).1) (f32.infCode (op == 2)), { nv := act.any fun i => (v a i).isSig }) →
        exec (.vred o) s = done (BitVec.ofNat 64 r.1) r.2) ∧
      (opf o = 0 → exec (.vdot o) s = done (BitVec.ofNat 64 (f32Code dots.1)) (dots.2.or bad)) ∧
      (opf o = 1 → ∀ r, r = f32.arith (dots.1.add (f32.decode (f32.flushIn s.ftz (old.toNat % 2 ^ 32)))) →
        exec (.vdot o) s = done (BitVec.ofNat 64 r.1) ((dots.2.or bad).or r.2)) ∧
      (op = 0 → ∀ y, y = (scanAdd f 7 1 ((List.range (vcount o s t.lanes)).map fun k =>
          if vactive o s t k then
            (if (v a k).isNan then (f.nanCode, { nv := (v a k).isSig }) else (f.flushIn (s.ftz && f == f32) (a k), {}))
          else (0, {}))).map (f.flushOut (s.ftz && f == f32)) →
        ∃ w : VReg, exec (.vscan o) s = .next (((s.wv o.d.toNat w).flag
            (orFlags (y.mapIdx fun i r => if vactive o s t i then r.2 else {}))).onward o.form.bytes) ∧
          ∀ i, i < t.lanes → elem w t.w i =
            if vactive o s t i then (y.getD i (0, {})).1 % 2 ^ t.w
            else if zi o = true ∧ i < vcount o s t.lanes then 0 else elem (s.rv o.d.toNat) t.w i) ∧
      (op = 1 ∨ op = 2 → f = f32 ∨ f = bf16 ∨ f = f16 → ∃ w : VReg, exec (.vscan o) s =
          .next (((s.wv o.d.toNat w).flag { nv := act.any fun i => (v a i).isSig }).onward o.form.bytes) ∧
        ∀ i, i < t.lanes → vactive o s t i = true → (∀ k ∈ act, (v a k).isNan = false) →
          elem w t.w i = ((act.filter (· ≤ i)).map fun k => f.flushIn (s.ftz && f == f32) (a k)).foldl
            (fun x y => (f.minMax (op == 1) false x y).1) (f.infCode (op == 2)) % 2 ^ t.w)) ∧
    (∀ x y l, (treeLevel (x :: y :: l)).1 = f32.decode (f32.arith (x.add y)).1 :: (treeLevel l).1) ∧
    (∀ f d y i, i < y.length → ((scanStep f d y).getD i (0, {})).1 =
      if i < d then (y.getD i (0, {})).1
      else (f.arith ((f.decode (y.getD (i - d) (0, {})).1).add (f.decode (y.getD i (0, {})).1))).1)

/-- R199–R201: HSIFT offers each active candidate to a min-heap in v[D], HSIFT.C to a heap for each column; a candidate that does not
rank above the root, a NaN key and index 0xFFFFFFFF leave the heap; otherwise the candidate replaces the root and sifts down. That a NaN
key sets no flag is the model's choice (log entry 28). -/
def Sys2Proof.Claims.HeapSifts : Prop :=
  (∀ (s : State) (o : Ops) (t : VTy) (k : Nat), s.Ready o → s.Agreed → t = vtyOf o.fn6 → k = opf o + 1 → k ≤ 16 →
    ∃ v : VReg, exec (.hsift o) s = .next ((s.wv o.d.toNat v).onward o.form.bytes) ∧
      (∀ i, k ≤ i → i < 16 → elem v 64 i = elem (s.rv o.d.toNat) 64 i) ∧
      ∀ i, i < k → BitVec.ofNat 64 (elem v 64 i) = ((vactives o s t).foldl (fun h i =>
        offer (keyTy o s) k h (elem (s.rv o.a.toNat) 32 i) (((s.rg o.b.toNat).toNat + i) % 2 ^ 32))
        ((List.range k).map fun i => BitVec.ofNat 64 (elem (s.rv o.d.toNat) 64 i))).getD i 0) ∧
  (∀ (s : State) (o : Ops) (t : VTy) (k n : Nat), s.Ready o → s.Agreed → t = vtyOf o.fn6 → k = 2 ^ opf o → n = vcount o s t.lanes →
    (32 < o.d.toNat + (n * k + 15) / 16 → exec (.hsiftC o) s = .next (s.trapNow 0x09 n)) ∧
    (o.d.toNat + (n * k + 15) / 16 ≤ 32 → ∃ rs : List (Nat × VReg),
      exec (.hsiftC o) s = .next ((rs.foldl (fun u r => u.wv r.1 r.2) s).onward o.form.bytes) ∧
      rs.map Prod.fst = (vactives o s t).map (fun e => o.d.toNat + e * k / 16) ∧
      ∀ r ∈ rs, o.d.toNat ≤ r.1 ∧ r.1 < o.d.toNat + (n * k + 15) / 16) ∧
    (∀ e, vactives o s t = [e] → o.d.toNat + (n * k + 15) / 16 ≤ 32 → ∃ v : VReg,
      exec (.hsiftC o) s = .next ((s.wv (o.d.toNat + e * k / 16) v).onward o.form.bytes) ∧
      (∀ i, i < 16 → i < e * k % 16 ∨ e * k % 16 + k ≤ i → elem v 64 i = elem (s.rv (o.d.toNat + e * k / 16)) 64 i) ∧
      (k ≤ 16 → ∀ i, i < k → BitVec.ofNat 64 (elem v 64 (e * k % 16 + i)) = (offer (keyTy o s) k
        ((List.range k).map fun i => BitVec.ofNat 64 (elem (s.rv (o.d.toNat + e * k / 16)) 64 (e * k % 16 + i)))
        (elem (s.rv o.a.toNat) 32 e) ((s.rg o.b.toNat).toNat % 2 ^ 32)).getD i 0))) ∧
  (∀ (ty : KeyTy) (k : Nat) (h : List Word) (key idx : Nat),
    ((ty.val key).isNan = true ∨ idx = 0xFFFFFFFF ∨ ranksBelow ty (h.getD 0 0) (BitVec.ofNat 64 (key + idx * 2 ^ 32)) = false →
      offer ty k h key idx = h) ∧
    ((ty.val key).isNan = false → idx ≠ 0xFFFFFFFF → ranksBelow ty (h.getD 0 0) (BitVec.ofNat 64 (key + idx * 2 ^ 32)) = true →
      h.length = k → 1 ≤ k → k ≤ 16 →
      ∃ g, offer ty k h key idx = g ∧ g.length = k ∧ g.Perm (BitVec.ofNat 64 (key + idx * 2 ^ 32) :: h.tail)))

/-! Matrix regions and state banks. -/

/-- R206, R214–R228, R231–R233: MZERO, MREL, MLDC, MSTC, MQUE, MMA and MMAG check their fields and endpoints and take one entry with the
command, its completion slot pinned; MGEO sets GEOM with its valid bit. -/
def Sys2Proof.Claims.MatrixCommandsTakeAnEntry : Prop :=
  ∀ (s : State) (o : Ops) (c x d : Nat) (cm : Option Cmpl) (ga gb gc : Word), s.cur = .ctx c x → s.Ready o → s.outRoom 1 →
    (o.modBits 54 54 = 1 ∧ cm = none ∨ o.modBits 54 54 ≠ 1 ∧ ∃ fid, s.cx.act.fid = some fid ∧
      cm = some { core := c, fid := fid, k := o.modBits 49 41, tag := if o.modBits 50 50 = 1 then o.modBits 53 51 else s.cx.act.tag }) →
    d = o.form.ext → ga = s.rg o.a.toNat → gb = s.rg o.b.toNat → gc = s.rg o.form.c.toNat →
    let cmd := fun (op : MOp) (sl : Nat) =>
      ({ op := op, sl := sl, ctx := x, org := { s.origin with kind := 2 }, cmpl := cm, priv := s.cx.priv } : MCmd)
    let out := fun k : MCmd => Host.Outcome.next (s.takes o [{ act := .matrix k, pins := cm.map fun k => k.fid }])
    let traps := fun (i : Instr) (cause v : Nat) => exec i s = .next (s.trapNow cause v)
    exec (.mzero o) s = out (cmd .mzero o.d.toNat) ∧
    exec (.mrel o) s = out (cmd .mrel o.d.toNat) ∧
    (∀ f, f = bits d 4 0 →
      (f = 0x0A ∨ f = 0x0C ∨ f = 0x0D → exec (.mque o) s = out { cmd .mque o.a.toNat with gc := gc, desc := d }) ∧
      (f ≠ 0x0A → f ≠ 0x0C → f ≠ 0x0D → traps (.mque o) 0x01 (opWord 0xC6 o)) ∧
      (s.noFmt f = true → traps (.mldc o) 0x01 (opWord 0xC4 o)) ∧
      (s.noFmt f = false → bits d 11 5 ≠ 0 → fmtSprig f = false → traps (.mldc o) 0x02 (opWord 0xC4 o)) ∧
      (∀ stop, s.noFmt f = false → bits d 11 5 = 0 ∨ fmtSprig f = true →
        stop = panelStop ga 0 (fmtBits f) (topBit (wbits gc 31 0)) (topBit (wbits gc 63 32)) →
        (s.epCheck ga stop = none → exec (.mldc o) s = out { cmd .mldc o.d.toNat with ga := ga, gc := gc, desc := d }) ∧
        (∀ cause, s.epCheck ga stop = some cause → traps (.mldc o) cause ga.toNat)) ∧
      (4 < bits d 7 5 ∨ s.noFmt f = true → traps (.mstc o) 0x01 (opWord 0xC5 o)) ∧
      (bits d 7 5 ≤ 4 → s.noFmt f = false → bits d 14 8 ≠ 0 → fmtSprig f = false → traps (.mstc o) 0x02 (opWord 0xC5 o)) ∧
      (bits d 7 5 ≤ 4 → s.noFmt f = false → bits d 14 8 = 0 ∨ fmtSprig f = true →
        exec (.mstc o) s = out { cmd .mstc o.a.toNat with ga := gb, gc := gc, desc := d })) ∧
    (∀ (i : Instr) (op : MOp) (code : Nat) (group : Bool) (r : MmaReads) (stopA stopB : Option Nat) (depth : Option Nat),
      (i = .mma o ∧ op = .mma ∧ code = 0xC1 ∧ group = false ∧
          r = (if wbits gc 31 0 = 0 ∨ wbits gc 63 32 = 0 then { rows := 0, cols := 0, aOff := 0, bOff := 0 }
            else { rows := wbits gc 31 0, cols := wbits gc 63 32, aOff := 0, bOff := 0 }) ∨
        i = .mmag o ∧ op = .mmag ∧ code = 0xC2 ∧ group = true ∧ r = mmaReads true s.cx.geom ga gc d) →
      depth = (if bits d 43 31 = 0 then none else some (bits d 43 31 - 1)) →
      stopA = panelStop ga r.aOff (fmtBits (bits d 4 0)) (topBit r.rows) depth →
      stopB = panelStop gb r.bOff (fmtBits (bits d 9 5)) depth (topBit r.cols) →
      (s.noFmt (bits d 4 0) = true ∨ s.noFmt (bits d 9 5) = true → traps i 0x01 (opWord code o)) ∧
      (s.noFmt (bits d 4 0) = false → s.noFmt (bits d 9 5) = false →
        (bits d 16 10 ≠ 0 ∧ fmtSprig (bits d 4 0) = false ∨ bits d 23 17 ≠ 0 ∧ fmtSprig (bits d 9 5) = false →
          traps i 0x02 (opWord code o)) ∧
        (bits d 16 10 = 0 ∨ fmtSprig (bits d 4 0) = true → bits d 23 17 = 0 ∨ fmtSprig (bits d 9 5) = true →
          (32 * (bits d 30 24 + 1) < bits d 43 31 → traps i 0x09 d) ∧
          (bits d 43 31 ≤ 32 * (bits d 30 24 + 1) →
            (group = true → s.cx.geom.getLsbD 63 = false → traps i 0x09 s.cx.geom.toNat) ∧
            (group = false ∨ s.cx.geom.getLsbD 63 = true →
              (∀ cause, s.epCheck ga stopA = some cause → traps i cause ga.toNat) ∧
              (∀ cause, s.epCheck ga stopA = none → s.epCheck gb stopB = some cause → traps i cause gb.toNat) ∧
              (s.epCheck ga stopA = none → s.epCheck gb stopB = none →
                exec i s = out { cmd op o.d.toNat with ga := ga, gb := gb, gc := gc, desc := d, geom := s.cx.geom })))))) ∧
    (∀ v stop, s.epCheck v stop = none ↔ wbits v 63 48 = 0 ∧ wbits v 30 22 = 0 ∧
      (v.getLsbD 31 = true → wbits v 47 32 = 0 ∧ wbits v 21 8 = 0 ∧ ∃ t ∈ s.streams, t.gen = s.cx.gen ∧ t.port = wbits v 7 0) ∧
      (v.getLsbD 31 = false → ∀ e, stop = some e → e ≤ 2 ^ 22 ∧ wbits v 21 0 % 4 = 0 ∧ wbits v 47 32 % 4 = 0)) ∧
    (∀ v, (∃ m cc, o.form = .desc m cc v) ∨ (∀ m cc w, o.form ≠ .desc m cc w) ∧ v = ga →
      (s.geomOk v = true → exec (.mgeo o) s = .next ((s.setCx { s.cx with geom := v ||| 1#64 <<< 63 }).onward o.form.bytes)) ∧
      (s.geomOk v = false → traps (.mgeo o) 0x09 v.toNat))

/-- R206, R237–R248: SBCFG, SBSTEP and SBREAD check their operands and take a command; SBEVT checks its bank reference and its event word
and takes a packet to the bank's cluster. -/
def Sys2Proof.Claims.StateBankInstructions : Prop :=
  ∀ (s : State) (o : Ops) (c x d : Nat) (cm : Option Cmpl) (ga gb gc : Word), s.cur = .ctx c x → s.Ready o → s.outRoom 1 →
    (o.modBits 54 54 = 1 ∧ cm = none ∨ o.modBits 54 54 ≠ 1 ∧ ∃ fid, s.cx.act.fid = some fid ∧
      cm = some { core := c, fid := fid, k := o.modBits 49 41, tag := if o.modBits 50 50 = 1 then o.modBits 53 51 else s.cx.act.tag }) →
    d = o.form.ext → ga = s.rg o.a.toNat → gb = s.rg o.b.toNat → gc = s.rg o.form.c.toNat →
    let cmd := fun (op : MOp) (sl : Nat) =>
      ({ op := op, sl := sl, ctx := x, org := { s.origin with kind := 2 }, cmpl := cm, priv := s.cx.priv } : MCmd)
    let out := fun k : MCmd => Host.Outcome.next (s.takes o [{ act := .matrix k, pins := cm.map fun k => k.fid }])
    let traps := fun (i : Instr) (cause v : Nat) => exec i s = .next (s.trapNow cause v)
    (wbits ga 5 0 ≠ 0 → traps (.sbcfg o) 0x03 ga.toNat) ∧
    (∀ off, wbits ga 5 0 = 0 → spaceOf s.cur.cl ga.toNat = .spad s.cur.cl off →
      (off + 320 ≤ 2 ^ 22 → exec (.sbcfg o) s = out { cmd .sbcfg o.d.toNat with ga := ga }) ∧
      (2 ^ 22 < off + 320 → traps (.sbcfg o) 0x09 ga.toNat)) ∧
    (wbits ga 5 0 = 0 → (∀ off, spaceOf s.cur.cl ga.toNat ≠ .spad s.cur.cl off) → traps (.sbcfg o) 0x09 ga.toNat) ∧
    exec (.sbstep o) s = out { cmd .sbstep o.d.toNat with left := bits d 7 0 + 1 } ∧
    (∀ cl, cl = (if ga.getLsbD 20 then s.cur.cl else wbits ga 8 0) →
      (wbits ga 63 21 ≠ 0 → traps (.sbevt o) 0x02 ga.toNat) ∧
      (wbits ga 63 21 = 0 → wbits gb 31 28 ≠ 0 → traps (.sbevt o) 0x02 gb.toNat) ∧
      (wbits ga 63 21 = 0 → wbits gb 31 28 = 0 →
        (ga.getLsbD 20 = false → ((s.cluster cl).loaded = false ∨ (s.cluster cl).gen ≠ s.cx.gen) → traps (.sbevt o) 0x09 ga.toNat) ∧
        (ga.getLsbD 20 = true ∨ (s.cluster cl).loaded = true ∧ (s.cluster cl).gen = s.cx.gen →
          ∀ p : Pkt, p = s.origin.pkt (16 * cl) ((cm.map fun k => k.tag).getD s.cx.act.tag) 3
              (.sbevt cl (wbits ga 12 9) (wbits ga 14 13) (wbits ga 19 15) gb cm 0 none) →
            exec (.sbevt o) s = .next (s.takes o [{ act := .send [{ p with src := c }], pins := cm.map fun k => k.fid }])))) ∧
    (∀ f n stop, f = bits d 4 0 → n = (if d.testBit 5 = true then 64 else fmtBits f) →
      stop = panelStop gb 0 n (topBit (wbits gc 31 0)) (topBit (wbits gc 63 32)) →
      (d.testBit 5 = true → f ≠ 0 ∨ bits d 15 6 ≠ 0 → traps (.sbread o) 0x02 (opWord 0xCB o)) ∧
      (d.testBit 5 = false → 4 < bits d 8 6 ∨ s.noFmt f = true → traps (.sbread o) 0x01 (opWord 0xCB o)) ∧
      (d.testBit 5 = false → bits d 8 6 ≤ 4 → s.noFmt f = false → bits d 15 9 ≠ 0 → fmtSprig f = false →
        traps (.sbread o) 0x02 (opWord 0xCB o)) ∧
      (d.testBit 5 = true ∧ f = 0 ∧ bits d 15 6 = 0 ∨
          d.testBit 5 = false ∧ bits d 8 6 ≤ 4 ∧ s.noFmt f = false ∧ (bits d 15 9 = 0 ∨ fmtSprig f = true) →
        (∀ cause, s.epCheck gb stop = some cause → traps (.sbread o) cause gb.toNat) ∧
        (s.epCheck gb stop = none → exec (.sbread o) s = out { cmd .sbread o.a.toNat with gb := gb, gc := gc, desc := d })))

/-! Engine commands, collectives and views. -/

/-- R252, R255, R256, R206: COPY, COPYS, COPYM and CKICK check their addresses, class and own-frame words and take one kick with words w0
to w7 for the hart that H names. The model's choices (log entry 80): COPYM's trap 0x09 on operand bits above its list, and an endpoint
checked before the class. -/
def Obligations.EngineKicksTakeAnEntry : Prop :=
  ∀ (s : State) (o : Ops) (c x cls : Nat) (cm : Option Cmpl) (ga gb gc : Word), s.cur = .ctx c x → s.Ready o → s.outRoom 1 →
    (o.modBits 54 54 = 1 ∧ cm = none ∨ o.modBits 54 54 ≠ 1 ∧ ∃ fid, s.cx.act.fid = some fid ∧
      cm = some { core := c, fid := fid, k := o.modBits 49 41, tag := if o.modBits 50 50 = 1 then o.modBits 53 51 else s.cx.act.tag }) →
    ga = s.rg o.a.toNat → gb = s.rg o.b.toNat → gc = s.rg o.form.c.toNat → cls = o.modBits 57 55 →
    let good := fun v : Word => wbits v 63 60 = 0 ∨ wbits v 63 60 = 4 ∨ wbits v 63 60 = 8
    let w7 : Word := BitVec.ofNat 64 (o.modBits 54 54 * 2 ^ 29 + o.modBits 53 51 * 2 ^ 26 + o.modBits 50 50 * 2 ^ 25 +
      o.modBits 49 41 * 2 ^ 16 + c % 16 * 2 ^ 12 + s.cx.act.fid.getD 0)
    let cmd := fun w : List Word =>
      ({ w := w ++ [w7], hart := o.fnBits 1 0, org := { s.origin with kind := 1 }, cmpl := cm, priv := s.cx.priv } : ECmd)
    let kicks := fun w : List Word => Host.Outcome.next (s.takes o [{ act := .kick (cmd w), pins := cm.map fun k => k.fid }])
    let w0 := fun entry : Nat => (BitVec.ofNat 64 (entry + o.modBits 60 58 * 2 ^ 10 + cls * 2 ^ 16) : Word)
    let traps := fun (i : Instr) (cause v : Nat) => exec i s = .next (s.trapNow cause v)
    (∀ i ∈ [Instr.copy o, .copys o, .copym o], ¬good ga → traps i 0x08 ga.toNat) ∧
    (∀ i ∈ [Instr.copy o, .copys o], good ga → ¬good gb → traps i 0x08 gb.toNat) ∧
    (good ga → s.branchesOk gb = false → traps (.copym o) 0x09 gb.toNat) ∧
    (∀ i, i = .copy o ∨ i = .copys o ∨ i = .copym o → good ga → (i ≠ .copym o → good gb) → (i = .copym o → s.branchesOk gb = true) →
      (cls < 2 → s.cx.priv = false → traps i 0x05 cls) ∧ (2 ≤ cls → cls < 4 → traps i 0x09 cls)) ∧
    (4 ≤ cls ∨ cls < 2 ∧ s.cx.priv = true → good ga →
      (good gb → exec (.copy o) s = kicks [w0 0, gc, ga, gb, 0, 0, 0]) ∧
      (good gb → exec (.copys o) s = kicks [w0 8, gc, ga, gb, s.rg (o.form.c.toNat + 1), 0, 0]) ∧
      (s.branchesOk gb = true → exec (.copym o) s = kicks [w0 16, gc, ga, 0, 0, gb, 0])) ∧
    (s.cx.act.fid = none → traps (.ckick o) 0x09 0) ∧
    (∀ fid w ws k, s.cx.act.fid = some fid → w = o.modBits 63 55 → ws = s.frameWords fid w 7 → k = wbits (ws.headD 0) 18 16 →
      (s.ownWords fid ≤ w + 7 → traps (.ckick o) 0x09 w) ∧
      (w + 7 < s.ownWords fid → (4 ≤ k ∨ k < 2 ∧ s.cx.priv = true → exec (.ckick o) s = kicks ws) ∧
        (k < 2 → s.cx.priv = false → traps (.ckick o) 0x05 k) ∧ (2 ≤ k → k < 4 → traps (.ckick o) 0x09 k)))

/-- R262–R267: CCON takes a contribution and CRED a collective command for a group of which the core is a member, each with the events
that CEVT armed for it; CEXT gives the oldest result of the group, or lets the activation wait for one; others trap. -/
def Sys2Proof.Claims.CollectiveInstructions : Prop :=
  ∀ (s : State) (o : Ops) (c x g fid : Nat) (e : Word), s.cur = .ctx c x → s.Ready o → s.outRoom 1 → s.cx.act.fid = some fid →
    e = SMap.get 0 (s.cluster (c / 16)).esp g →
    let member := e.getLsbD 63 = true ∧ e.getLsbD (16 + c % 16) = true
    let arm := s.cx.arms.find? fun a => a.grp == g
    let rest := s.cx.arms.filter fun a => a.grp != g
    let takes := fun (a : OAct) => Host.Outcome.next
      ((s.setCx { s.cx with out := s.cx.out ++ [{ act := a }] }).setCx { s.cx with out := s.cx.out ++ [{ act := a }], arms := rest } |>.onward
        o.form.bytes)
    (g = o.modBits 46 41 → member → exec (.ccon o) s = takes (.ccon g (s.rg o.b.toNat) arm) ∧
      ∀ k : ECmd, k = { w := [cmdWord 24 (typeEsz (wbits e 60 57)) 3, s.rg o.form.c.toNat, s.rg o.a.toNat, s.rg o.b.toNat, 0,
                              BitVec.ofNat 64 g, 0, s.kickTarget 1 0 0 0]
                        hart := 2, org := { s.origin with kind := 1 }, cmpl := none, priv := s.cx.priv
                        cred := some (g, 0, o.fn == 1), arm := arm } →
        exec (.cred o) s = takes (.kick k)) ∧
    (g = o.modBits 46 41 → ¬member → exec (.ccon o) s = .next (s.trapNow 0x09 g) ∧ exec (.cred o) s = .next (s.trapNow 0x09 g)) ∧
    (∀ r, g = o.modBits 46 41 → (s.core c).results.find? (fun r => r.grp == g) = some r →
      (o.fn = 1 → exec (.cext o) s = .next (s.givesG o r.v)) ∧
      (o.fn ≠ 1 → exec (.cext o) s =
        .next ((s.setCx { s.cx.wg o.d.toNat r.v with taken := (s.cx.wg o.d.toNat r.v).taken ++ [(r.grp, r.n)] }).onward o.form.bytes))) ∧
    (g = o.modBits 46 41 → (s.core c).results.find? (fun r => r.grp == g) = none → s.cx.trap = none →
      ∃ t q, exec (.cext o) s = .next t ∧ (t.core c).ctx x = {} ∧
        (t.core c).cextQ = q ++ [(g, { s.cx.act with level := s.cx.act.first })]) ∧
    (∀ (slot : Nat → Nat → Option Cmpl), g = o.extBits 39 34 →
      (∀ v k, slot v k = if v = 1 then some ⟨c, fid, k, if o.extBits 33 33 = 1 then o.extBits 32 30 else s.cx.act.tag⟩ else none) →
      (member → ∀ a : CevtArm, a = ⟨g, slot (o.extBits 9 9) (o.extBits 8 0), slot (o.extBits 19 19) (o.extBits 18 10),
          slot (o.extBits 29 29) (o.extBits 28 20)⟩ →
        exec (.cevt o) s = .next ((s.setCx { s.cx with arms := rest ++ [a] }).onward o.form.bytes)) ∧
      (¬member → exec (.cevt o) s = .next (s.trapNow 0x09 g)))

/-- R269, R270: CVIEW gives the view number, CVIEW.bm 64 bits of the member bitmap; CVIEW.arm and CJOIN take an entry with a slot of
the own frame; CJOIN needs privilege. -/
def Sys2Proof.Claims.ViewInstructions : Prop :=
  ∀ (s : State) (o : Ops) (c x fid : Nat) (a : Word) (k : Cmpl), s.cur = .ctx c x → s.Ready o → s.outRoom 1 → s.cx.act.fid = some fid →
    a = s.rg o.a.toNat →
    k = { core := c, fid := fid, k := o.modBits 49 41, tag := if o.modBits 50 50 = 1 then o.modBits 53 51 else s.cx.act.tag } →
    exec (.cview o) s = .next (s.givesG o (BitVec.ofNat 64 (s.views.view % 2 ^ 16))) ∧
    (a.toNat < 256 → ∃ v, exec (.cviewBm o) s = .next (s.givesG o v) ∧
      ∀ i, i < 64 → v.getLsbD i = s.views.members.contains (64 * a.toNat + i)) ∧
    (256 ≤ a.toNat → exec (.cviewBm o) s = .next (s.trapNow 0x09 a.toNat)) ∧
    exec (.cviewArm o) s = .next (s.takes o [{ act := .cviewArm k, pins := some fid }]) ∧
    (s.cx.priv = true → a.toNat < 2 ^ 14 →
      exec (.cjoin o) s = .next (s.takes o [{ act := .cjoin a.toNat k (o.modBits 63 55), pins := some fid }])) ∧
    (s.cx.priv = true → 2 ^ 14 ≤ a.toNat → exec (.cjoin o) s = .next (s.trapNow 0x09 a.toNat)) ∧
    (s.cx.priv = false → exec (.cjoin o) s = .next (s.trapNow 0x05 (opWord 0xE9 o)))

/-! Special registers and system instructions. -/

/-- R17, R32, R33, R37, R274: MFS gives the register as the context reads it, a buffered MTS included; MTS to a per-core, per-cluster or
package register takes an entry, to GEOM or FPCTL acts at once, to another per-context register does nothing; a privileged number in user
mode and an unassigned one trap. -/
def Obligations.SpecialRegisterMoves : Prop :=
  (∀ (s : State) (o : Ops) (c x num : Nat), s.cur = .ctx c x → s.Ready o → num = o.extBits 11 0 →
    (0x800 ≤ num → s.cx.priv = false → ∀ i ∈ [Instr.mfs o, .mts o], exec i s = .next (s.trapNow 0x05 num)) ∧
    (num < 0x800 ∨ s.cx.priv = true → s.reg c num = none →
      exec (.mfs o) s = .next (s.trapNow 0x01 (opWord 0xF2 o)) ∧ exec (.mts o) s = .next (s.trapNow 0x01 (opWord 0xF3 o))) ∧
    (∀ v, num < 0x800 ∨ s.cx.priv = true → s.reg c num = some v →
      (bufferedMts s.cx.out num = none → exec (.mfs o) s = .next (s.givesG o v)) ∧
      (∀ w, bufferedMts s.cx.out num = some w → exec (.mfs o) s = .next (s.givesG o (regAfter num v w))) ∧
      (0x100 ≤ num → s.outRoom 1 → exec (.mts o) s = .next (s.takes o [{ act := .mts num (s.rg o.a.toNat) }])) ∧
      (0x100 ≤ num → ¬s.outRoom 1 → exec (.mts o) s = .next (s.trapNow 0x0D 0)) ∧
      (num < 0x100 → num ≠ 0x00B → num ≠ 0x00C → exec (.mts o) s = .next (s.onward o.form.bytes)) ∧
      (num = 0x00B → ∃ w : Word, exec (.mts o) s = .next ((s.setCx { s.cx with geom := w }).onward o.form.bytes) ∧
        ∀ i, i < 64 → w.getLsbD i =
          if 57 ≤ i ∧ i ≤ 62 ∨ 36 ≤ i ∧ i ≤ 39 ∨ 16 ≤ i ∧ i ≤ 19 then s.cx.geom.getLsbD i else (s.rg o.a.toNat).getLsbD i) ∧
      (num = 0x00C → ∃ w : Word, exec (.mts o) s = .next ((s.setCx { s.cx with fpctl := w }).onward o.form.bytes) ∧
        ∀ i, i < 64 → w.getLsbD i =
          if i = 0 ∨ 4 ≤ i ∧ i ≤ 8 then (s.rg o.a.toNat).getLsbD i else s.cx.fpctl.getLsbD i))) ∧
  (∀ (s : State) (c : Nat),
    s.reg c 0x100 = some (BitVec.ofNat 64 s.time) ∧ s.reg c 0x101 = some (BitVec.ofNat 64 c) ∧
    s.reg c 0x800 = some (s.core c).tvec ∧ s.reg c 0x00C = some s.cx.fpctl ∧ s.reg c 0x001 = some s.cx.cause ∧
    s.reg c 0x002 = some s.cx.tval ∧ s.reg c 0x003 = some s.cx.epc ∧ s.reg c 0x400 = some (BitVec.ofNat 64 (c / 16)) ∧
    s.reg c 0x890 = some (BitVec.ofNat 64 s.opnow) ∧ s.reg c 0x960 = some (s.cluster (c / 16)).seidx ∧
    (∀ n, n < 8 → (s.core c).commits = [] → (s.core c).ni = [] → s.reg c (0x110 + n) = some (SMap.get 0 (s.core c).mailbox n)) ∧
    (∀ n, n < 64 → s.reg c (0x140 + n) = some (SMap.get 0 (s.core c).tasks n)) ∧
    (∀ n, 0x964 ≤ n → n < 0x1000 → s.reg c n = none))

/-- R206, R275–R277, R280, R281: FLUSH, TLBINV, ROUND, PROBE, GSTOP and OPSTEP check their operands and privilege and take an entry with
their completion slot, which the entry pins; GSTOP and OPSTEP check privilege whatever their guard. The TVAL of FLUSH's traps is the model's
choice (log entry 80). -/
def Sys2Proof.Claims.SystemRequestsTakeAnEntry : Prop :=
  (∀ (s : State) (o : Ops) (c x : Nat) (cm : Option Cmpl) (a b : Word), s.cur = .ctx c x → s.Ready o → s.outRoom 1 →
    (o.modBits 54 54 = 1 ∧ cm = none ∨ o.modBits 54 54 ≠ 1 ∧ ∃ fid, s.cx.act.fid = some fid ∧
      cm = some { core := c, fid := fid, k := o.modBits 49 41, tag := if o.modBits 50 50 = 1 then o.modBits 53 51 else s.cx.act.tag }) →
    a = s.rg o.a.toNat → b = s.rg o.b.toNat →
    let out := fun act : OAct => Host.Outcome.next (s.takes o [{ act := act, pins := cm.map fun k => k.fid }])
    let traps := fun (i : Instr) (cause v : Nat) => exec i s = .next (s.trapNow cause v)
    (∀ i inv, i = .flushWb o ∧ inv = false ∨ i = .flushInv o ∧ inv = true →
      (a.toNat % 64 ≠ 0 ∨ b.toNat % 64 ≠ 0 → traps i 0x03 a.toNat) ∧
      (a.toNat % 64 = 0 → b.toNat % 64 = 0 →
        ((∀ va, spaceOf s.cur.cl a.toNat ≠ .virt va) → traps i 0x09 a.toNat) ∧
        (∀ va, spaceOf s.cur.cl a.toNat = .virt va →
          (2 ^ 40 < b.toNat → traps i 0x09 b.toNat) ∧
          (b.toNat ≤ 2 ^ 40 → b.toNat = 0 ∨ (∃ l, s.xlateCx .read va = .at_ l) →
            exec i s = out (.flush inv a.toNat b.toNat s.cx.priv cm)) ∧
          (∀ cause, b.toNat ≤ 2 ^ 40 → b.toNat ≠ 0 → s.xlateCx .read va = .fault cause → traps i cause a.toNat)))) ∧
    (s.cx.priv = true → exec (.tlbinvPage o) s = out (.tlbinv (some a.toNat) cm) ∧ exec (.tlbinvAll o) s = out (.tlbinv none cm)) ∧
    (s.cx.priv = false → traps (.tlbinvPage o) 0x05 (opWord 0xF5 o) ∧ traps (.tlbinvAll o) 0x05 (opWord 0xF5 o) ∧
      traps (.probe o) 0x05 (opWord 0xF7 o)) ∧
    (a.toNat < 4 → exec (.round o) s = out (.round a.toNat cm)) ∧ (4 ≤ a.toNat → traps (.round o) 0x09 a.toNat) ∧
    (∀ fid, s.cx.priv = true → s.cx.act.fid = some fid → a.toNat < 4096 →
      exec (.probe o) s = out (.probe a.toNat fid (o.modBits 63 55) cm)) ∧
    (s.cx.priv = true → 4096 ≤ a.toNat → traps (.probe o) 0x09 a.toNat) ∧
    (∀ i go first last, i = .gstop o ∧ go = false ∨ i = .gstopGo o ∧ go = true → first = wbits a 8 0 → last = wbits a 17 9 →
      s.cx.priv = true →
      (2 ^ 18 ≤ a.toNat ∨ last < first ∨ first ≤ s.cur.cl ∧ s.cur.cl ≤ last → traps i 0x09 a.toNat) ∧
      (a.toNat < 2 ^ 18 → first ≤ last → s.cur.cl < first ∨ last < s.cur.cl → exec i s = out (.gstop go first last b.toNat cm))) ∧
    (s.cx.priv = true → (o.modBits 57 55 ≤ 4 → exec (.opstep o) s = out (.opstep (o.modBits 57 55) cm)) ∧
      (4 < o.modBits 57 55 → traps (.opstep o) 0x09 (o.modBits 57 55)))) ∧
  (∀ (s : State) (o : Ops), s.cx.priv = false →
    exec (.gstop o) s = .next (s.trapNow 0x05 (opWord 0xFB o)) ∧ exec (.gstopGo o) s = .next (s.trapNow 0x05 (opWord 0xFB o)) ∧
    exec (.opstep o) s = .next (s.trapNow 0x05 (opWord 0xFC o)))

/-- R278, R279, R408: WATCH and WATCH.unit take an entry for a range of a power of two from 8 to 2^20 bytes at a multiple of its length,
and trap on others; ECALL takes its four words. The model's choices: ECALL's operand is checked before its channel trap (log entry 23), and
WATCH.unit's address is translated as for a read (log entry 96). -/
def Sys2Proof.Claims.WatchesAndCallsTakeAnEntry : Prop :=
  ∀ (s : State) (o : Ops) (c x a n : Nat), s.cur = .ctx c x → s.Ready o → s.outRoom 1 → a = (s.rg o.a.toNat).toNat →
    n = (s.rg o.b.toNat).toNat →
    let good := (∃ i, i < 18 ∧ n = 2 ^ (i + 3)) ∧ a % n = 0
    let traps := fun (i : Instr) (cause v : Nat) => exec i s = .next (s.trapNow cause v)
    (good → exec (.watch o) s = .next (s.takes o [{ act := .watch (o.modBits 44 41) (o.fnBits 1 0) a n }])) ∧
    (¬good → traps (.watch o) 0x09 a) ∧
    (s.cx.priv = false → traps (.watchUnit o) 0x05 (opWord 0xF8 o)) ∧
    (s.cx.priv = true → ¬good ∨ o.fnBits 0 0 = 1 → traps (.watchUnit o) 0x09 a) ∧
    (s.cx.priv = true → good → o.fnBits 0 0 = 0 →
      (∀ cl off, spaceOf s.cur.cl a = .spad cl off → traps (.watchUnit o) 0x09 a) ∧
      (spaceOf s.cur.cl a = .none → traps (.watchUnit o) 0x08 a) ∧
      (∀ va cause, spaceOf s.cur.cl a = .virt va → s.xlateCx .read va = .fault cause → traps (.watchUnit o) cause a) ∧
      (∀ va pa t, spaceOf s.cur.cl a = .virt va → s.xlateCx .read va = .at_ (.mem pa) →
        (s.cluster s.cur.cl).tlb.find? (fun e => e.covers s.cx.gen va) = some t →
        (va + n ≤ t.va + t.size → exec (.watchUnit o) s = .next (s.takes o
          [{ act := .watchUnit (o.modBits 44 41) pa (if o.fnBits 1 0 = 0 then 0 else n) (homeDie pa) }])) ∧
        (t.va + t.size < va + n → traps (.watchUnit o) 0x09 a))) ∧
    (∀ fid, s.cx.act.fid = some fid → a < 2 ^ 16 → exec (.ecall o) s = .next (s.takes o
      [{ act := .ecall [s.rg o.a.toNat, s.rg o.b.toNat, frameRef c fid, BitVec.ofNat 64 (o.modBits 63 41)] }])) ∧
    (2 ^ 16 ≤ a → traps (.ecall o) 0x09 a) ∧
    (s.cx.act.fid = none → a < 2 ^ 16 → traps (.ecall o) 0x09 0)

/-- R176, R251, R261: at an engine hart a scalar load, a store, AMO and CAS at the own scratchpad are performed at once, and take no entry; a
trap of a hart's instruction ends its command with the cause and value, and EXIT ends it with success. -/
def Obligations.HartInstructions : Prop :=
  ∀ (s : State) (o : Ops) (cl h n off : Nat), s.cur = .hart cl h → s.Ready o → n = 2 ^ (o.fnBits 2 0 % 4) →
    let spad := fun a => spaceOf cl a = .spad cl off ∧ a % n = 0 ∧ (s.cluster cl).usable off n = true ∧
      anyPoison (s.cluster cl).sbad off n = false ∧ anyPoison (s.cluster cl).spoison off n = false ∧
      (s.cluster cl).firstGuarded off n = none
    let low := fun w : Word => w.toNat % 2 ^ (8 * n)
    let writes := fun (i : Instr) (v : Nat) => ∃ t : State, exec i s = .next (t.onward o.form.bytes) ∧ t.cx = s.cx ∧ t.hbm = s.hbm ∧
      t.net = s.net ∧ natOfBytes (loadBytes (t.cluster cl).spad off n) = v % 2 ^ (8 * n) ∧ (∀ d, d ≠ cl → t.cluster d = s.cluster d) ∧
      ∀ b, b < off ∨ off + n ≤ b → SMap.get 0 (t.cluster cl).spad b = SMap.get 0 (s.cluster cl).spad b
    (o.fnBits 4 3 = 0 → spad (memAddr o s.cx).toNat → isStream (memAddr o s.cx).toNat = false →
      exec (.ld o) s = .next (s.givesG o (sizeValue (o.fnBits 2 0) (natOfBytes (loadBytes (s.cluster cl).spad off n)))) ∧
      writes (.st o) (s.rg o.b.toNat).toNat) ∧
    (∀ old, spad (atomicAddr o s.cx).toNat → old = natOfBytes (loadBytes (s.cluster cl).spad off n) →
      writes (.amo o) (atomicNew (amoOp o) n old (low (s.rg o.b.toNat)) 0) ∧
      (o.fnBits 3 3 = 0 → writes (.cas o) (atomicNew .cas n old (low (s.rg o.form.c.toNat)) (low (s.rg o.b.toNat))))) ∧
    (∀ cause v, s.trapNow cause v = s.setCluster cl ((s.cluster cl).setHart h
      { (s.cluster cl).hart h with err := cause, tval := v, finished := true })) ∧
    exec (.exit o) s = .next (s.setCluster cl ((s.cluster cl).setHart h
      { (s.cluster cl).hart h with err := 0, tval := 0, finished := true })) ∧
    exec (.abort o) s = .next (s.setCluster cl ((s.cluster cl).setHart h
      { (s.cluster cl).hart h with err := 0x1A, tval := 0, finished := true })) ∧
    ((s.cluster cl).hart h).ctx = s.cx

/-! What a core's hardware does. -/

/-- R33, R38, R130, R138, R286: an entry of the Commit whose turn it is issues, and the context counts it: an MTS to a mailbox that nothing
holds back is written, and with the last entry the context is idle; WIN sets the window of the cluster; FFREE asks for the frame's end, and
of a free or already ended one raises a record; a packet of the own cluster enters the network, stamped with its place, and is noted where
later entries wait for it, unless the partition is stopped (R403) or, of a signalling entry, a write of the Commit is left (R285). -/
def Sys2Proof.Claims.CommittedEntriesIssue : Prop :=
  (∀ (s : State) (core x num : Nat) (v : Word) (c : Ctx) (e : OutEnt), (s.core core).issuer = some x → c = (s.core core).ctx x →
    c.out[c.issued]? = some e → e = { act := .mts num v } → 0x110 ≤ num → num ≤ 0x117 → c.marks = [] →
    (∀ q ∈ c.out, q.acq = false) → (s.core core).ni = [] → c.after = none →
    ∃ t, exec (.outboundEntryIssue core x) s = .next t ∧
      (c.issued + 1 < c.out.length → (t.core core).ctx x = { c with issued := c.issued + 1 } ∧
        SMap.get 0 (t.core core).mailbox (num - 0x110) = v) ∧
      (c.issued + 1 = c.out.length → (t.core core).ctx x = {})) ∧
  (∀ (s : State) (core x : Nat) (c : Ctx) (e : OutEnt), (s.core core).issuer = some x → c = (s.core core).ctx x →
    c.out[c.issued]? = some e → c.issued + 1 < c.out.length → c.marks = [] → (∀ q ∈ c.out, q.acq = false) → (s.core core).ni = [] →
    let goes := fun t : State => exec (.outboundEntryIssue core x) s = .next t ∧ (t.core core).ctx x = { c with issued := c.issued + 1 }
    (∀ j v, e = { act := .win j v } → ∃ t, goes t ∧ SMap.get 0 (t.cluster (core / 16)).win j = v) ∧
    (∀ fid ref f, e = { act := .ffree fid ref } → f = (s.core core).fent fid →
      (f.v = true → f.freq = false → ∃ t, goes t ∧ (t.core core).fent fid = { f with freq := true } ∧ t.net = s.net) ∧
      (f.v = false ∨ f.freq = true → ∃ t r, goes t ∧ t.net = s.net ++ [FaultRec.pkt r (core / 16)] ∧ r.cause = 0x09 ∧
        r.tval = ref.toNat)) ∧
    (∀ p signal, e = { act := .send [p], signal := signal } → p.src = core → p.dpkg = none → p.dispatched = none →
      clOf p.dst = core / 16 → (s.cluster (core / 16)).stopped = false →
      (signal = true → ((s.core core).setCtx x { c with issued := c.issued + 1 }).writesDone c.job = true) →
      ∃ t, goes t ∧ t.net = s.net ++ [{ p with job := c.job, idx := c.issued }] ∧
        (t.core core).outst = (s.core core).outst ++ (p.body.waits.map fun w => (c.job, c.issued, w)).toList))

/-- R15, R347: dispatch starts the oldest of the activations of the highest level that can start, on the context of its affinity or the
lowest-numbered free one, with the registers of an activation start, the privilege of its instance and its entry's plate and offset; one
can start when its plate is active, draining or invalid, its frame resident and its context free. -/
def Sys2Proof.Claims.DispatchStartsTheNextActivation : Prop :=
  (∀ (s : State) (core x : Nat) (a : Act), (s.cluster (core / 16)).stopped = false → (s.core core).nextAct = some a →
    (s.core core).place a = some x → a.hand = none →
    ∃ t k, exec (.activationDispatch core) s = .next t ∧ k = (t.core core).ctx x ∧
      k.g = [] ∧ k.v = [] ∧ k.p = [] ∧ k.m = [(0, BitVec.allOnes 128)] ∧ k.links = [] ∧ k.loops = [] ∧ k.out = [] ∧ k.fw = [] ∧
      k.fpctl = 0 ∧ k.phase = .running ∧ k.plate = a.plate ∧ k.off = 8 * a.off8 ∧ k.act = { a with counted := a.cancel } ∧
      k.gen = (s.cluster (core / 16)).gen ∧ k.priv = ((s.inst? (s.cluster (core / 16)).gen).map (·.priv)).getD false ∧
      (t.core core).ready = (s.core core).ready.erase a) ∧
  (∀ (k : Core) (a : Act), k.nextAct = some a → k.canStart a = true ∧ ∃ pre post, k.ready = pre ++ a :: post ∧
    (∀ b ∈ pre, k.canStart b = true → b.level < a.level) ∧ ∀ b ∈ post, k.canStart b = true → b.level ≤ a.level) ∧
  (∀ (k : Core) (a : Act) (x : Nat), k.place a = some x → (k.ctx x).phase = .idle ∧
    (a.aff = none → x < 4 ∧ ∀ y, y < x → (k.ctx y).phase ≠ .idle) ∧ (∀ y, a.aff = some y → y = x)) ∧
  (∀ (k : Core) (a : Act), k.canStart a = true → k.place a ≠ none ∧
    ((k.plate a.plate).st = .active ∨ (k.plate a.plate).st = .draining ∨ (k.plate a.plate).st = .invalid) ∧
    ∀ f, a.fid = some f → (k.fent f).res = true)

/-- R115, R348: an entry that has waited STARVW core cycles below level 255 goes to the tail of the next level; the others stay in order;
a running activation that has used up its watchdog limit traps with cause 0x0F; its count and TVAL are of issued instructions (the model's
choice, log entry 4). -/
def Sys2Proof.Claims.StarvationAndWatchdog : Prop :=
  (∀ (s : State) (core : Nat), ∃ t, exec (.starvationLift core) s = .next t ∧
    (t.core core).ready = (s.core core).ready.filter (fun a => !s.starved core a) ++
      ((s.core core).ready.filter (s.starved core)).map (fun a => { a with level := a.level + 1, since := s.time }) ∧
    (∀ a, s.starved core a = true ↔ (s.core core).starvw ≠ 0 ∧ a.level < 255 ∧ a.since + s.cyc (s.core core).starvw.toNat ≤ s.time ∧
      (s.cluster (core / 16)).stopped = false)) ∧
  (∀ (s : State) (core x : Nat), ((s.core core).ctx x).phase = .running → (s.core core).wdog.toNat ≤ ((s.core core).ctx x).ran →
    ∃ t, exec (.watchdog core x) s = .next t ∧ (s.cur = .ctx core x → t = s.trapNow 0x0F ((s.core core).ctx x).ran) ∧
      (((s.core core).ctx x).trap = none → (s.core core).tvec.getLsbD 15 = false → ((t.core core).ctx x).phase = .idle ∧
        ∃ l r, t.net = l ++ [FaultRec.pkt r (clOf core)] ∧ r.cause = 0x0F ∧ r.tval = ((s.core core).ctx x).ran ∧ r.imprecise = false))

/-- R24, R38, R126: what a signal of n does to a slot word: COUNT − n; at zero it fires with the plate, offset, level and error of the
word, EL and ECLASS are cleared, RP is set and COUNT reloads when RL is set; an error signal marks the word. -/
def Sys2Proof.Claims.SlotWordsCountDown : Prop :=
  ∀ (w : Word) (n err : Nat), n ≤ wbits w 15 0 →
    (n ≠ wbits w 15 0 → (decSlot w n err).2 = none ∧ wbits (decSlot w n err).1 15 0 = wbits w 15 0 - n ∧
      wbits (decSlot w n err).1 35 16 = wbits w 35 16 ∧ wbits (decSlot w n err).1 63 47 = wbits w 63 47 ∧
      (err = 0 → wbits (decSlot w n err).1 46 16 = wbits w 46 16) ∧
      (err ≠ 0 → (decSlot w n err).1.getLsbD 46 = true ∧ wbits (decSlot w n err).1 41 39 = errClass err)) ∧
    (n = wbits w 15 0 → ∃ f, (decSlot w n err).2 = some f ∧ f.plate = wbits w 27 26 ∧ f.off8 = wbits w 25 16 ∧ f.pri = wbits w 35 28 ∧
      (err = 0 → f.err = w.getLsbD 46 ∧ f.ecls = wbits w 41 39) ∧ (err ≠ 0 → f.err = true ∧ f.ecls = errClass err) ∧
      wbits (decSlot w n err).1 15 0 = (if w.getLsbD 47 then wbits w 63 48 else 0) ∧
      (decSlot w n err).1.getLsbD 45 = true ∧ (decSlot w n err).1.getLsbD 46 = false ∧ wbits (decSlot w n err).1 41 39 = 0 ∧
      wbits (decSlot w n err).1 38 16 = wbits w 38 16 ∧ wbits (decSlot w n err).1 63 47 = wbits w 63 47)

/-- R25, R126, R127, R132, R169, R178, R346: arrivals at a frame port. A signal, a counted signal and a completion take their count from
the copy of the slot that the route tag selects, behind the words that they write, and queue its activation at zero; SLOTADD adds,
SLOTSET replaces. An update of a free frame is dropped with a record of cause 0x13. -/
def Sys2Proof.Claims.FrameUpdatesArrive : Prop :=
  ∀ (s : State) (p : Pkt) (f i k : Nat) (w : Word), s.Lands p f i k → w = s.slotWord p.dst f k →
    (∀ (n : Nat) (ev : Instr) (words : List (Nat × Word)),
      (ev = .slotSignal p ∧ p.body = .sig f i 0 none false ∧ n = 1 ∧ words = [] ∨
        ev = .sigrArrival p ∧ p.body = .sigr f i n ∧ words = [] ∨
        (∃ dw vs, ev = .sendfArrival p ∧ p.body = .sendf f i dw vs ∧ n = 1 ∧ words = wordsFrom dw vs) ∨
        (∃ c tag, ev = .ldfarCompletion { p with tag := tag } ∧ p.body = .ldfarResp words 0 c ∧ c.fid = f ∧ c.k = i ∧ c.tag = p.tag ∧ n = 1) ∨
        (∃ c tag, ev = .atomicCompletion { p with tag := tag } ∧ p.body = .atomicResp words 0 c ∧ c.fid = f ∧ c.k = i ∧ c.tag = p.tag ∧
          n = 1)) →
      0 < n → n ≤ cnt w → (∀ q ∈ words, q.1 < ((s.core p.dst).fent f).words ∧ q.1 ≠ i ∧ q.1 ≠ k) → (words.map Prod.fst).Nodup →
      (n < cnt w ∨ (s.core p.dst).room = true) →
      ∃ t, exec ev s = .next t ∧ t.slotWord p.dst f k = (decSlot w n 0).1 ∧ (∀ q ∈ words, t.slotWord p.dst f q.1 = q.2) ∧
        (n < cnt w → (t.core p.dst).ready = (s.core p.dst).ready) ∧
        (n = cnt w → ∃ a, (t.core p.dst).ready = (s.core p.dst).ready ++ [a] ∧ a.fid = some f ∧ a.ix = k ∧ a.tag = p.tag ∧
          a.plate = wbits w 27 26 ∧ a.off8 = wbits w 25 16 ∧ a.level = wbits w 35 28 ∧ a.first = wbits w 35 28 ∧ a.since = s.time)) ∧
    (∀ n, p.body = .slotadd f i n → cnt w + n ≤ 65535 →
      ∃ t, exec (.slotaddArrival p) s = .next t ∧ t.slotWord p.dst f k = setBits w 15 0 (cnt w + n) ∧
        (t.core p.dst).ready = (s.core p.dst).ready) ∧
    (∀ v, p.body = .slotset f i v false →
      ∃ t, exec (.slotsetArrival p) s = .next t ∧ t.slotWord p.dst f k = v ∧ (t.core p.dst).ready = (s.core p.dst).ready) ∧
    (∀ v, p.body = .slotset f i v true →
      ∃ t, exec (.slotsetArrival p) s = .next t ∧ (t.core p.dst).ready = (s.core p.dst).ready ∧
        cnt (t.slotWord p.dst f k) = cnt w ∧ wbits (t.slotWord p.dst f k) 46 44 = wbits w 46 44 ∧
        (t.slotWord p.dst f k).getLsbD 42 = w.getLsbD 42 ∧ wbits (t.slotWord p.dst f k) 41 16 = wbits v 41 16 ∧
        wbits (t.slotWord p.dst f k) 63 47 = wbits v 63 47) ∧
    (∀ q : Pkt, q = { p with body := .sig f i 0 none false } → cnt w = 0 → s.isFrozen p.gen = false →
      exec (.slotSignal q) s = .next (s.raise { p.org with tag := p.tag, gen := p.gen } 0x13 true (slotRef p.dst f k) (.slot p.dst f k)))

/-- R340, R346, R365: a packet of another generation is dropped and counted; one whose frame is being moved is held, and so is one behind
another; one to a free frame raises a record. -/
def Sys2Proof.Claims.FrameUpdatesHeldOrDropped : Prop :=
  ∀ (s : State) (p : Pkt) (f i n : Nat) (ev : Instr),
    (ev = .slotSignal p ∧ p.body = .sig f i 0 none false ∨ ev = .sigrArrival p ∧ p.body = .sigr f i n ∨
      ev = .slotaddArrival p ∧ p.body = .slotadd f i n) →
    (s.stale p = true → exec ev s = .next ((s.setCluster (p.dst / 16)
      { s.cluster (p.dst / 16) with gdrop := (s.cluster (p.dst / 16)).gdrop + 1 }).noted p)) ∧
    (s.stale p = false → ((s.core p.dst).portQ ≠ [] ∨ ((s.core p.dst).fent f).held = true) →
      exec ev s = .next (s.setCore p.dst { s.core p.dst with portQ := (s.core p.dst).portQ ++ [.pkt p] })) ∧
    (s.stale p = false → (s.core p.dst).portQ = [] → ((s.core p.dst).fent f).held = false → ((s.core p.dst).fent f).v = false →
      exec ev s = .next ((s.raise { p.org with tag := p.tag, gen := p.gen } 0x13 true (slotRef p.dst f i) (.slot p.dst f i)).noted p)) ∧
    (∀ q : Pkt, q.body.waits = none → s.noted q = s) ∧
    (∀ q : Pkt, (s.noted q).clusters = s.clusters ∧ (s.noted q).net = s.net ∧ (s.noted q).hbm = s.hbm) ∧
    (∀ q, s.stale q = true ↔ (s.cluster (q.dst / 16)).loaded = false ∨ (s.cluster (q.dst / 16)).gen ≠ q.gen)

/-- R27, R28, R133, R134, R372: a message to an open channel queues its activation with the payload as inbox; to a blocked one it waits in
the input queue, then in the galley, and with that full raises a record or fails at the slot that its sender named; CHBLK and CHUNB set and
clear BLK, and CHUNB queues what waits, in order, but what the error token has reached (R351), whereupon others of the core move up from the galley (the model's choice, log entry 33);
a channel that is not defined raises a record. The galley-full record with the core as TVAL, and the slot error of an ECALL there, are the
model's reading (log entry 88). -/
def Sys2Proof.Claims.ChannelMessagesArrive : Prop :=
  ∀ (s : State) (p : Pkt) (ch : Nat) (w : Word), s.stale p = false → w = SMap.get 0 (s.core p.dst).tasks ch →
    (∀ payload, p.body = .chan ch payload → s.reachedChan p.gen p.dst ch = false → (s.core p.dst).niQ = [] →
      (w.getLsbD 31 = true → w.getLsbD 30 = false → (s.core p.dst).room = true →
        ∃ t a, exec (.channelMessage p) s = .next t ∧ (t.core p.dst).ready = (s.core p.dst).ready ++ [a] ∧ a.fid = none ∧ a.ix = ch ∧
          a.tag = p.tag ∧ a.inbox = payload ∧ a.plate = wbits w 11 10 ∧ a.off8 = wbits w 9 0 ∧ a.level = wbits w 19 12 ∧
          a.sender = p.sender ∧ a.since = s.time) ∧
      (w.getLsbD 31 = true → w.getLsbD 30 = true →
        ((s.core p.dst).inputQ.length < 16 →
          exec (.channelMessage p) s = .next (s.setCore p.dst { s.core p.dst with inputQ := (s.core p.dst).inputQ ++ [p] })) ∧
        (16 ≤ (s.core p.dst).inputQ.length → (s.cluster (p.dst / 16)).galley.length < 64 →
          exec (.channelMessage p) s = .next (s.setCluster (p.dst / 16)
            { s.cluster (p.dst / 16) with galley := (s.cluster (p.dst / 16)).galley ++ [p] })) ∧
        (16 ≤ (s.core p.dst).inputQ.length → 64 ≤ (s.cluster (p.dst / 16)).galley.length →
          (p.own = none → exec (.channelMessage p) s =
            .next (s.raise { p.org with tag := p.tag, gen := p.gen } 0x15 true p.dst (.chan p.dst ch) 0 (some (clOf p.dst)))) ∧
          (∀ k, p.own = some k → exec (.channelMessage p) s =
            .next (s.signal { p.org with tag := p.tag, gen := p.gen } k 0x15 false (some (clOf p.dst)))))) ∧
      (w.getLsbD 31 = false → exec (.channelMessage p) s =
        .next (s.raise { p.org with tag := p.tag, gen := p.gen } 0x1B true ch (.chan p.dst ch)))) ∧
    (p.body = .chblk ch → w.getLsbD 31 = true → ∃ t, exec (.chblkArrival p) s = .next t ∧
      (t.core p.dst).tasks = SMap.put 0 (s.core p.dst).tasks ch (setBits w 30 30 1) ∧ (t.core p.dst).ready = (s.core p.dst).ready ∧
      ∀ q ∈ (t.core p.dst).niQ, q.toChan p.dst ch = false) ∧
    (p.body = .chunb ch → w.getLsbD 31 = true →
      ∀ rest left up : List Pkt, rest = (s.core p.dst).inputQ.filter (fun q => !q.toChan p.dst ch) →
        left = (s.cluster (p.dst / 16)).galley.filter (fun q => !q.toChan p.dst ch) →
        up = (left.filter fun q => q.forCore p.dst).take (16 - rest.length) →
        ∃ t, exec (.chunbArrival p) s = .next t ∧ SMap.get 0 (t.core p.dst).tasks ch = setBits w 30 30 0 ∧
          (t.core p.dst).inputQ = rest ++ up ∧ (t.cluster (p.dst / 16)).galley = up.foldl (fun l q => removeOne q l) left ∧
          ((s.core p.dst).niQ = [] → ∀ held, held = ((s.core p.dst).inputQ ++ (s.cluster (p.dst / 16)).galley).filter (fun q =>
              q.toChan p.dst ch && !s.reachedChan q.gen p.dst ch) →
            (s.core p.dst).load + held.length ≤ 1024 → ∃ as : List Act, (t.core p.dst).ready = (s.core p.dst).ready ++ as ∧
              as.map (·.tag) = held.map (·.tag) ∧ as.length = held.length))

/-- R21–R23, R137, R460: FALLOC takes the lowest free frame number, in granules when some are free, with zero contents, and answers with its
reference; a free request ends a frame when nothing pins it and no slot of its slot map waits (the map alone: log entry 24); a spilled
frame with a waiting fire is brought back. -/
def Sys2Proof.Claims.FramesComeAndGo : Prop :=
  (∀ (s : State) (p : Pkt) (n w f g : Nat) (c : Cmpl), p.body = .falloc n w c → s.stale p = false →
    (∀ k, k < f → ((s.core p.dst).fent k).v = true) → f < 4096 → ((s.core p.dst).fent f).v = false →
    (s.core p.dst).waiting = [] → s.runs p.dst n = [g] → clOf c.core = clOf p.dst →
    ∃ t, exec (.fallocServe p) s = .next t ∧ (t.core p.dst).fent f = { v := true, res := true, len := n - 1, gran := g } ∧
      (∀ a, a < 256 * n → SMap.get 0 (t.core p.dst).fsram (256 * g + a) = 0) ∧
      (∀ a, a < 256 * g ∨ 256 * g + 256 * n ≤ a → SMap.get 0 (t.core p.dst).fsram a = SMap.get 0 (s.core p.dst).fsram a) ∧
      t.net = s.net ++ [p.org.resp c.core c.tag (.complete c.fid [(w, frameRef p.dst f)] c.k 0)]) ∧
  (∀ (s : State) (p : Pkt) (n w : Nat) (c : Cmpl), p.body = .falloc n w c → s.stale p = false →
    (∀ k, k < 4096 → ((s.core p.dst).fent k).v = true) → exec (.fallocServe p) s = .next ((s.signal p.org c 0x12 true p.backFrom).noted p)) ∧
  (∀ (s : State) (core f : Nat), s.releasable core f = true →
    exec (.frameRelease core f) s = .next (s.setCore core ((s.core core).setFent f
      { (s.core core).fent f with v := false, held := false, dest := none }))) ∧
  (∀ (s : State) (core f : Nat), s.releasable core f = true ↔ ((s.core core).fent f).v = true ∧ ((s.core core).fent f).freq = true ∧
    ((s.core core).fent f).pin = 0 ∧ ∀ i, i < 512 → ((s.core core).fent f).slots.getLsbD i = true → (s.slotWord core f i).getLsbD 45 = false) ∧
  (∀ (s : State) (core f g : Nat) (e : FEnt), e = (s.core core).fent f → s.nextReload core = some f → e.res = false → s.homeOk core f = true →
    s.runs core (e.len + 1) = [g] → e.slots = 0 → (∀ a ∈ (s.core core).spillQ, a.fid ≠ some f) →
    ∃ t, exec (.frameReload core f) s = .next t ∧ (t.core core).fent f = { e with res := true, rld := false, gran := g } ∧
      ∀ a, a < 256 * (e.len + 1) → SMap.get 0 (t.core core).fsram (256 * g + a) =
        SMap.get 0 s.hbm ((s.core core).spillBase.toNat + 4096 * e.home + a))

/-! Memory accesses where they are performed. -/

/-- R158, R173, R295, R308, R408: a store within one piece performs at its place: at the owner's scratchpad when its window lets it, in
the base die, or at the home slice, whose copy then holds the bytes; one that no window lets in writes nothing and raises a record of
cause 0x0A. -/
def Sys2Proof.Claims.StoresPerform : Prop :=
  ∀ (s : State) (p : Pkt) (va : Nat) (bs : List Byte) (full : List Nat), bs ≠ [] → s.Calm p →
    let one := fun l : Loc => l.off % unitOf (clOf p.org.core) l + bs.length ≤ unitOf (clOf p.org.core) l
    (∀ cl off, p.body = .store (bs.mapIdx fun i b => (Loc.spad cl (off + i), b)) va full →
      (one (.spad cl off) → s.PortOpen cl off bs.length p.org true → ∃ t, exec (.storePerform p) s = .next t ∧
        (∀ i b, bs[i]? = some b → SMap.get 0 (t.cluster cl).spad (off + i) = b) ∧
        (∀ a, a < off ∨ off + bs.length ≤ a → SMap.get 0 (t.cluster cl).spad a = SMap.get 0 (s.cluster cl).spad a) ∧
        t.hbm = s.hbm ∧ t.net = s.net ∧ ∀ d, d ≠ cl → t.cluster d = s.cluster d) ∧
      (p.passed = false → s.windowOk cl (clOf p.org.core) off bs.length true = false → ∃ t r, exec (.storePerform p) s = .next t ∧
        t.clusters = s.clusters ∧ t.hbm = s.hbm ∧ t.net = s.net ++ [FaultRec.pkt r (clOf p.org.core)] ∧ r.cause = 0x0A ∧ r.tval = va)) ∧
    (∀ pa wo, p.body = .store (bs.mapIdx fun i b => (Loc.side (pa + i) wo, b)) va full → SMap.get false s.hpoison (pa / 64) = false →
      one (.side pa wo) → ∃ t, exec (.storePerform p) s = .next t ∧ (∀ i b, bs[i]? = some b → SMap.get 0 t.hbm (pa + i) = b) ∧
        (∀ a, a < pa ∨ pa + bs.length ≤ a → SMap.get 0 t.hbm a = SMap.get 0 s.hbm a) ∧ t.clusters = s.clusters) ∧
    (∀ pa l, p.body = .store (bs.mapIdx fun i b => (Loc.mem (pa + i), b)) va full → SMap.get none s.llc (pa / 64) = some l →
      l.poison = false → l.data.length = 64 → 0 < s.llcWays (pa / 64) → one (.mem pa) →
      ∃ t, exec (.storePerform p) s = .next t ∧ (∀ i b, bs[i]? = some b → t.homeByte (pa + i) = b) ∧
        (∀ a, a < pa ∨ pa + bs.length ≤ a → a / 2 ^ 48 % 16 ≠ 1 → t.homeByte a = s.homeByte a) ∧ t.hbm = s.hbm)

/-- R167, R169, R173: a split-phase load reads its bytes at their place and sends its completion with the value, extended by its size; one
with a fault, and one that no window lets in, sends the error word and an error signal. -/
def Sys2Proof.Claims.SplitPhaseReads : Prop :=
  ∀ (s : State) (p : Pkt) (cl off n sz w va fault : Nat) (c : Cmpl), s.Calm p → n = 2 ^ (sz % 4) → off % n = 0 →
    p.body = .ldfar ((List.range n).map fun i => (i, Loc.spad cl (off + i))) [] va sz false fault w c →
    let sends := fun (ws : List (Nat × Word)) (err : Nat) => exec (.ldfarRead p) s = .next
      ((s.sendPkt (p.org.answer (some (.spad cl off)) c.core 0 4 (.ldfarResp ws err c))).noted p)
    (fault = 0 → s.PortOpen cl off n p.org false → sends [(w, sizeValue sz (natOfBytes (loadBytes (s.cluster cl).spad off n)))] 0) ∧
    (fault = 0 → p.passed = false → s.windowOk cl (clOf p.org.core) off n false = false → sends [(w, errorWord 0x0A)] 0x0A) ∧
    (fault ≠ 0 → sends [(w, errorWord fault)] fault)

/-- R176–R178: an atomic at a scratchpad replaces its location by the new value that its operator gives and answers with the old one,
as one step; a failed compare writes nothing. -/
def Sys2Proof.Claims.AtomicsAtTheirTarget : Prop :=
  (∀ (s : State) (p : Pkt) (r : AtReq) (cl off w : Nat) (c : Cmpl), s.Calm p → p.body = .atomic r → r.loc = .spad cl off → r.fault = 0 →
    r.res = some (w, c) → s.PortOpen cl off r.n p.org true →
    ∀ old new, old = natOfBytes (loadBytes (s.cluster cl).spad off r.n) → new = atomicNew r.op r.n old r.b r.cmp →
      ∃ t : State, exec (.atomicAtTarget p) s =
          .next ((t.sendPkt (p.org.answer (some (.spad cl off)) c.core 0 4 (.atomicResp (wordsFrom w (atomicWords r old)) 0 c))).noted p) ∧
        natOfBytes (loadBytes (t.cluster cl).spad off r.n) = new % 2 ^ (8 * r.n) ∧
        (∀ a, a < off ∨ off + r.n ≤ a → SMap.get 0 (t.cluster cl).spad a = SMap.get 0 (s.cluster cl).spad a) ∧
        (∀ d, d ≠ cl → t.cluster d = s.cluster d) ∧ t.hbm = s.hbm ∧ t.net = s.net) ∧
  (∀ n old b cmp, atomicNew .add n old b cmp = (old + b) % 2 ^ (8 * n) ∧ atomicNew .and n old b cmp = old &&& b ∧
    atomicNew .or n old b cmp = old ||| b ∧ atomicNew .xor n old b cmp = old ^^^ b ∧ atomicNew .swap n old b cmp = b ∧
    (old = cmp → atomicNew .cas n old b cmp = b) ∧ (old ≠ cmp → atomicNew .cas n old b cmp = old) ∧
    atomicNew (.min false) n old b cmp = min old b ∧ atomicNew (.max false) n old b cmp = max old b ∧
    (toSigned (8 * n) b < toSigned (8 * n) old → atomicNew (.min true) n old b cmp = b ∧ atomicNew (.max true) n old b cmp = old) ∧
    (toSigned (8 * n) old < toSigned (8 * n) b → atomicNew (.min true) n old b cmp = old ∧ atomicNew (.max true) n old b cmp = b) ∧
    atomicNew (.fadd false) n old b cmp = (f32.arith ((f32.decode old).add (f32.decode b))).1 ∧
    atomicNew (.fadd true) n old b cmp = (bf16.arith ((bf16.decode old).add (bf16.decode b))).1)

/-- R144–R147: a write to an empty or deferred word stores it, makes it full and answers every deferred reader in order, then its own
slot; a write to a full word fails; a clear empties an empty or full word and fails on a deferred one; a read of a full word is
answered, of another deferred, and with no reader entry free tried again, sixteen times. On a guarded page (R411) ISTW and
ISTW.clr write nothing, raise a record and complete. -/
def Sys2Proof.Claims.WriteOnceWords : Prop :=
  ∀ (s : State) (p : Pkt) (cl off va w tries : Nat) (v : Word) (c : Cmpl) (st : WoState), s.Calm p → off % 8 = 0 →
    st = SMap.get .empty (s.cluster cl).wo (off / 8) → s.PortOpen cl off 8 p.org true →
    let rs := (s.cluster cl).readers.filter fun r => r.addr == off
    let replies := fun (u : State) (r : Reader) (x : Word) =>
      u.sendPkt (r.org.answer (some (.spad cl off)) r.cmpl.core r.cmpl.tag 2 (.complete r.cmpl.fid [(r.w, x)] r.cmpl.k 0))
    let signals := fun (u : State) (err : Nat) => u.sendPkt (p.org.resp c.core c.tag (.sig c.fid c.k err none true) p.backFrom)
    (p.body = .istw (.spad cl off) va v 0 (some c) →
      (st ≠ .full → ∃ t, exec (.istwArrival p) s = .next (signals (rs.foldl (fun u r => replies u r v) t) 0) ∧
        natOfBytes (loadBytes (t.cluster cl).spad off 8) = v.toNat ∧ SMap.get .empty (t.cluster cl).wo (off / 8) = .full ∧
        (t.cluster cl).readers = (s.cluster cl).readers.filter (fun r => r.addr != off) ∧ t.net = s.net) ∧
      (st = .full → exec (.istwArrival p) s = .next (signals s 0x0C))) ∧
    (p.body = .istwClr (.spad cl off) va 0 (some c) →
      (st ≠ .deferred → ∃ t, exec (.istwClrArrival p) s = .next (signals t 0) ∧ SMap.get .empty (t.cluster cl).wo (off / 8) = .empty ∧
        (t.cluster cl).spad = (s.cluster cl).spad ∧ t.net = s.net) ∧
      (st = .deferred → exec (.istwClrArrival p) s = .next (signals s 0x0C))) ∧
    (∀ a, p.body = .istw (.guard a) va v 0 (some c) → exec (.istwArrival p) s = .next (signals (s.record p.org 0x0B va) 0)) ∧
    (∀ a, p.body = .istwClr (.guard a) va 0 (some c) → exec (.istwClrArrival p) s = .next (signals (s.record p.org 0x0B va) 0)) ∧
    (∀ i, i = .isrdArrival p ∨ i = .isrdRetry p → p.body = .isrd (.spad cl off) va 0 w c tries →
      (st = .full → exec i s = .next ((replies s { addr := off, w := w, cmpl := c, gen := p.gen, org := p.org }
        (BitVec.ofNat 64 (natOfBytes (loadBytes (s.cluster cl).spad off 8)))).noted p)) ∧
      (st ≠ .full → (s.cluster cl).readers.length < 1024 → ∃ t, exec i s = .next t ∧
        SMap.get .empty (t.cluster cl).wo (off / 8) = .deferred ∧ t.net = s.net ∧
        (t.cluster cl).readers = (s.cluster cl).readers ++ [{ addr := off, w := w, cmpl := c, gen := p.gen, org := p.org }]) ∧
      (st ≠ .full → 1024 ≤ (s.cluster cl).readers.length → tries < 16 →
        exec i s = .next (s.after (s.cyc 256) (.isrdRetry { p with body := .isrd (.spad cl off) va 0 w c (tries + 1) }))) ∧
      (st ≠ .full → 1024 ≤ (s.cluster cl).readers.length → 16 ≤ tries → exec i s = .next ((s.sendPkt
        (p.org.answer (some (.spad cl off)) c.core c.tag 2 (.complete c.fid [(w, errorWord 0x12)] c.k 0x12))).noted p)))

/-- R149–R151: a put to a free position writes its entry, sets its bit, counts it and signals its slot, or has written one half of the
entry first and waits with the other (log entry 46); to an occupied one it waits at the slice, until a retire frees the position; a retire of a free position fails; a timer whose time has come signals its slot. -/
def Sys2Proof.Claims.RoutingLogAndTimers : Prop :=
  (∀ (s u v : State) (p : Pkt) (dva layer mb byte : Nat) (data : VReg) (c : Cmpl) (a : RlogAt),
    s.rlogPlace p dva layer mb = .ok (a, u) →
    (p.body = .rlogPut dva layer mb data c → u.rlogBit (u.rlogUser p) a = .ok (false, byte, v) →
      (∀ q ∈ (v.die (homeDie a.desc)).rlog, ¬(q.desc = a.desc ∧ q.pos = a.pos)) →
      ∀ t, writeAll (v.rlogUser p) v [(a.entry, bytesOfNat 128 data.toNat), (a.occ, [BitVec.ofNat 8 (byte ||| 2 ^ (a.pos % 8))]),
        (dva + 32, bytesOfNat 8 (a.used + 1))] = .ok t →
        exec (.rlogPutArrival p) s = .next ((t.signal p.org c 0 true p.backFrom).performed p) ∨
        ∃ h bs w, h < 2 ∧ v.writeNow (v.rlogUser p) (a.entry + 64 * h) (((bytesOfNat 128 data.toNat).drop (64 * h)).take 64) = .ok bs w ∧
          exec (.rlogPutArrival p) s = .next (w.modDie (homeDie a.desc) fun d =>
            { d with rlog := d.rlog ++ [{ pkt := p, desc := a.desc, pos := a.pos, half := some (1 - h) }] })) ∧
    (p.body = .rlogPut dva layer mb data c → u.rlogBit (u.rlogUser p) a = .ok (true, byte, v) →
      (v.inst? p.gen).any (·.st == .frozen) = false → ((v.die (homeDie a.desc)).rlog.filter (·.half.isNone)).length < 64 → exec (.rlogPutArrival p) s = .next (v.setDie (homeDie a.desc)
        { v.die (homeDie a.desc) with rlog := (v.die (homeDie a.desc)).rlog ++ [{ pkt := p, desc := a.desc, pos := a.pos }] })) ∧
    (p.body = .rlogRet dva layer mb c → u.rlogBit (u.rlogUser p) a = .ok (true, byte, v) →
      ∀ t, writeAll (v.rlogUser p) v [(a.occ, [BitVec.ofNat 8 (byte - 2 ^ (a.pos % 8))]),
        (dva + 32, bytesOfNat 8 ((a.used + 2 ^ 64 - 1) % 2 ^ 64))] = .ok t →
        exec (.rlogRetireArrival p) s = .next ((t.signal p.org c 0 true p.backFrom).performed p)) ∧
    (p.body = .rlogRet dva layer mb c → u.rlogBit (u.rlogUser p) a = .ok (false, byte, v) →
      exec (.rlogRetireArrival p) s = .next ((v.signal p.org c 0x09 true p.backFrom).performed p))) ∧
  (∀ (s u t : State) (die ix dva layer mb byte : Nat) (w : RlogWait) (a : RlogAt) (data : VReg) (c : Cmpl),
    s.rlogFree die ix = some (w, a, byte, u) → w.pkt.body = .rlogPut dva layer mb data c →
    ∀ v, v = u.setDie die { u.die die with rlog := (u.die die).rlog.eraseIdx ix } →
      let left := match w.half with
        | none => (a.entry, bytesOfNat 128 data.toNat)
        | some h => (a.entry + 64 * h, ((bytesOfNat 128 data.toNat).drop (64 * h)).take 64)
      writeAll (v.rlogUser w.pkt) v [left, (a.occ, [BitVec.ofNat 8 (byte ||| 2 ^ (a.pos % 8))]),
        (dva + 32, bytesOfNat 8 (a.used + 1))] = .ok t →
        exec (.rlogWaitingPut die ix) s = .next ((t.signal w.pkt.org c 0 true w.pkt.backFrom).performed w.pkt)) ∧
  (∀ (s : State) (core ix : Nat) (t : Timer), (s.core core).timers[ix]? = some t → t.at_ ≤ s.time →
    (s.cluster (core / 16)).stopped = false → exec (.timerFire core ix) s =
      .next ((s.setCore core { s.core core with timers := (s.core core).timers.eraseIdx ix }).signal
        { core := core, node := .slot core t.cmpl.fid t.cmpl.k, tag := t.cmpl.tag, gen := t.gen } t.cmpl 0 true))

/-- R164–R166, R412–R414: a fill brings the line into the L1, pinned for the activations that wait for it, and queues those that then wait
for nothing; a walk reads one entry of each level after another, its translation enters the TLB of every cluster that waits, and its fault is
handed to the accesses that wait. -/
def Obligations.FillsAndWalks : Prop :=
  (∀ (s : State) (core line : Nat) (l : LlcLine), (s.core core).l1mode = false → SMap.get none s.llc line = some l → l.poison = false →
    SMap.get false s.hbad line = false → SMap.get none (s.core core).rb line = none →
    ((s.core core).l1.filter fun (x, _) => l1Set false x == l1Set false line).length < s.l1Ways core (l1Set false line) →
    ∃ t, exec (.l1Fill core line) s = .next t ∧
      (∃ n, SMap.get none (t.core core).l1 line = some n ∧ n.data = (List.range 64).map (fun i => l.data.getD i 0) ∧ n.valid = 255 ∧
        n.poison = false ∧ ∀ m ∈ (s.core core).misses, line ∈ m.lines → m.forBuf = false → m.act.id ∈ n.pins) ∧
      ∀ m ∈ (s.core core).misses, m.lines = [line] → m.pages = [] → m.forBuf = false → s.Here core m.act →
        { m.act with since := s.time } ∈ (t.core core).ready) ∧
  (∀ (s : State) (cl page b : Nat) (w : Walk) (cls : List Nat), s.walkAt cl page = some (w, cls) → cls ≠ [] →
    (w.base <|> (s.cluster (cls.headD 0)).root) = some b →
    (∀ x, s.walkRead w.gen (page * 2 ^ 16) w.left b = .table x → ∃ t, exec (.tlbWalk cl page) s = .next t ∧ t.clusters = s.clusters ∧
      t.cores = s.cores ∧ { w with left := w.left - 1, base := some x } ∈ (t.die (cl / 64)).walks) ∧
    (∀ e, s.walkRead w.gen (page * 2 ^ 16) w.left b = .leaf e → (∀ c ∈ cls, (s.cluster c).tlb.length < 4096) →
      ∃ t, exec (.tlbWalk cl page) s = .next t ∧ ∀ c ∈ cls, e ∈ (t.cluster c).tlb ∧
        ∀ core m, core / 16 = c → m ∈ (s.core core).misses → m.pages = [page] → m.lines = [] → m.forBuf = false → s.Here core m.act →
          { m.act with since := s.time } ∈ (t.core core).ready) ∧
    (∀ e, s.walkRead w.gen (page * 2 ^ 16) w.left b = .fault e → ∃ t, exec (.tlbWalk cl page) s = .next t ∧
      ∀ c ∈ cls, (t.cluster c).tlb = (s.cluster c).tlb ∧ ∀ core m, core / 16 = c → m ∈ (s.core core).misses → page ∈ m.pages →
        { act := m.act.id, page := page, cause := e } ∈ (t.core core).walkFaults)) ∧
  (∀ (s : State) (cl page : Nat) (w : Walk) (cls : List Nat), s.walkAt cl page = some (w, cls) → cls ≠ [] → w.base = none →
    (s.cluster (cls.headD 0)).root = none → ∃ t, exec (.tlbWalk cl page) s = .next t ∧
      ∀ c ∈ cls, (t.cluster c).tlb = (s.cluster c).tlb ∧ ∀ core m, core / 16 = c → m ∈ (s.core core).misses → page ∈ m.pages →
        { act := m.act.id, page := page, cause := 0x08 } ∈ (t.core core).walkFaults)

/-! The units of a cluster and the network. -/

/-- R207–R213, R218, R225: a matrix command enters its region's queue on a slot that lets it, or its completion reports 0x1A; MZERO and MMA
have their results in the slot; a command that has run leaves the queue in order and signals with the context of its slot's tag as affinity; a group
command that has waited 2^20 arithmetic cycles for the heads of its group's queues is given up with cause 0x1A. A command whose slot was
marked for orphaning while it was outstanding ends with cause 0x1A. The model's choices: the affinity of a completion that a FREE slot
refuses (log entry 58), and that no timeout counts once all heads stand (log entry 85). -/
def Sys2Proof.Claims.MatrixCommandsRun : Prop :=
  (∀ (s : State) (core : Nat) (c : MCmd) (t : List MCmd) (a : ASlot), (s.core core).lane = c :: t → (s.core core).regionQ.length < 16 →
    a = (s.core core).aslot c.sl →
    (c.op.accepts a.seen.1 (a.seen.2 == c.ctx) = true → c.op ≠ .mmag →
      ∃ u, exec (.matrixCommandAccept core) s = .next u ∧ (u.core core).lane = t ∧ (u.core core).regionQ =
        (s.core core).regionQ ++ [{ c with tagCtx := a.tagOf c, since := s.time, claimed := a.seen.1 == .free && c.op.claims }] ∧
        ((u.core core).aslot c.sl).busy = a.busy + 1 ∧ (c.op ≠ .mrel → ((u.core core).aslot c.sl).acc = a.acc) ∧
        (a.rel = false → a.st = .free → c.op ≠ .mrel →
          ((u.core core).aslot c.sl).st = .busy ∧ ((u.core core).aslot c.sl).ctx = c.ctx) ∧
        (a.rel = false → a.st = .orphaned → ((u.core core).aslot c.sl).st = .free ∧ ∀ i j, ((u.core core).aslot c.sl).el i j = 0)) ∧
    (c.op.accepts a.seen.1 (a.seen.2 == c.ctx) = false → ∀ k, c.cmpl = some k →
      ∃ u, exec (.matrixCommandAccept core) s = .next u ∧ (u.core core).lane = t ∧ (u.core core).regionQ = (s.core core).regionQ ∧
        u.net = s.net ++ [{ c.org.resp k.core k.tag (.sig k.fid k.k 0x1A (some (a.tagOf c)) true) with dst := core }])) ∧
  (∀ a : ASlot, a.rel = false → a.seen = (a.st, a.ctx)) ∧
  (∀ (op : MOp) (own : Bool),
    (op.accepts .free own = true ↔ op = .mzero ∨ op = .mldc ∨ op = .mma ∨ op = .mmag ∨ op = .sbcfg ∨ op = .mrel) ∧
    (op.accepts .busy own = true ↔ own = true ∧ op ≠ .sbstep) ∧ (op.accepts .held own = true ↔ own = true ∧ op ≠ .sbstep) ∧
    (op.accepts .orphaned own = true ↔ op = .mrel) ∧
    (op.accepts .state own = true ↔ own = true ∧ op ≠ .mzero ∧ op ≠ .mldc ∧ op ≠ .mstc ∧ op ≠ .mque)) ∧
  (∀ (s : State) (core : Nat) (c : MCmd) (q : List MCmd), (s.core core).regionQ = c :: q → c.op = .mzero → c.phase = .queued →
    s.storesIn core c = true → ∃ u, exec (.matrixCommandStart core 0) s = .next u ∧
      (∀ i j, ((u.core core).aslot c.sl).el i j = 0) ∧ (u.core core).regionQ = { c with phase := .done, err := 0, tval := 0 } :: q) ∧
  (∀ (s : State) (core : Nat) (c : MCmd) (q : List MCmd) (g : Cluster) (a : ASlot), (s.core core).regionQ = c :: q → c.op = .mma →
    c.phase = .queued → s.storesIn core c = true → g = s.cluster (core / 16) → g.Sound → g.pmism = [] → a = (s.core core).aslot c.sl →
    epStream c.ga = false → epStream c.gb = false → s.mmaUsable core c (mmaReads false c.geom c.ga c.gc c.desc) = true →
    ∀ d na nb, d = c.desc → na = fmtBits (mmaFa d) → nb = fmtBits (mmaFb d) →
    ∃ u, exec (.matrixCommandStart core 0) s = .next u ∧ (u.core core).regionQ = { c with phase := .done, err := 0, tval := 0 } :: q ∧
      ∀ i j, i < 32 → j < 32 → ((u.core core).aslot c.sl).el i j = mmaSum a.fmt (a.el i j) ((List.range (mmaK d)).map fun k =>
        if c.gc.getLsbD i && c.gc.getLsbD (32 + j) && decide (k < mmaDepth d) then
          (((fmtDecode (mmaFa d) (mmaCa d) (g.opEl c.org.core c.past (epOff c.ga + i * epStride c.ga) na k).code)).mul
            (fmtDecode (mmaFb d) (mmaCb d) (g.opEl c.org.core c.past (epOff c.gb + k * epStride c.gb) nb j).code)).1
        else .zero) % 2 ^ 40) ∧
  (∀ (s : State) (core : Nat) (c : MCmd) (q : List MCmd) (k : Cmpl) (a : ASlot), (s.core core).regionQ = c :: q → c.phase = .done →
    c.cmpl = some k → a = (s.core core).aslot c.sl → (s.core core).ni = [] →
    ∃ u, exec (.matrixCommandComplete core 0) s = .next u ∧ (u.core core).regionQ = q ∧
      u.net = s.net ++ [{ c.org.resp k.core k.tag (.sig k.fid k.k (if a.orphan || c.marked then 0x1A else c.err) (some c.tagCtx) true)
        with dst := core }] ∧
      (c.op = .mrel → a.busy = 1 → a.next = none → ((u.core core).aslot c.sl).st = .free ∧ ∀ i j, ((u.core core).aslot c.sl).el i j = 0) ∧
      (c.op = .mma → a.st = .busy → a.orphan = false → ((u.core core).aslot c.sl).acc = a.acc ∧
        ((u.core core).aslot c.sl).st = (if a.busy ≤ 1 then .held else .busy))) ∧
  (∀ (s : State) (core : Nat) (c : MCmd), (s.core core).regionQ = [c] → c.op = .mmag → c.phase = .queued → s.mfail = [] →
    c.since + s.arith (2 ^ 20) ≤ s.time → (s.atHeads c ≠ none → exec (.groupCommandTimeout core c.seq) s = .next s) ∧
    (s.atHeads c = none → ∃ u, exec (.groupCommandTimeout core c.seq) s = .next u ∧
      u = { s with mfail := [(mseqKey c.geom c.org.gen, c.seq)] } ∧
      (s.storesIn core c = true → ∃ v, exec (.matrixCommandStart core 0) u = .next v ∧
        (v.core core).regionQ = [{ c with phase := .done, err := 0x1A, tval := 0 }])))

/-- R399: a suspect unit is mapped to a free spare of its kind, which serves each region from its next command boundary on, or the host is
told; scores fall by one every 2^24 arithmetic cycles. -/
def Sys2Proof.Claims.SuspectUnits : Prop :=
  (∀ (s : State) (cl u : Nat) (g : Cluster), g = s.cluster cl → (SMap.get {} g.suspects u).quar = false →
    (∀ x, g.freeSpare u = some x → ∃ t, exec (.quarantineRemap cl u) s = .next t ∧
      (SMap.get {} (t.cluster cl).suspects u).quar = true ∧ (SMap.get {} (t.cluster cl).suspects u).map = x ∧
      (SMap.get {} (t.cluster cl).suspects u).left = s.crossed cl u ∧ (SMap.get {} (t.cluster cl).suspects u).was = u ∧
      x ∈ sparesOf u ∧ x ≠ u ∧ (SMap.get {} g.suspects x).quar = false ∧
      (∃ y ∈ sparesOf u, y ≠ x ∧ y ≠ u ∧ (SMap.get {} g.suspects y).quar = false) ∧ ∀ c, c ≠ cl → t.cluster c = s.cluster c) ∧
    (g.freeSpare u = none → (s.host.evhead + 1) % 2 ^ s.host.evlsz ≠ s.host.evtail % 2 ^ s.host.evlsz →
      ∃ t, exec (.quarantineRemap cl u) s = .next t ∧ t.clusters = s.clusters ∧ t.host.msix = s.host.msix ++ [0] ∧
        t.host.evhead = (s.host.evhead + 1) % 2 ^ s.host.evlsz) ∧
    (g.freeSpare u = none → (s.host.evhead + 1) % 2 ^ s.host.evlsz = s.host.evtail % 2 ^ s.host.evlsz →
      exec (.quarantineRemap cl u) s = .next { s with host := { s.host with evlost := s.host.evlost + 1 } })) ∧
  (∀ (s : State) (cl u c : Nat), c ∈ s.crossed cl u ↔ c / 16 = cl ∧ u < 132 ∧ c % 4 = u / 32 ∧
    ∃ m ∈ (s.core c).regionQ, m.phase = .running) ∧
  (∀ (g : Cluster) (core u : Nat) (e : Suspect), e = SMap.get {} g.suspects u → g.unitOf core u =
    if e.quar = true then if core ∈ e.left then e.was else e.map else u) ∧
  (∀ s : State, SMap.wf {} s.clusters = true → (∀ c, SMap.wf {} (s.cluster c).suspects = true) →
    ∃ t, exec .suspectScoreDecay s = .next t ∧ t.timed = s.timed ++ [(s.time + s.arith (2 ^ 24), .suspectScoreDecay)] ∧
      ∀ c u, SMap.get {} (t.cluster c).suspects u =
        { SMap.get {} (s.cluster c).suspects u with score := (SMap.get {} (s.cluster c).suspects u).score - 1 })

/-- R92, R242–R246: an event of a state bank joins the queue of its cluster, counts as late, is refused, or tries again while the queue is
full; a step multiplies every state by its column's alpha, adds each event's value times the weight row of its source, and then compares
with theta and resets; the end of an SBSTEP writes the hardware fields of the descriptor. -/
def Obligations.StateBanksStep : Prop :=
  (∀ (s : State) (p : Pkt) (i : Instr) (cl reg sl row tries : Nat) (ev : Word) (k : Cmpl) (a : ASlot),
    (i = .eventQueueArrival p ∨ i = .eventRetry p) → p.body = .sbevt cl reg sl row ev (some k) tries none → s.stale p = false →
    a = (s.core (16 * cl + reg)).aslot sl →
    (a.st ≠ .state → exec i s = .next ((s.signal p.org k 0x1A true p.backFrom).noted p)) ∧
    (a.st = .state → (BankDesc.ofWords a.bank.desc).nsrc < evSrc ev →
      exec i s = .next ((s.signal p.org k 0x09 true p.backFrom).noted p)) ∧
    (a.st = .state → evSrc ev ≤ (BankDesc.ofWords a.bank.desc).nsrc →
      (late (evTime ev) a.bank.nxt = true → ∃ t : State, exec i s = .next ((t.signal p.org k 0 true p.backFrom).noted p) ∧
        ((t.core (16 * cl + reg)).aslot sl).bank.late = a.bank.late + 1 ∧ t.clusters = s.clusters ∧ t.net = s.net) ∧
      (late (evTime ev) a.bank.nxt = false → (s.cluster cl).evq.length < 4096 →
        ∃ t : State, exec i s = .next ((t.signal p.org k 0 true p.backFrom).noted p) ∧
        (t.cluster cl).evq = (s.cluster cl).evq ++ [{ core := 16 * cl + reg, slot := sl, row := row, ev := ev }] ∧
        t.cores = s.cores ∧ t.net = s.net) ∧
      (late (evTime ev) a.bank.nxt = false → 4096 ≤ (s.cluster cl).evq.length → tries < 16 →
        exec i s = .next (s.after (s.cyc 256) (.eventRetry { p with body := .sbevt cl reg sl row ev (some k) (tries + 1) none }))) ∧
      (late (evTime ev) a.bank.nxt = false → 4096 ≤ (s.cluster cl).evq.length → 16 ≤ tries →
        exec i s = .next ((s.signal p.org k 0x14 true p.backFrom).noted p)))) ∧
  (∀ (s : State) (core : Nat) (c : MCmd) (q : List MCmd) (a : ASlot) (g : Cluster) (d : BankDesc) (evs : List BankEvent),
    (s.core core).regionQ = c :: q → c.op = .sbstep → c.phase = .running → s.emitting core c.sl = false → c.left ≠ 0 →
    a = (s.core core).aslot c.sl → a.st = .state → g = s.cluster (core / 16) → g.Sound → d = BankDesc.ofWords a.bank.desc →
    evs = g.evq.filter (fun e => e.core == core && e.slot == c.sl && evTime e.ev == a.bank.nxt) →
    (∀ e ∈ evs, g.usable (d.woff + 128 * evSrc e.ev) 128 = true) →
    ∃ t b, exec (.sbStep core 0) s = .next t ∧ b = (t.core core).aslot c.sl ∧ b.bank.nxt = (a.bank.nxt + 1) % 2 ^ 16 ∧
      (t.core core).regionQ = { c with left := c.left - 1 } :: q ∧
      (t.cluster (core / 16)).evq = g.evq.filter (fun e => !(e.core == core && e.slot == c.sl && evTime e.ev == a.bank.nxt)) ∧
      ∀ i j h y th, evs.length ≤ 1 → i < 32 → j < 32 → th = a.bank.thetaOf j → h = roundNE f40 ((a.bank.alphaOf j).mul (f40.decode (a.el i j))).1 % 2 ^ 40 →
        (evs = [] → y = h) →
        (∀ e, evs = [e] → y = if e.row = i then roundNE f40 ((f40.decode h).add ((f32.decode (evValue e.ev)).mul
          (fmtDecode 0x0A 0 (g.opEl c.org.core c.past (d.woff + 128 * evSrc e.ev) 32 j).code)).1).1 % 2 ^ 40 else h) →
        b.el i j = if d.fe && !(f40.decode y).isNan && !th.isNan && !(f40.decode y).lt th then
            (if d.rs then roundNE f40 ((f40.decode y).add th.negate).1 % 2 ^ 40 else 0) else y) ∧
  (∀ (s : State) (core : Nat) (c : MCmd) (q : List MCmd) (b : Bank), (s.core core).regionQ = c :: q → c.op = .sbstep → c.phase = .running →
    s.emitting core c.sl = false → c.left = 0 → b = ((s.core core).aslot c.sl).bank → (s.cluster (core / 16)).Sound →
    (s.cluster (core / 16)).usable (b.off + 32) 32 = true → c.org.core = core → c.err = 0 → c.bad = 0 → c.evErr = 0 → c.late0 = b.late →
    ∃ t, exec (.sbStep core 0) s = .next t ∧ (t.core core).regionQ = { c with phase := .done, err := 0, tval := 0 } :: q ∧
      loadBytes (t.cluster (core / 16)).spad (b.off + 32) 32 =
        bytesOfWords [BitVec.ofNat 64 b.nxt, BitVec.ofNat 64 b.late, BitVec.ofNat 64 b.dropped, BitVec.ofNat 64 b.fired])

/-- R252, R256–R261: a kick enters its hart's queue of 16; an idle hart takes its next command and checks it; an element that is read is
written at the same place of the destination's shape; a command that has ended leaves its hart and completes; one that has run for WDOG
core cycles fails with cause 0x0F. -/
def Obligations.EngineHartsRun : Prop :=
  (∀ (s : State) (core h : Nat) (c : ECmd) (q : List ECmd), (s.core core).engLane = c :: q → h = (s.cluster (core / 16)).kickHart c.hart →
    ((s.cluster (core / 16)).hart h).q.length < 16 → ∃ t, exec (.engineKickArrival core 0) s = .next t ∧ (t.core core).engLane = q ∧
      ((t.cluster (core / 16)).hart h).q = ((s.cluster (core / 16)).hart h).q ++ [c.onHart h]) ∧
  (∀ g : Cluster, (∀ h, h ≠ 3 → g.kickHart h = h) ∧ ((g.hart 1).q.length < (g.hart 0).q.length → g.kickHart 3 = 1) ∧
    ((g.hart 0).q.length ≤ (g.hart 1).q.length → g.kickHart 3 = 0)) ∧
  (∀ (s : State) (cl h : Nat) (c : ECmd) (q : List ECmd) (t : Hart), t = (s.cluster cl).hart h → (s.cluster cl).stopped = false →
    t.finished = false → t.cmd = none → t.q = c :: q → bits (c.wd 0) 63 19 ≠ 0 ∨ bits (c.wd 0) 15 13 ≠ 0 ∨ bits (c.wd 0) 12 10 = 7 →
    ∃ u, exec (.engineCommandStart cl h) s = .next u ∧ ((u.cluster cl).hart h).cmd = some c ∧ ((u.cluster cl).hart h).q = q ∧
      ((u.cluster cl).hart h).finished = true ∧ ((u.cluster cl).hart h).err = 0x09 ∧ ((u.cluster cl).hart h).tval = c.wd 0) ∧
  (∀ (s v : State) (cl h : Nat) (c : ECmd) (t : Hart) (bs : List Byte), t = (s.cluster cl).hart h → (s.cluster cl).stopped = false →
    t.finished = false → t.cmd = some c → t.begun = true → t.std = true → c.entry = 0 → t.left = [] →
    s.hartRead (c.user cl) h (endpointAt (c.wd 2) (shapeOff t.dims t.pos)) c.size = .ok bs v → (v.cluster cl).hart h = t →
    ∀ a, a = endpointAt (c.wd 3) (shapeOff t.dims t.pos) → isStream a = false →
      (∀ e x, v.placesNow (c.user cl) .write a bs.length = .error (e, x) → ∃ u, exec (.engineCommandStart cl h) s = .next u ∧
        ((u.cluster cl).hart h).finished = true ∧ ((u.cluster cl).hart h).err = e ∧ ((u.cluster cl).hart h).tval = x) ∧
      (∀ ls w, v.placesNow (c.user cl) .write a bs.length = .ok (ls, w) → ∃ u, exec (.engineCommandStart cl h) s = .next u ∧
        (w.windowsOk cl ls true = true → ((u.cluster cl).hart h).left = pieces cl (fun (x : Loc × Byte) => x.1) (List.zip ls bs)) ∧
        (w.windowsOk cl ls true = false → ((u.cluster cl).hart h).finished = true ∧ ((u.cluster cl).hart h).err = 0x0A ∧
          ((u.cluster cl).hart h).tval = a))) ∧
  (∀ (s : State) (cl h : Nat) (c : ECmd) (t : Hart), t = (s.cluster cl).hart h → t.cmd = some c → t.finished = true → c.cred = none →
    ∀ k, c.cmpl = some k → ∃ u, exec (.engineCommandComplete cl h) s = .next u ∧ ((u.cluster cl).hart h).cmd = none ∧
      ((u.cluster cl).hart h).q = t.q ∧ u.net = s.net ++ [c.org.resp k.core k.tag (.sig k.fid k.k t.err none true)] ∧
      (t.err ≠ 0 → SMap.get 0 (u.core c.org.core).mailbox (4 + h) = errorWord t.err)) ∧
  (∀ (s : State) (cl h : Nat) (c : ECmd) (t : Hart), t = (s.cluster cl).hart h → t.cmd = some c → t.finished = false →
    (s.cluster cl).stopped = false → t.since + s.cyc (s.core c.org.core).wdog.toNat ≤ s.time →
    ∃ u, exec (.engineWatchdog cl h) s = .next u ∧ ((u.cluster cl).hart h).finished = true ∧ ((u.cluster cl).hart h).err = 0x0F ∧
      ((u.cluster cl).hart h).tval = (s.time - t.since) * coreMHz s.opclock / 1000)

/-- R264–R268, R360, R372, R375, R380: a contribution joins its operation at a site, which folds left to right once all inputs are there; one
beyond the window waits in the galley, and with that full is refused; a result reaches a member's result queue and the activations that
wait for it. A vector travels as messages of at most 28 elements. -/
def Sys2Proof.Claims.CollectivesCombine : Prop :=
  (∀ (s : State) (p : Pkt) (cl grp n pos : Nat) (v : Option (List Word)) (b : Nat), p.body = .contrib grp n pos v → cl = p.dst / 16 → cl < 512 →
    s.stale p = false → s.oldView p = false → p.spkg = ownPkg → b = SMap.get 0 (s.cluster cl).cbase grp →
    (n < b → exec (.combiningContribution p) s = .next (s.noted p)) ∧
    (b + 1 < n → (s.cluster cl).galley.length < 64 → ∃ t, exec (.combiningContribution p) s = .next t ∧
      (t.cluster cl).galley = (s.cluster cl).galley ++ [p] ∧ t.net = s.net) ∧
    (b + 1 < n → 64 ≤ (s.cluster cl).galley.length → exec (.combiningContribution p) s = .next ((s.refuse p p.org.node).noted p)) ∧
    (b ≤ n → n ≤ b + 1 → p.part.2 ≤ 1 → (s.core (16 * cl + pos)).evArms = [] → ((s.cluster cl).op grp n).part pos = none → ((s.cluster cl).op grp n).sent = false →
      ∀ ps, ps = ((s.cluster cl).op grp n).parts ++ [(pos, v)] →
      ∃ t, exec (.combiningContribution p) s = .next t ∧ ((t.cluster cl).op grp n).parts = ps ∧
        (∀ i, i ∈ s.siteInputs cl grp → (ps.find? (·.1 == i)) = none → t.net = s.net ∧ ((t.cluster cl).op grp n).sent = false) ∧
        (∀ vals, (s.siteInputs cl grp).map (fun i => (ps.find? (·.1 == i)).map (·.2)) = vals.map some → vals ≠ [] →
          espXpkg (s.espOf cl grp) = false → espPar (s.espOf cl grp) = 0 → ((t.cluster cl).op grp n).sent = true ∧
          t.net = s.net ++ (s.siteMsg cl grp (16 * cl)
            (.result grp n true 0 (foldInputs (espType (s.espOf cl grp)) (espOp (s.espOf cl grp)) vals))).split))) ∧
  (∀ (p : Pkt) (grp n pos : Nat) (l : List Word), p.body = .contrib grp n pos (some l) ∨ (∃ b, p.body = .result grp n b 0 (some l)) →
    (l.length ≤ 28 → p.split = [p]) ∧ (28 < l.length → p.split.length = (l.length + 27) / 28 ∧
      p.split.flatMap (·.body.elements) = l ∧ ∀ q ∈ p.split, q.body.elements.length ≤ 28 ∧ q.dst = p.dst ∧ q.src = p.src)) ∧
  (∀ (s : State) (p : Pkt), (∀ c, p.own = some c → s.refuse p p.org.node =
      s.signal { p.org with tag := p.tag, gen := p.gen } c 0x15 false (some (clOf p.dst))) ∧
    (p.own = none → s.refuse p p.org.node =
      s.raise { p.org with tag := p.tag, gen := p.gen } 0x15 true p.dst p.org.node 0 (some (clOf p.dst)))) ∧
  (∀ (ty op : Nat) (a : List Word) (l : List (Option (List Word))),
    foldInputs ty op (some a :: l) = l.foldl (foldTwo ty op) (some (a.map fun x => BitVec.ofNat 64 (x.toNat % 2 ^ typeBits ty)))) ∧
  (∀ a b : Nat, a < 2 ^ 64 → b < 2 ^ 64 → foldElem 5 0 a b = (a + b) % 2 ^ 64 ∧ foldElem 6 1 a b = min a b ∧ foldElem 6 2 a b = max a b ∧
    foldElem 5 3 a b = a &&& b ∧ foldElem 5 4 a b = a ||| b ∧ foldElem 5 5 a b = a ^^^ b) ∧
  (∀ (s : State) (p : Pkt) (grp n pos : Nat) (w : Word) (l : List Word), p.body = .result grp n false pos (some (w :: l)) → s.stale p = false →
    s.oldView p = false → p.part.2 ≤ 1 → s.waitingCred p.dst grp n = none → (s.core p.dst).evArms = [] →
    (∀ q ∈ (s.core p.dst).cextQ, q.1 = grp → s.Here p.dst q.2) →
    ∃ t, exec (.combiningResult p) s = .next t ∧
      (t.core p.dst).results = (s.core p.dst).results ++ [{ grp := grp, n := n, v := w }] ∧
      (t.core p.dst).cextQ = (s.core p.dst).cextQ.filter (·.1 != grp) ∧
      ((t.core p.dst).ready.map (·.id)) = (s.core p.dst).ready.map (·.id) ++ ((s.core p.dst).cextQ.filter (·.1 == grp)).map (·.2.id)) ∧
  (∀ (s : State) (p : Pkt) (cl grp n : Nat) (v : Option (List Word)), p.body = .result grp n true 0 v → cl = p.dst / 16 → cl < 512 →
    s.stale p = false → s.oldView p = false → p.part.2 ≤ 1 → SMap.get 0 (s.cluster cl).cbase grp = n → (s.cluster cl).galley = [] →
    espXpkg (s.espOf cl grp) = false → (s.espOf cl grp).getLsbD 32 = false → (s.espOf cl grp).getLsbD 33 = false →
    ∃ t, exec (.combiningResult p) s = .next t ∧ SMap.get 0 (t.cluster cl).cbase grp = n + 1 ∧
      t.net = s.net ++ (espMembers (s.espOf cl grp)).flatMap fun i => (s.siteMsg cl grp (16 * cl + i) (.result grp n false 0 v)).split)

/-- R368–R371: a stream's next flit of at most 32 bytes reaches its consumer in order; a token bucket fills up to its burst, and a packet that enters the
torus takes its flits or is held. -/
def Sys2Proof.Claims.StreamsAndBuckets : Prop :=
  (∀ (s : State) (gen port branch : Nat), ∃ t, exec (.streamData gen port branch) s = .next t ∧ t.streams.length = s.streams.length ∧
    ∀ (i : Nat) (x : Stream), s.streams[i]? = some x →
      (¬(x.gen = gen ∧ x.port = port ∧ x.branch = branch) → t.streams[i]? = some x) ∧
      (x.gen = gen → x.port = port → x.branch = branch → x.conv = false →
        t.streams[i]? = some { x with flight := x.flight.drop 32, here := x.here ++ x.flight.take 32 }) ∧
      (x.gen = gen → x.port = port → x.branch = branch → ∃ y, t.streams[i]? = some y ∧ y.flight = x.flight.drop 32 ∧
        ∃ l, y.here = x.here ++ l)) ∧
  (∀ (s : State) (cl cls : Nat) (v : Word), v = SMap.get 0 (s.cluster cl).tbk cls → (s.cluster cl).held = [] →
    ∃ t, exec (.tokenBucketRefill cl cls) s = .next t ∧
      SMap.get 0 (t.cluster cl).bucket cls = min (SMap.get 0 (s.cluster cl).bucket cls + wbits v 31 16) (wbits v 47 32) ∧
      (∀ k, k ≠ cls → SMap.get 0 (t.cluster cl).bucket k = SMap.get 0 (s.cluster cl).bucket k) ∧
      (wbits v 31 16 ≠ 0 → t.timed = s.timed ++ [(s.time + s.cyc (max 1 (wbits v 15 0)), .tokenBucketRefill cl cls)]) ∧
      (wbits v 31 16 = 0 → t.timed = s.timed)) ∧
  (∀ (s : State) (p : Pkt) (cl : Nat) (g : Cluster), p.port = some cl → g = s.cluster cl → p.injects cl = true →
    (g.held.any (·.cls == p.cls) || !g.bucketLets p.cls p.flits) = true →
      (s.sendPkt p).net = s.net ∧ ((s.sendPkt p).cluster cl).held = g.held ++ [p]) ∧
  (∀ (s : State) (p : Pkt) (cl : Nat) (g : Cluster), p.port = some cl → g = s.cluster cl → p.injects cl = true →
    (g.held.any (·.cls == p.cls) || !g.bucketLets p.cls p.flits) = false → (s.sendPkt p).net = s.net ++ [p] ∧
      (wbits (SMap.get 0 g.tbk p.cls) 31 16 ≠ 0 →
        SMap.get 0 ((s.sendPkt p).cluster cl).bucket p.cls = SMap.get 0 g.bucket p.cls - p.flits))

/-! Launches, faults, rounds, gangs. -/

/-- R327, R353: a launch or placement token that arrives is buffered with the record it names; one that its port cannot take is discarded and
counted. An input token is delivered to its running instance in sequence, or discarded and counted. That a record is read when its token
arrives, and a token whose record cannot be read is discarded, is the model's choice (log entry 66). -/
def Sys2Proof.Claims.TokensAtPorts : Prop :=
  (∀ (s t : State) (i : Instr) (p : Nat) (w : List Word), (i = .launchToken ∨ i = .placementToken) → s.Offers i (.token p w) t →
    (t.host.ready = false ∨ 63 < p ∨ 256 ≤ (t.port p).tokens.length ∨ tokenKind w ∉ [1, 2, 3] ∨
        tokenKind w = 2 ∧ (t.port p).open_ = false ∨ tokenKind w = 3 ∧ t.caps.testBit 4 = false →
      ∃ u, exec i s = .next u ∧ (u.port p).tokens = (t.port p).tokens ∧ (u.port p).discarded = (t.port p).discarded + 1) ∧
    (t.host.ready = true → p ≤ 63 → (t.port p).tokens.length < 256 →
      (tokenKind w = 1 ∨ tokenKind w = 3 ∧ t.caps.testBit 4 = true →
        ∀ r v, t.readRecord w (if tokenKind w = 1 then 16 else 8) = (r, v) → ∃ u, exec i s = .next u ∧
          (u.port p).tokens = (v.port p).tokens ++ [(w, r)] ∧ (u.port p).discarded = (v.port p).discarded) ∧
      (tokenKind w = 2 → (t.port p).open_ = true → ∃ u, exec i s = .next u ∧ (u.port p).tokens = (t.port p).tokens ++ [(w, [])]))) ∧
  (∀ (s : State) (p : Nat) (w r : List Word) (q : List (List Word × List Word)), (s.port p).tokens = (w, r) :: q → p ≤ 63 → tokenKind w = 2 →
    ((s.port p).stream = none → ∃ u, exec (.inputToken p) s = .next u ∧ (u.port p).tokens = q ∧
      (u.port p).discarded = (s.port p).discarded + 1) ∧
    (∀ g i, (s.port p).stream = some g → s.inst? g = some i → i.st = .running →
      (wbits (w.headD 0) 63 32 = i.nextSeq → i.nextSeq < i.ntok → i.iCore < 16 * (i.last + 1 - i.first) →
        ∃ u x, exec (.inputToken p) s = .next u ∧ (u.port p).tokens = q ∧ (u.port p).discarded = (s.port p).discarded ∧
          u.inst? g = some { i with nextSeq := i.nextSeq + 1 } ∧ u.net = s.net ++ [x] ∧ x.dst = 16 * i.first + i.iCore ∧ x.tag = 0 ∧
          x.gen = g ∧ x.body = .chan i.iCh (bytesOfWords ((w.drop 1).take (wbits (w.headD 0) 10 8)))) ∧
      (wbits (w.headD 0) 63 32 ≠ i.nextSeq ∨ i.ntok ≤ i.nextSeq ∨ 16 * (i.last + 1 - i.first) ≤ i.iCore → ∃ u, exec (.inputToken p) s = .next u ∧ (u.port p).tokens = q ∧
        (u.port p).discarded = (s.port p).discarded + 1 ∧ u.net = s.net)))

/-- R328–R332, R338: a launch whose record cannot be used ends with status 2, one without tokens with status 1; a launch that can be started
has its instance in the lowest free generation, running, and its port's stream current; what the words of a completion record hold. Every
launch whose record was read locks the key slots (R424). The model's choices: a token whose record could not be read is discarded (log entry
66), and a malformed record ends with status 2, reason 1 (log entry 67). -/
def Sys2Proof.Claims.LaunchesStart : Prop :=
  (∀ (s : State) (p : Nat) (w r : List Word) (q : List (List Word × List Word)), (s.port p).tokens = (w, r) :: q → tokenKind w = 1 →
    (r = [] → ∃ u, exec (.launchStart p) s = .next u ∧ (u.port p).tokens = q ∧ (u.port p).discarded = (s.port p).discarded + 1) ∧
    (∀ v, v = { s.popToken p with host := { s.host with fklock := true } } → r ≠ [] → recordBad r = true →
      exec (.launchStart p) s = .next ((v.modPort p fun k => { k with stream := none }).finish p
      (lrec r 5 63 0) { lid := lrec r 0 31 0, status := 2, detail := 1, tend := s.time })) ∧
    (∀ v, v = { s.popToken p with host := { s.host with fklock := true } } → r ≠ [] → recordBad r = false → s.depsDone p r = true →
      lrec r 3 31 0 = 0 → exec (.launchStart p) s = .next ((v.modPort p fun k => { k with stream := none }).finish p
        (lrec r 5 63 0) { lid := lrec r 0 31 0, status := 1, detail := 0, tend := s.time })) ∧
    (∀ x img g t u0 cls, r ≠ [] → recordBad r = false → s.depsDone p r = true → lrec r 3 31 0 ≠ 0 → s.ops = [] →
      s.clustersFree (lrec r 2 8 0) (lrec r 2 17 9) = true → (s.freeGens 1) = [g] →
      ∀ v, v = { s.popToken p with host := { s.host with fklock := true } } →
        (v.die (dieOf (lrec r 2 8 0))).stored (wbits (w.headD 0) 63 32) (wbits (w.headD 0) 31 16) false = some x → img = imageOf x.image →
        v.reject img false false (lrec r 2 8 0) (lrec r 2 17 9) p = 0 →
        cls = (List.range (lrec r 2 17 9 + 1 - lrec r 2 8 0)).map (lrec r 2 8 0 + ·) →
        (cls.foldl State.rebuild v).tryLoad img g (lrec r 2 8 0) cls = .ok t →
        t.loadHbm img (s.port p).proot (img.recs 0x0E) = some u0 → (∀ y ∈ u0.insts, y.gen ≠ g) →
        ∃ u i, exec (.launchStart p) s = .next u ∧ (u.port p).tokens = (u0.port p).tokens ∧ (u.port p).stream = some g ∧
          u.inst? g = some i ∧ (i.st = .running ∨ i.st = .draining) ∧ i.lid = lrec r 0 31 0 ∧ i.first = lrec r 2 8 0 ∧
          i.last = lrec r 2 17 9 ∧ i.nextSeq = 0 ∧ i.ntok = lrec r 3 31 0 ∧ i.tstart = s.time)) ∧
  (∀ c : CompRec, c.status < 256 → c.detail < 256 → c.gen < 4096 → c.lid < 2 ^ 32 →
    wbits (c.words.getD 0 0) 31 0 = c.lid ∧ wbits (c.words.getD 0 0) 43 32 = c.gen ∧ wbits (c.words.getD 1 0) 7 0 = c.status ∧
    wbits (c.words.getD 1 0) 15 8 = c.detail ∧ (c.words.getD 1 0).getLsbD 16 = c.rcl ∧ wbits (c.words.getD 2 0) 63 32 = c.merged % 2 ^ 32 ∧
    wbits (c.words.getD 2 0) 12 9 = c.core % 16 ∧ wbits (c.words.getD 2 0) 8 0 = c.core / 16 % 512 ∧
    wbits (c.words.getD 2 0) 27 13 = c.epc % 2 ^ 15 ∧ wbits (c.words.getD 3 0) 31 0 = c.canc % 2 ^ 32 ∧
    wbits (c.words.getD 3 0) 63 32 = c.cancd % 2 ^ 32 ∧ (c.words.getD 4 0).toNat = c.drop % 2 ^ 64 ∧
    wbits (c.words.getD 5 0) 31 0 = c.undel % 2 ^ 32 ∧ wbits (c.words.getD 5 0) 63 32 = c.firstu % 2 ^ 32 ∧
    (c.words.getD 6 0).toNat = c.tstart % 2 ^ 64 ∧ (c.words.getD 7 0).toNat = c.tend % 2 ^ 64)

/-- R334, R335, R337, R339: a quiescent draining instance is unloaded, its cores and clusters emptied; its generation is probed every 10 µs
and free once nothing of it is left; a frozen instance that is reclaimed loses what has not started, and again until nothing is left. Its
record counts the tokens that were not delivered (R436; the model's reading, log entry 68). The repeated pass every 64 core cycles is the
model's choice (log entry 61). -/
def Sys2Proof.Claims.InstancesEnd : Prop :=
  (∀ (s : State) (g : Nat) (i : Inst), s.inst? g = some i → i.st = .draining → i.port = none → s.quiet i = true →
    ∃ u, exec (.instanceUnload g) s = .next u ∧ u.inst? g = some { i with st := .unloaded } ∧
      u.timed = s.timed ++ [(s.time + 10000, .generationProbe g)] ∧
      ∀ cl, i.first ≤ cl → cl ≤ i.last → (u.cluster cl).loaded = false ∧ (u.cluster cl).spad = (s.cluster cl).spad ∧
        (u.cluster cl).win = [] ∧ (u.cluster cl).readers = [] ∧ ∀ c, c / 16 = cl → (u.core c).ftab = [] ∧ (u.core c).plates = [] ∧
          (u.core c).tasks = [] ∧ (u.core c).fsram = (s.core c).fsram) ∧
  (∀ (s : State) (g : Nat) (i : Inst), s.inst? g = some i → i.st = .unloaded →
    (s.genCount g = 0 → ∃ u, exec (.generationProbe g) s = .next u ∧ u = { s with insts := u.insts } ∧ u.inst? g = none ∧
      ∀ h, h ≠ g → u.inst? h = s.inst? h) ∧
    (s.genCount g ≠ 0 → exec (.generationProbe g) s = .next (s.after 10000 (.generationProbe g)))) ∧
  (∀ (i : Inst) (tend : Nat), (i.record tend).status = (if i.st = .frozen then 3 else 0) ∧ (i.record tend).lid = i.lid ∧
    (i.record tend).gen = i.gen ∧ (i.record tend).rcl = i.rcl ∧ (i.record tend).tstart = i.tstart ∧ (i.record tend).tend = tend ∧
    (i.st = .frozen → (i.record tend).undel = i.ntok - i.nextSeq ∧ (i.nextSeq < i.ntok → (i.record tend).firstu = i.nextSeq) ∧
      ∀ r, i.firstFault = some r → (i.record tend).detail = r.cause ∧ (i.record tend).epc = r.epc ∧ (i.record tend).core = r.core)) ∧
  (∀ (s : State) (g : Nat) (i : Inst) (cl h : Nat), s.inst? g = some i → i.st = .frozen → i.first ≤ cl → cl ≤ i.last →
    (∃ t, (h, t) ∈ (s.cluster cl).harts) → (∀ t, (h, t) ∈ (s.cluster cl).harts → t.cmd ≠ none) → (∀ d, (s.die d).rlog = []) →
    ∃ u, exec (.reclaim g) s = .next u ∧ (s.time + s.cyc 64, .reclaim g) ∈ u.timed ∧ (∃ j, u.inst? g = some j ∧ j.rcl = true) ∧
      (∀ p ∈ u.net, p.gen ≠ g) ∧ ∀ c, i.first ≤ c / 16 → c / 16 ≤ i.last → (u.core c).ready = [] ∧ (u.core c).portQ = [] ∧
        (u.core c).inputQ = [] ∧ (u.core c).lane = [] ∧ (u.cluster (c / 16)).stopped = true ∧
        ∀ x, x < 4 → ((u.core c).ctx x).phase ≠ .running)

/-- R353–R355: a placement that its record does not allow ends with status 2; every expert with work gets a cluster, and no other one does;
one that can be carried out loads its regions and writes its table. The model's choices: a malformed record's status (log entry 67), and an
expert instance has no record of its own (log entry 70). -/
def Sys2Proof.Claims.PlacementsAreCarriedOut : Prop :=
  (∀ (s : State) (p : Nat) (k : Port) (w r : List Word) (q : List (List Word × List Word)), s.ports = [(p, k)] → k.tokens = (w, r) :: q →
    tokenKind w = 3 →
    (r = [] → ∃ u, exec .placement s = .next u ∧ (u.port p).tokens = q ∧ (u.port p).discarded = k.discarded + 1) ∧
    (r ≠ [] → placementBad r = true → exec .placement s = .next ((s.fresh.popToken p).finish p (prec r 4 63 0)
      { lid := prec r 5 31 0, status := 2, detail := 1, tend := s.time })) ∧
    (∀ ne first bs s1 img s2 ns rs t, r ≠ [] → s.placementReady p = true → placementBad r = false → ne = prec r 0 6 0 → first = prec r 0 15 7 →
      (s.fresh.popToken p).physRead (prec r 1 63 0) (4 * ne) = some (bs, s1) →
      s1.partialForme (dieOf first) (prec r 2 31 0) (prec r 2 47 32) first p = .ok (img, s2) →
      quotas (prec r 0 24 16 + 1 - first) ((List.range ne).map fun e => numAt bs (4 * e) 4) = some ns →
      rs = List.zip (regionsFrom first 0 ns) (s1.freeGens (regionsFrom first 0 ns).length) → rs.length = (regionsFrom first 0 ns).length →
      s2.loadRegions img (s2.port p).proot (prec r 5 31 0) rs = .ok t →
      ∃ u, u = t.physWrite (prec r 3 63 0) (bytesOfWords ((List.range ne).map (tableEntry rs))) ∧
        exec .placement s = .next (u.finish p (prec r 4 63 0) { lid := prec r 5 31 0, status := 0, detail := 0, tend := u.time }))) ∧
  (∀ (c : Nat) (hs : List Nat), (quotas c hs = none ↔ c < (hs.filter (0 < ·)).length) ∧
    ∀ ns, quotas c hs = some ns → ns.length = hs.length ∧ ∀ e, e < hs.length → (hs.getD e 0 = 0 → ns.getD e 0 = 0) ∧
      (0 < hs.getD e 0 → 1 + (c - (hs.filter (0 < ·)).length) * hs.getD e 0 / hs.sum ≤ ns.getD e 0 ∧
        ns.getD e 0 ≤ 2 + (c - (hs.filter (0 < ·)).length) * hs.getD e 0 / hs.sum))

/-- R336, R337, R349, R394–R396: a record freezes its instance at the first fault and is held for 64 core cycles at a site, where records of one
tag merge; it climbs to the root, and 4,096 core cycles after the first one the error token is issued. A record of an instance that is
gone is dropped and counted; a guard touch that is due raises cause 0x0B, at the cluster whose scratchpad it names (the model's choice, log
entry 73). -/
def Sys2Proof.Claims.FaultRecordsClimb : Prop :=
  (∀ (s : State) (cl : Nat) (r : FaultRec), s.inst? r.gen = none → exec (.faultRecordArrival cl r) s =
    .next (s.setCluster cl { s.cluster cl with gdrop := (s.cluster cl).gdrop + 1 })) ∧
  (∀ (s : State) (cl : Nat) (r : FaultRec) (i : Inst), s.inst? r.gen = some i → i.first ≤ cl → cl ≤ i.last →
    (i.st = .running ∨ i.st = .draining → (∀ c, ∀ t ∈ (s.core c).timers, t.gen ≠ r.gen) → (∀ d, ∀ w ∈ (s.die d).rlog, w.pkt.gen ≠ r.gen) →
      ∃ u j, exec (.faultRecordArrival cl r) s = .next u ∧ u.inst? r.gen = some j ∧ j.st = .frozen ∧
        (s.time + 10000000, .reclaim r.gen) ∈ u.timed) ∧
    (i.st = .frozen → (s.cluster cl).site = [] → exec (.faultRecordArrival cl r) s = .next ((s.after (s.cyc 64) (.siteRecordForward cl)).setCluster cl
      { s.cluster cl with site := [{ r := r, due := s.time + s.cyc 64 }] })) ∧
    (∀ h, i.st = .frozen → (s.cluster cl).site = [h] → h.r.gen = r.gen → h.r.tag = r.tag → exec (.faultRecordArrival cl r) s = .next (s.setCluster cl
      { s.cluster cl with site := [{ h with r := i.merge h.r r }] }))) ∧
  (∀ (i : Inst) (a b : FaultRec), (i.merge a b).merged = a.merged + b.merged + 1 ∧
    ((i.before a.node b.node = true → { i.merge a b with merged := 0 } = { a with merged := 0 }) ∧
      (i.before a.node b.node = false → i.before b.node a.node = true → { i.merge a b with merged := 0 } = { b with merged := 0 }) ∧
      (i.before a.node b.node = false → i.before b.node a.node = false → a.time < b.time →
        { i.merge a b with merged := 0 } = { a with merged := 0 }))) ∧
  (∀ (s : State) (cl : Nat) (h : HeldRec) (i : Inst), (s.cluster cl).site = [h] → h.due ≤ s.time → s.inst? h.r.gen = some i →
    (∀ q, i.parent cl = some q → exec (.siteRecordForward cl) s =
      .next ((s.setCluster cl { s.cluster cl with site := [] }).sendPkt { h.r.pkt q with src := siteSrc cl })) ∧
    (i.parent cl = none → i.tokenSent = false → i.firstFault = none → ∃ u, exec (.siteRecordForward cl) s = .next u ∧
      (u.cluster cl).site = [] ∧ u.inst? h.r.gen = some { i with firstFault := some h.r } ∧
      u.timed = s.timed ++ [(s.time + s.cyc 4096, .errorTokenIssue h.r.gen)])) ∧
  (∀ (s : State) (cl : Nat) (t : GuardTouch), (s.cluster cl).glog = [t] → t.due ≤ s.time → ∃ (u : State) (r : FaultRec), exec (.guardLogRaise cl) s = .next u ∧
    (u.cluster cl).glog = [] ∧ u.net = s.net ++ [r.pkt cl] ∧ r.cause = 0x0B ∧ r.imprecise = true ∧
    r.gen = t.gen ∧ r.node = t.org.node ∧ r.tval = t.tval)

/-- R349–R351: the error token starts at the first fault's node, or at every core of an instance without edges; it passes every edge once; a
slot word that it reaches is cancelled, and queues a cancelled activation when its bit 43 says so. The token to every core without edges is
the model's reading (log entry 72). -/
def Sys2Proof.Claims.ErrorTokenSpreads : Prop :=
  (∀ (s : State) (g : Nat) (i : Inst) (r : FaultRec), s.inst? g = some i → i.firstFault = some r → i.st = .frozen → i.tokenSent = false →
    (s.cluster i.first).held = [] → wbits (SMap.get 0 (s.cluster i.first).tbk 0) 31 16 = 0 →
    ∃ u, exec (.errorTokenIssue g) s = .next u ∧ u.inst? g = some { i with tokenSent := true } ∧
      (i.edges ≠ none → ∃ p, u.net = s.net ++ [p] ∧ p.dst = r.node.core ∧ p.gen = g ∧ p.body = .errTok (some r.node)) ∧
      (i.edges = none → (u.net.drop s.net.length).map (fun p => (p.dst, p.gen, p.body)) = i.cores.map fun c => (c, g, .errTok none))) ∧
  (∀ (s : State) (p : Pkt) (i : Inst) (n : Node), p.body = .errTok (some n) → s.inst? p.gen = some i → s.stale p = false →
    (n ∈ i.reached → exec (.errorToken p) s = .next s) ∧
    (n ∉ i.reached → (s.cluster (clOf p.dst)).held = [] → wbits (SMap.get 0 (s.cluster (clOf p.dst)).tbk 0) 31 16 = 0 →
      (∀ c f k, n = .slot c f k → s.homeOk c f = true ∧ ∀ org, (s.frameErr c f org [k]).1 = 0) →
      ∃ u j, exec (.errorToken p) s = .next u ∧ u.inst? p.gen = some j ∧ j.reached = i.reached ++ [n] ∧
      (u.net.drop s.net.length).map (fun p => (p.dst, p.gen, p.body)) =
        ((i.edges.getD []).filter (·.1 == n)).map (fun e => (e.2.core, p.gen, .errTok (some e.2))) ∧
      ∀ c f k w, n = .slot c f k → ((s.core c).fent f).v = true → ((s.core c).fent f).res = true → k < ((s.core c).fent f).words →
        w = s.slotWord c f k → cnt w ≠ 0 → u.slotWord c f k = cancelWord w ∧
          (w.getLsbD 43 = false → j.cancd = i.cancd + 1 ∧ (u.core c).ready = (s.core c).ready) ∧
          (w.getLsbD 43 = true → (s.core c).room = true → (s.core c).portQ = [] → j.canc = i.canc ∧
            ∃ a, (u.core c).ready = (s.core c).ready ++ [a] ∧ a.cancel = true ∧ a.counted = false ∧ a.fid = some f ∧ a.ix = k ∧ a.tag = 0 ∧
              a.plate = wbits w 27 26 ∧ a.off8 = wbits w 25 16 ∧ a.level = wbits w 35 28))) ∧
  (∀ w : Word, cnt (cancelWord w) = 0 ∧ (cancelWord w).getLsbD 42 = true ∧ (w.getLsbD 43 = true → (cancelWord w).getLsbD 45 = true ∧
    (cancelWord w).getLsbD 46 = false ∧ wbits (cancelWord w) 41 39 = 0) ∧ wbits (cancelWord w) 63 47 = wbits w 63 47 ∧
    wbits (cancelWord w) 38 16 = wbits w 38 16)

/-- R277, R342–R345: a core counts every ROUND token that passes; at the round of a plate that is prefetched the plate becomes active and the one it
retires drains; a token of another plate is a fault; the ROUND completes when its token has passed every core. An invalid plate that is next
in the schedule is filled. -/
def Sys2Proof.Claims.RoundsSwapPlates : Prop :=
  (∀ (s : State) (p : Pkt) (plate c : Nat), p.body = .round plate → s.stale p = false → c = (s.core p.dst).rounds + 1 → s.rounds = [] →
    (∀ e, (s.core p.dst).sched.find? (·.round == c) = some e → e.plate = plate → ∃ u, exec (.roundToken p) s = .next u ∧ u.net = s.net ∧ u.timed = s.timed ∧
      u.core p.dst = { s.core p.dst with rounds := c, sched := (s.core p.dst).sched.map fun e => if e.round = c then { e with passed := true } else e }) ∧
    (∀ e, (s.core p.dst).sched.find? (·.round == c) = some e → e.plate ≠ plate → ∃ u f, exec (.roundToken p) s = .next u ∧
      (u.core p.dst).rounds = c ∧ (u.core p.dst).plates = (s.core p.dst).plates ∧ (∀ x ∈ (u.core p.dst).sched, x.round ≠ c) ∧
      u.net = s.net ++ [FaultRec.pkt f (p.org.core / 16)] ∧ f.cause = 0x01 ∧ f.tval = plate ∧ f.imprecise = true ∧ f.gen = p.gen ∧ f.tag = p.tag) ∧
    ((s.core p.dst).sched.find? (·.round == c) = none → (s.core p.dst).plateOf c = some plate →
      ((s.core p.dst).plate plate).st = .prefetched → ∃ u, exec (.roundToken p) s = .next u ∧ (u.core p.dst).rounds = c ∧
        ((u.core p.dst).plate plate).st = .active ∧ ((u.core p.dst).plate plate).bytes = ((s.core p.dst).plate plate).bytes ∧
        ∀ q, q < 4 → ((s.core p.dst).plate plate).retires = some q → q ≠ plate → ((s.core p.dst).plate q).st = .active →
          ((u.core p.dst).plate q).st = .draining ∨ ((u.core p.dst).plate q) = {})) ∧
  (∀ (s : State) (p : Pkt) (plate : Nat) (r : RoundOp) (k : Cmpl), p.body = .round plate → s.stale p = false → s.rounds = [r] → r.gen = p.gen →
    r.plate = plate → r.org = p.org → r.left = [p.dst] → r.cmpl = some k → (s.core p.dst).sched = [] →
    (∀ q, q < 4 → ((s.core p.dst).plate q).st = .active) → ∃ u, exec (.roundToken p) s = .next u ∧ u.rounds = [] ∧
      u.net = s.net ++ [p.org.resp k.core k.tag (.sig k.fid k.k 0 none true)]) ∧
  (∀ (s : State) (core q : Nat),
    (((s.core core).plate q).st = .prefetching → ((s.core core).plate q).swap = false → ∃ u, exec (.platePrefetch core q) s = .next u ∧
      (u.core core).plate q = { (s.core core).plate q with st := .prefetched }) ∧
    (∀ e t, ((s.core core).plate q).st = .invalid → (∀ x, x < 4 → ((s.core core).plate x).st ≠ .prefetching) → (s.core core).sched = e :: t →
      e.plate = q → ∃ u, exec (.platePrefetch core q) s = .next u ∧ (u.core core).sched = t ∧ ((u.core core).plate q).st = .prefetching ∧
        ((u.core core).plate q).round = e.round ∧ ((u.core core).plate q).retires = e.retire ∧
        ∀ i b, e.image[i]? = some b → SMap.get 0 ((u.core core).plate q).bytes i = b))

/-- R275, R276, R280, R403–R407, R413: a gang stop of whole instances stops its clusters at its stamp and completes when they are at rest; a
resume runs them again; FLUSH and TLBINV complete when their range or their translations are done; the state window of a stopped cluster
reads and writes its state; another fails, and so does an access of poisoned words (R402). A TLBINV starts the walks that have begun again,
and waits for them. The model's choices: a resume waits while a thermal stop is in force (its reading of R429, log entry 76), and a TLBINV
waits for the accesses that stand at its start (log entry 77). -/
def Sys2Proof.Claims.GangsAndWindows : Prop :=
  (∀ (s : State) (ix : Nat) (o : Stop) (k : Cmpl), s.stops[ix]? = some o → o.cmpl = some k → o.at_ ≤ s.time →
    (o.go = false → o.begun = false →
      (s.wholeSet o.first o.last = false → exec (.gangStop ix) s = .next ({ s with stops := s.stops.eraseIdx ix }.signal o.org k 0x09 true)) ∧
      (s.wholeSet o.first o.last = true → ∃ u, exec (.gangStop ix) s = .next u ∧ u.stops = s.stops.set ix { o with begun := true } ∧
        (∀ cl, o.first ≤ cl → cl ≤ o.last → (u.cluster cl).stopped = true) ∧
        ∀ c x, o.first ≤ c / 16 → c / 16 ≤ o.last → x < 4 → (s.cluster (c / 16)).stopped = false → ((u.core c).ctx x).phase ≠ .running)) ∧
    (o.go = false → o.begun = true → (∀ cl, o.first ≤ cl → cl ≤ o.last → s.atRest cl = true) →
      exec (.stopComplete ix) s = .next ({ s with stops := s.stops.eraseIdx ix }.signal o.org k 0 true)) ∧
    (o.go = true → s.host.tstop = true → exec (.gangResume ix) s = .next s) ∧
    (o.go = true → s.host.tstop = false → ∃ u, exec (.gangResume ix) s = .next u ∧ u.stops = s.stops.eraseIdx ix ∧
      (∀ cl, o.first ≤ cl → cl ≤ o.last → (u.cluster cl).stopped = false) ∧
      u.net = s.net ++ [o.org.resp k.core k.tag (.sig k.fid k.k 0 none true)])) ∧
  (∀ (s : State) (ix : Nat) (o : FlushOp) (k : Cmpl), s.flushes[ix]? = some o → o.cmpl = some k →
    ∀ acc, acc = Accessor.mk o.cl o.gen o.priv o.org →
    (o.len = 0 → exec (.flushCompletion ix) s = .next ({ s with flushes := s.flushes.eraseIdx ix }.signal o.org k 0 true)) ∧
    (∀ c, o.len ≠ 0 → s.placeNow acc .read o.va = .error c →
      exec (.flushCompletion ix) s = .next ({ s with flushes := s.flushes.eraseIdx ix }.signal o.org k c true)) ∧
    (∀ pa t l, o.len ≠ 0 → o.len ≤ o.now → o.inv = false → s.placeNow acc .read o.va = .ok (.mem pa, t) → t.flushes = s.flushes →
      t.cachedLines (pa / 64) ((pa + o.now) / 64) = [pa / 64] → SMap.get none t.llc (pa / 64) = some l → l.dirty = true → l.alias_ = none →
      ∃ u, exec (.flushCompletion ix) s = .next u ∧ u.flushes = s.flushes.eraseIdx ix ∧
        u.net = t.net ++ [o.org.resp k.core k.tag (.sig k.fid k.k 0 none true)] ∧
        SMap.get none u.llc (pa / 64) = some { l with dirty := false } ∧
        ∀ i b, l.data[i]? = some b → SMap.get 0 u.hbm (64 * (pa / 64) + i) = b)) ∧
  (∀ (s : State) (ix : Nat) (o : TlbinvOp) (k : Cmpl), s.tlbinvs[ix]? = some o → o.cmpl = some k →
    (o.begun = false → ∃ u, exec (.tlbinvCompletion ix) s = .next u ∧
      u.tlbinvs[ix]? = some { o with begun := true, waits := s.accesses.eraseDups, walks := s.walking } ∧
      (SMap.wf {} s.dies = true → ∀ d, ∀ w ∈ (u.die d).walks, w.base = none ∧ w.left = 4) ∧
      ∀ cl, ∀ x ∈ (u.cluster cl).tlb, x ∈ (s.cluster cl).tlb ∧ o.va ≠ none ∧ ∀ a, o.va = some a → ¬(x.va ≤ a ∧ a < x.va + x.size)) ∧
    (o.begun = true → o.walks = [] → s.midAccess = false → (∀ a ∈ s.accesses, a ∉ o.waits) →
      exec (.tlbinvCompletion ix) s = .next ({ s with tlbinvs := s.tlbinvs.eraseIdx ix }.signal o.org k 0 true))) ∧
  (∀ (s t : State) (wr : Bool) (cl off : Nat) (bs : List Byte), s.Offers .stateWindowAccess (.window wr cl off bs) t →
    ((t.cluster cl).stopped = false → wr = true → exec .stateWindowAccess s = .next t) ∧
    ((t.cluster cl).stopped = false → wr = false → exec .stateWindowAccess s = .next (t.answerHost 0 [])) ∧
    ((t.cluster cl).stopped = true → wr = false → (∀ i, i < bs.length → t.winPoison cl (off + i) = false) → exec .stateWindowAccess s =
      .next (t.answerHost 0 ((List.range bs.length).map fun i => t.winByte cl (off + i)))) ∧
    ((t.cluster cl).stopped = true → wr = false → (∃ i, i < bs.length ∧ t.winPoison cl (off + i) = true) →
      exec .stateWindowAccess s = .next (t.answerHost 0 [])) ∧
    ((t.cluster cl).stopped = true → wr = true → (∃ w, off < 8 * w + 8 ∧ 8 * w < off + bs.length ∧ t.winPoison cl (8 * w) = true ∧
      (8 * w < off ∨ off + bs.length < 8 * w + 8)) → exec .stateWindowAccess s = .next t) ∧
    ((t.cluster cl).stopped = true → wr = true → off + bs.length ≤ 2048 * (t.cluster cl).ug → off + bs.length ≤ 2 ^ 22 →
      (∀ w, t.winPoison cl (8 * w) = true → 8 * w < off + bs.length → off < 8 * w + 8 → off ≤ 8 * w ∧ 8 * w + 8 ≤ off + bs.length) →
      ∃ u, exec .stateWindowAccess s = .next u ∧ (∀ i b, bs[i]? = some b → SMap.get 0 (u.cluster cl).spad (off + i) = b) ∧
        (∀ a, a < off ∨ off + bs.length ≤ a → SMap.get 0 (u.cluster cl).spad a = SMap.get 0 (t.cluster cl).spad a) ∧ u.cores = t.cores))

/-! Packages and their views. -/

/-- R340, R380, R388, R389: a packet at a station waits behind others, and while it is newer than the view; a UALink reply goes to the oldest request
of its station, and a failed peer fails all of them; a beat whose CRC fails changes nothing, since it is sent again. -/
def Sys2Proof.Claims.StationsDeliver : Prop :=
  (∀ (s t : State) (st : Nat) (p : Pkt), s.Offers .stationPacketArrival (.pkt st p) t → (t.station st).ualink = false → (t.station st).up = true →
    p.dpkg = some ownPkg →
    ((t.station st).rx ≠ [] ∨ t.newer p = true → ∃ u, exec .stationPacketArrival s = .next u ∧ (u.station st).rx = (t.station st).rx ++ [p] ∧
      u.net = t.net) ∧
    ((t.station st).rx = [] → t.newer p = false → t.views.members.contains p.spkg = false ∨ t.oldView p = true →
      ∃ u, exec .stationPacketArrival s = .next u ∧ u.net = t.net ∧ (u.cluster (16 * st + 7)).vdrop = (t.cluster (16 * st + 7)).vdrop + 1) ∧
    (∀ i, (t.station st).rx = [] → t.newer p = false → t.views.members.contains p.spkg = true → t.oldView p = false → p.body.isGroup = false →
      t.insts.find? (fun i => i.fid == p.xfid && i.ver == p.xver && i.st != .unloaded &&
        (p.body.isGroup || (decide (i.first ≤ clOf p.dst) && decide (clOf p.dst ≤ i.last)))) = some i →
      ∃ u q, exec .stationPacketArrival s = .next u ∧ u.net = t.net ++ [q] ∧ q.body = p.body ∧ q.dst = p.dst ∧ q.gen = i.gen)) ∧
  (∀ (s t : State) (st : Nat) (bs : List Byte) (p : Pkt) (q : List Pkt) (r : AtReq) (w : Nat) (k : Cmpl),
    s.Offers .stationPacketArrival (.bytes st bs) t → (t.station st).ualink = true → (t.station st).pend = p :: q → p.body = .atomic r →
    (∃ a, r.loc = .peer st a) → r.res = some (w, k) → (t.core p.src).ni = [] → ∃ u, exec .stationPacketArrival s = .next u ∧ (u.station st).pend = q ∧
      u.net = t.net ++ [p.org.answer (some r.loc) k.core 0 4 (.atomicResp (wordsFrom w (atomicWords r (natOfBytes (bs.take r.n)))) 0 k)]) ∧
  (∀ (s t : State) (st : Nat) (p : Pkt) (r : AtReq) (w : Nat) (k : Cmpl), s.Offers .ualinkPeerFailure (.num st) t →
    (t.station st).ualink = true → (t.station st).pend = [p] → p.body = .atomic r → (∃ a, r.loc = .peer st a) → r.res = some (w, k) → (t.core p.src).ni = [] →
    ∃ u, exec .ualinkPeerFailure s = .next u ∧ (u.station st).pend = [] ∧
      u.net = t.net ++ [p.org.answer (some r.loc) k.core 0 4 (.atomicResp [(w, errorWord 0x10)] 0x10 k)]) ∧
  (∀ (s t : State) (x : Input), s.Offers .beatCrcFailure x t → exec .beatCrcFailure s = .next t)

/-- R377: a heartbeat goes to both neighbours of the ring every 100 µs, and TIME from the package of rank 0 to every other; a TIME that is more
than 1 µs off, behind or ahead, is set to it (the model's choice, log entry 49); a neighbour that is silent for 800 µs, or whose every link is lost, is
suspected, and the lowest member that is not is told. -/
def Sys2Proof.Claims.MembersWatchEachOther : Prop :=
  (∀ s : State, ownPkg ∉ s.views.neighbours → (∀ d ∈ s.views.neighbours, s.views.lastBeat.any (·.1 == d) = true) →
    ∃ u, exec .heartbeat s = .next u ∧ u.timed = s.timed ++ [(s.time + 100000, .heartbeat)] ∧
      u.views.tx = s.views.tx ++ s.views.neighbours.map (fun d => (d, .heartbeat ownPkg)) ++
        (if s.views.rank ownPkg = 0 then (s.views.members.filter (· != ownPkg)).map fun d => (d, .time s.time) else [])) ∧
  (∀ (s t : State) (x : Nat), s.Offers .stationPacketArrival (.view (.time x)) t →
    exec .stationPacketArrival s = .next (if t.time + 1000 < x ∨ x + 1000 < t.time then { t with time := x } else t)) ∧
  (∀ (s : State) (pkg : Nat), pkg ∈ s.views.neighbours → SMap.get 0 s.views.lastBeat pkg + 800000 ≤ s.time → pkg ∉ s.views.suspects →
    pkg ≠ ownPkg → pkg ∈ s.views.members → ownPkg ∈ s.views.members →
    ∃ u, exec (.heartbeatTimeout pkg) s = .next u ∧ pkg ∈ u.views.suspects ∧ (∀ q ∈ s.views.suspects, q ∈ u.views.suspects) ∧
      ∀ m, u.views.lowest = some m → m ≠ ownPkg → u.views.tx = s.views.tx ++ [(m, .suspect ownPkg s.views.view u.views.suspects)]) ∧
  (∀ (s : State) (pkg : Nat), pkg ∉ s.views.neighbours ∨ s.time < SMap.get 0 s.views.lastBeat pkg + 800000 →
    exec (.heartbeatTimeout pkg) s = .next s) ∧
  (∀ (s t : State) (pkg : Nat), s.Offers .lossOfSignal (.num pkg) t → ∃ u, exec .lossOfSignal s = .next u ∧
    (∀ i, i < 32 → (t.station i).peer = some pkg → (u.station i).up = false) ∧
    (∀ i, (t.station i).peer ≠ some pkg → u.station i = t.station i) ∧
    (pkg ∈ t.views.neighbours → pkg ≠ ownPkg → pkg ∈ t.views.members → ownPkg ∈ t.views.members → pkg ∈ u.views.suspects))

/-- R378, R384: a SUSPECT of the present view starts the proposer's collection of 2 ms, at whose end PROPOSE goes to the root of the rank tree of
those that stay and join, or, without a majority, the runtime is told; a joiner is collected like a suspect, or refused. That the root of
the new set receives the PROPOSE and that the majority counts those that stay are the model's reading (log entry 93); that the part may
refuse grafts is its choice (log entry 17). -/
def Sys2Proof.Claims.ProposersCollect : Prop :=
  (∀ (s t : State) (src v : Nat) (pkgs : List Nat), s.Offers .suspect (.view (.suspect src v pkgs)) t →
    (v ≠ t.views.view → exec .suspect s = .next t) ∧
    (v = t.views.view → ownPkg ∈ t.views.members → t.views.collecting = false → t.views.proposal = none →
      ∃ u, exec .suspect s = .next u ∧ u.views.collecting = true ∧ u.timed = t.timed ++ [(t.time + 2000000, .proposerCollectionEnd)] ∧
        ∀ p, p ∈ u.views.suspects ↔ p ∈ t.views.suspects ∨ p ∈ pkgs ∧ p ≠ ownPkg ∧ p ∈ t.views.members)) ∧
  (∀ (s : State) (stay b : List Nat), s.views.collecting = true → stay = s.views.members.filter (fun m => !s.views.suspects.contains m) →
    b = ascending (stay ++ s.views.joins) →
    (2 * stay.length ≤ s.views.members.length → s.views.joins = [] → (s.host.evhead + 1) % 2 ^ s.host.evlsz ≠ s.host.evtail % 2 ^ s.host.evlsz →
      ∃ u, exec .proposerCollectionEnd s = .next u ∧ u.views.view = s.views.view ∧ u.views.members = s.views.members ∧
        u.views.collecting = false ∧ u.views.proposal = none ∧ u.host.msix = s.host.msix ++ [0]) ∧
    (∀ r l, s.views.members.length < 2 * stay.length → b = r :: l → r ≠ ownPkg → ∃ u, exec .proposerCollectionEnd s = .next u ∧
      u.views.proposal = some b ∧ u.views.tx = s.views.tx ++ [(r, .propose ownPkg s.views.view b)] ∧
      u.timed = s.timed ++ [(s.time + 10000000, .childReplyTimeout r)])) ∧
  (∀ (s t : State) (pkg : Nat) (via : Option Nat), s.Offers .graftRequest (.view (.graft pkg via)) t →
    (ownPkg ∉ t.views.members → pkg ≠ ownPkg → ∃ u, exec .graftRequest s = .next u ∧ u.views.tx = t.views.tx ++ [(pkg, .graftRefused pkg via)]) ∧
    (∀ m, ownPkg ∈ t.views.members → t.views.lowest = some m → m ≠ ownPkg → ∃ u, exec .graftRequest s = .next u ∧
      u.views.tx = t.views.tx ++ [(m, .graft pkg via)]) ∧
    (ownPkg ∈ t.views.members → t.views.lowest = some ownPkg → pkg ∈ t.views.members → pkg ≠ ownPkg → ∃ u, exec .graftRequest s = .next u ∧
      u.views.tx = t.views.tx ++ [(pkg, .graftRefused pkg via)]) ∧
    (ownPkg ∈ t.views.members → t.views.lowest = some ownPkg → pkg ∉ t.views.members → pkg ≠ ownPkg → ∃ u, exec .graftRequest s = .next u ∧
      (u.views.tx = t.views.tx ++ [(pkg, .graftRefused pkg via)] ∨ pkg ∈ u.views.joins)))

/-- R378, R381: a PROPOSE passes down the rank tree, and is answered once the children have: ACCEPT with the group reports, or REJECT when a
proposed package is suspected; a silent child is reported; with ACCEPT from all, the proposer sends COMMIT, and the members install the view
at its TIME. -/
def Sys2Proof.Claims.ProposalsAreAnswered : Prop :=
  (∀ (s t : State) (q v : Nat) (ms : List Nat), s.Offers .propose (.view (.propose q v ms)) t → v = t.views.view → ownPkg ∈ ms →
    t.views.outside v = false → t.views.round = none → q ≠ ownPkg → parentIn ms ≠ some ownPkg →
    (childrenIn ms = [] → (∀ m ∈ ms, m ∉ t.views.suspects) → ∃ u, exec .propose s = .next u ∧
      u.views.tx = t.views.tx ++ [((parentIn ms).getD q, .accept ownPkg v t.reports [])] ∧
      (t.time + 20000000, .commitWaitTimeout) ∈ u.timed) ∧
    (childrenIn ms = [] → (∃ m ∈ ms, m ∈ t.views.suspects) → ∃ u, exec .propose s = .next u ∧
      u.views.tx = t.views.tx ++ [((parentIn ms).getD q, .reject ownPkg v (ascending (t.views.suspects.filter ms.contains)) q)]) ∧
    (childrenIn ms ≠ [] → ownPkg ∉ childrenIn ms → ∃ u, exec .propose s = .next u ∧
      u.views.tx = t.views.tx ++ (childrenIn ms).map fun c => (c, .propose q v ms))) ∧
  (∀ (s t : State) (src v : Nat) (rs : List GroupReport) (silent : List Nat) (r : Round), s.Offers .accept (.view (.accept src v rs silent)) t →
    t.views.proposal = none → t.views.round = some r → r.v = v → r.answered = false → src ∉ r.heard → childrenIn r.members = [src] →
    r.unanswered = [] → r.reject = false → parentIn r.members ≠ some ownPkg → (parentIn r.members = none → r.proposer ≠ ownPkg) →
    ∃ u, exec .accept s = .next u ∧
      u.views.tx = t.views.tx ++ [((parentIn r.members).getD r.proposer, .accept ownPkg v (r.reports ++ rs) silent)]) ∧
  (∀ (s t : State) (src v : Nat) (rs : List GroupReport) (b : List Nat), s.Offers .accept (.view (.accept src v rs [])) t →
    t.views.proposal = some (src :: b) → v = t.views.view → t.views.joins = [] → src ≠ ownPkg → ∃ u, exec .accept s = .next u ∧
      u.views.proposal = none ∧ u.views.tx = t.views.tx ++ [(src, .commit (v + 1) (src :: b) (t.time + 2000000)
        ((rs.filter fun r => t.views.members.contains r.holder).foldl addReport []))]) ∧
  (∀ (s : State) (pkg : Nat) (r : Round), s.views.proposal = none → s.views.round = some r → s.time < r.since + 5000000 →
    exec (.childReplyTimeout pkg) s = .next s) ∧
  (∀ (s : State) (pkg : Nat) (r : Round), s.views.proposal = none → s.views.round = some r → r.since + 5000000 ≤ s.time → r.answered = false →
    r.heard = [] → r.unanswered = [] → r.reject = false → childrenIn r.members = [pkg] → parentIn r.members ≠ some ownPkg →
    (parentIn r.members = none → r.proposer ≠ ownPkg) → ∃ u, exec (.childReplyTimeout pkg) s = .next u ∧
      u.views.tx = s.views.tx ++ [((parentIn r.members).getD r.proposer, .accept ownPkg r.v r.reports [pkg])]) ∧
  (∀ (s t : State) (v at_ : Nat) (ms : List Nat) (tb : List GroupReport), s.Offers .commitView (.view (.commit v ms at_ tb)) t →
    (v ≤ t.views.view ∨ ownPkg ∉ ms → exec .commitView s = .next t) ∧
    (t.views.view < v → ownPkg ∈ ms → ownPkg ∉ childrenIn ms → ∃ u, exec .commitView s = .next u ∧ u.views.commit = some (v, ms, at_, tb) ∧
      u.views.tx = t.views.tx ++ (childrenIn ms).map (fun c => (c, .commit v ms at_ tb)) ∧
      u.timed = t.timed ++ [(t.time + (at_ - t.time), .viewInstall)])) ∧
  (∀ (s : State) (v p since : Nat), s.views.replied = some (v, p, since) → v = s.views.view → s.views.commit = none →
    since + 20000000 ≤ s.time → p ∉ s.views.suspects → p ≠ ownPkg → p ∈ s.views.members → ownPkg ∈ s.views.members →
    ∃ u, exec .commitWaitTimeout s = .next u ∧ p ∈ u.views.suspects)

/-- R269, R270, R379–R381, R385: at its TIME a committed view is installed: its members and number are those of the COMMIT, nobody is suspected, the
view's arms signal, grafts of a package that joins end with its number, grafts through a member that leaves and dispatches to packages that
left fail with cause 0x16; without a view newer than the present one nothing is installed; a result sent again is placed where it lacks. -/
def Sys2Proof.Claims.ViewsInstall : Prop :=
  (∀ (s : State) (v at_ : Nat) (ms : List Nat) (tb : List GroupReport), s.views.commit = some (v, ms, at_, tb) →
    (s.time < at_ ∨ v ≤ s.views.view → exec .viewInstall s = .next s) ∧
    (at_ ≤ s.time → s.views.view < v → s.insts = [] → s.stations = [] → (s.views.joins.filter fun p => !ms.contains p) = [] →
      ∃ u, exec .viewInstall s = .next u ∧ u.views.view = v ∧ u.views.members = ms ∧ u.views.suspects = [] ∧ u.views.commit = none ∧
        (s.views.outside (v - 1) = false → u.views.grafts = s.views.grafts.filter (fun g => !(s.views.members.contains g.1 && !ms.contains g.1)) ∧
          ∀ g ∈ s.views.grafts, g.1 ∈ s.views.members → g.1 ∉ ms → ∃ p ∈ u.net, p.dst = g.2.1.core ∧
            p.body = .complete g.2.1.fid [(g.2.2.1, errorWord 0x16)] g.2.1.k 0x16) ∧ u.dispatch = s.dispatch.filter (fun d => !(s.views.members.contains d.pkg && !ms.contains d.pkg)) ∧
        (∀ d ∈ s.dispatch, d.pkg ∈ s.views.members → d.pkg ∉ ms → ∃ p ∈ u.net, p.dst = d.cmpl.core ∧ p.tag = d.cmpl.tag ∧
          p.body = .sig d.cmpl.fid d.cmpl.k 0x16 none false) ∧
        (∀ c, ∀ a ∈ (s.core c).cviewArms, ∃ p ∈ u.net, p.dst = a.core ∧ p.body = .sig a.fid a.k 0 none true) ∧
        (∀ c, (u.core c).cviewArms = []) ∧
        (s.views.outside (v - 1) = true → u.views.grafts = [] ∧ ∀ g ∈ s.views.grafts, ∃ p ∈ u.net, p.dst = g.2.1.core ∧
          p.body = .complete g.2.1.fid [(g.2.2.1, BitVec.ofNat 64 v)] g.2.1.k 0))) ∧
  (∀ (s t : State) (fid ver grp n : Nat) (x : Option (List Word)) (i : Inst), s.Offers .resentResult (.view (.resent fid ver grp n x)) t →
    t.insts.find? (fun i => i.fid == fid && i.ver == ver && i.st != .unloaded) = some i →
    (SMap.get 0 (t.cluster i.first).cbase grp ≠ n → exec .resentResult s = .next t) ∧
    (SMap.get 0 (t.cluster i.first).cbase grp = n → (t.cluster i.first).galley = [] → i.first < 512 → (x.getD []).length ≤ 28 → ∃ u, exec .resentResult s = .next u ∧
      SMap.get 0 (u.cluster i.first).cbase grp = n + 1 ∧ ∀ c, c ∈ espMembers (t.espOf i.first grp) → ∃ p ∈ u.net,
        p.dst = 16 * i.first + c ∧ p.body = .result grp n false 0 x))

/-! Operating points, the host, resets and the management path. -/

/-- R281, R315, R317, R320–R322: a step to the present point completes at once; one to a point that is not offered, or that does not fit, ends with
cause 0x12 and tells the runtime; a downward one is announced, evacuates, switches the clocks no sooner than 1 µs later and then ramps the
voltage; an upward one ramps first. -/
def Sys2Proof.Claims.OperatingPointSteps : Prop :=
  (∀ (s : State) (o : OpStep) (q : List OpStep) (k : Cmpl), s.ops = o :: q → o.cmpl = some k →
    (s.opstage = 0 →
      (o.k = s.opnow → exec .opstepArrival s = .next ({ s with ops := q, opstage := 0 }.signal o.org k 0 true)) ∧
      (o.k ≠ s.opnow → s.offered o.k = false → ∃ u, exec .opstepArrival s = .next u ∧ u.ops = q ∧ u.opnow = s.opnow ∧
        u.net = s.net ++ [o.org.resp k.core k.tag (.sig k.fid k.k 0x12 none true)]) ∧
      (o.k < s.opnow → s.offered o.k = true → ∃ u, exec .opstepArrival s = .next u ∧ u.ops = s.ops ∧ u.opstage = 4 ∧ u.opclock = s.opclock ∧
        u.timed = s.timed ++ [(s.time + 100 * (millivolts o.k - millivolts s.opnow), .voltageRampDone)]) ∧
      (∀ d, s.opnow < o.k → s.offered o.k = true → s.shortfall o.k = some d → ∃ u, exec .opstepArrival s = .next u ∧ u.ops = q ∧
        u.opnow = s.opnow ∧ u.net = s.net ++ [o.org.resp k.core k.tag (.sig k.fid k.k 0x12 none true)]) ∧
      (s.opnow < o.k → s.offered o.k = true → s.shortfall o.k = none → ∃ u, exec .opstepArrival s = .next u ∧ u.opstage = 1 ∧
        u.announced = o.k ∧ u.opnow = s.opnow ∧ u.opclock = s.opclock)) ∧
    (s.opstage = 1 → s.heldFrames = [] → ∃ u n, exec .evacuation s = .next u ∧ u.opstage = 2 ∧ u.opclock = s.opclock ∧
      1000 ≤ n ∧ (s.time + n, .opSwitch) ∈ u.timed) ∧
    (s.opstage = 2 → ∃ u, exec .opSwitch s = .next u ∧ u.opclock = o.k ∧ u.opstage = 3 ∧ u.opnow = s.opnow ∧
      u.timed = s.timed ++ [(s.time + rampTime s.opnow o.k, .voltageRampDone)]) ∧
    (s.opstage = 3 → exec .voltageRampDone s = .next ({ s with opnow := o.k, ops := q, opstage := 0 }.signal o.org k 0 true)) ∧
    (s.opstage = 4 → ∃ u n, exec .voltageRampDone s = .next u ∧ u.opstage = 5 ∧ u.opclock = s.opclock ∧
      u.timed = s.timed ++ [(s.time + n, .opSwitch)]) ∧
    (s.opstage = 5 → exec .opSwitch s = .next ({ s with opclock := o.k, opnow := o.k, ops := q, opstage := 0 }.signal o.org k 0 true))) ∧
  coreMHz 0 = 1700 ∧ coreMHz 1 = 1400 ∧ coreMHz 2 = 1120 ∧ coreMHz 3 = 840 ∧ coreMHz 4 = 600

/-- R7, R311, R312, R316, R317, R321: a row found failing joins the prune map at the present point, and a frame that holds it is
held for its move to usable granules, or stays where there are none; a register write from
outside sets the register; a format window, of which the reserved bits are not written, has V = 0 when its descriptor fails its check. -/
def Sys2Proof.Claims.RowsAndRegistersChange : Prop :=
  (∀ (s t : State) (kind cl core row : Nat), s.Offers .scrubError (.scrub kind cl core row) t →
    (t.hasPrune = false ∨ t.pruned kind cl core row t.opnow = true → exec .scrubError s = .next t) ∧
    (t.hasPrune = true → t.pruned kind cl core row t.opnow = false → ∃ u, exec .scrubError s = .next u ∧ u.prune = t.prune ++
        [{ kind := kind, cl := cl, core := core, row := row, op := t.opnow, field := true }] ∧
      (∀ op, t.opnow ≤ op → u.pruned kind cl core row op = true) ∧
      (∀ f l, kind = 1 → ((t.core (16 * cl + core)).fent f).held = false → (((t.core (16 * cl + core)).ftab.filter fun (_, e) => e.v && e.res && decide (e.gran ≤ row / 4) &&
          decide (row / 4 ≤ e.gran + e.len)).map (·.1)) = f :: l →
        ∀ v p, v = { t with prune := u.prune } →
          p = v.framePlace (16 * cl + core) (t.core (16 * cl + core)) (((t.core (16 * cl + core)).fent f).len + 1) v.announced →
          (∀ g, p = some (.granules g) → ((u.core (16 * cl + core)).fent f).held = true ∧
            ((u.core (16 * cl + core)).fent f).dest = some (.granules g)) ∧
          ((∀ g, p ≠ some (.granules g)) → (u.core (16 * cl + core)).fent f = (t.core (16 * cl + core)).fent f)))) ∧
  (∀ (s t : State) (num at_ : Nat) (v : Word), s.Offers .registerWrite (.reg num at_ v) t →
    0x110 ≤ num → num ≤ 0x117 → ∃ u, exec .registerWrite s = .next u ∧ SMap.get 0 (u.core at_).mailbox (num - 0x110) = v ∧ u.net = t.net) ∧
  (∀ (s t : State) (i die at_ : Nat) (v w : Word), s.Offers .fmtwinWrite (.reg (0x880 + i) die v) t → i < 16 → at_ = dieOf (64 * die) →
    w = ((SMap.get {} (t.die at_).fmtwin i).reg &&& 0x0070000000000000) ||| (v &&& 0xFF8FFFFFFFFFFFFF) →
    ∃ u, exec .fmtwinWrite s = .next u ∧ (t.winDesc at_ w = none →
      (SMap.get {} (u.die at_).fmtwin i).reg.getLsbD 63 = false ∧ (SMap.get {} (u.die at_).fmtwin i).desc = none) ∧
      ∀ d, t.winDesc at_ w = some d → SMap.get {} (u.die at_).fmtwin i = { reg := w, desc := some d })

/-- R177, R327, R415–R422: posted writes of the host reach registers, ports and memory; reads are answered by tag; an AtomicOp
replaces its location at the home slice and answers with the old value, and one that is not naturally aligned fails. A PCAP register kept
between 1,000 and 3,200 is the model's choice (log entry 75). -/
def Obligations.HostRequests : Prop :=
  (∀ (s t : State) (off : Nat) (bs : List Byte), s.Offers .hostPostedWrite (.hwrite 0 off bs) t → bs.length = 64 →
    0x100000 ≤ off → off < 0x140000 → off % 0x1000 = 0 → exec .hostPostedWrite s = .next (t.tokenIn ((off - 0x100000) / 0x1000) (wordsOfBytes 8 bs))) ∧
  (∀ (s t : State) (v : Word), s.Offers .hostPostedWrite (.hwrite 0 0x10000 (bytesOfNat 8 v.toNat)) t → ∃ u, exec .hostPostedWrite s = .next u ∧
    u.host.pcap = max 1000 (min 3200 (wbits v 15 0))) ∧
  (∀ (s t : State) (off : Nat) (b : Byte) (l : LlcLine), s.Offers .hostPostedWrite (.hwrite 2 off [b]) t → off < 2 ^ 40 →
    SMap.get none t.llc (off / 64) = some l → l.poison = false → l.data.length = 64 → 0 < t.llcWays (off / 64) → ∃ u, exec .hostPostedWrite s = .next u ∧ u.homeByte off = b ∧
      ∀ a, a ≠ off → a / 2 ^ 48 % 16 ≠ 1 → u.homeByte a = t.homeByte a) ∧
  (∀ (s t : State) (tag : Nat), s.Offers .hostRead (.hread 0 0 8 tag) t → ∃ u bs, exec .hostRead s = .next u ∧
    u.host.replies = t.host.replies ++ [(tag, bs)] ∧ BitVec.ofNat 64 (natOfBytes bs) = t.devstat) ∧
  (∀ s : State, s.host.stage < 16 → s.opnow < 8 → s.host.berr < 16 → s.devstat.getLsbD 0 = s.host.ready ∧
    wbits s.devstat 7 4 = s.host.stage ∧ wbits s.devstat 10 8 = s.opnow ∧ s.devstat.getLsbD 11 = s.host.tstop ∧ wbits s.devstat 15 12 = s.host.berr) ∧
  (∀ (s t : State) (off n op b cmp tag : Nat), s.Offers .hostAtomicop (.hatomic off n op b cmp tag) t →
    (2 ^ 40 ≤ off ∨ off % n ≠ 0 ∨ outsideSize op n = false → exec .hostAtomicop s = .next (t.answerHost tag [])) ∧
    (∀ l old, off < 2 ^ 40 → n = 8 → off % 8 = 0 → op ≤ 2 → SMap.get none t.llc (off / 64) = some l → l.poison = false → l.data.length = 64 →
      SMap.get false t.hbad (off / 64) = false → 0 < t.llcWays (off / 64) →
      old = natOfBytes ((List.range 8).map fun i => t.homeByte (off + i)) → ∃ u, exec .hostAtomicop s = .next u ∧
        u.host.replies = t.host.replies ++ [(tag, bytesOfNat 8 old)] ∧
        natOfBytes ((List.range 8).map fun i => u.homeByte (off + i)) =
          (if op = 0 then (old + b) % 2 ^ 64 else if op = 1 then b % 2 ^ 64 else if old = cmp then b % 2 ^ 64 else old)))

/-- R428–R430: a power sample is kept for 1 ms and gates arithmetic above PCAP; at 110 °C every partition stops, and CLR_TSTOP lets it run again
once no die is at 95 °C; at 120 °C power is removed and a cold reset follows. That CLR_TSTOP resumes the clusters that the stop itself had
stopped is the model's reading (log entry 76). -/
def Sys2Proof.Claims.PowerAndHeat : Prop :=
  (∀ (s t : State) (w : Nat) (hot temps : List Nat), s.Offers .powerSample (.power w hot temps) t → t.host.samples + 1 < 10000 →
    ∃ u, exec .powerSample s = .next u ∧ u.host.power = (w :: t.host.power).take 100 ∧ u.host.samples = t.host.samples + 1 ∧
      (∀ i v, temps[i]? = some v → SMap.get 0 u.host.temps i = v % 2 ^ 16) ∧
      (1000 * u.host.pcap < u.host.pwrnow → u.host.gatedSamples = t.host.gatedSamples + 1 ∧
        u.host.gates = t.host.gates + 10000 * coreMHz t.opclock / 2000) ∧
      u.cores = t.cores ∧ u.clusters = t.clusters ∧ u.opnow = t.opnow) ∧
  (∀ s : State, s.host.tstop = false → 1760 ≤ s.host.hottest → s.ops = [] → ∃ u, exec .thermalStop s = .next u ∧ u.host.tstop = true ∧
    (∀ cl, cl < 512 → (u.cluster cl).stopped = true ∧ (cl ∈ u.host.tstopped ↔ (s.cluster cl).stopped = false)) ∧
    ∀ c x, c < 8192 → x < 4 → (s.cluster (c / 16)).stopped = false → ((u.core c).ctx x).phase ≠ .running) ∧
  (∀ (s t : State) (i : Input), s.Offers .clrTstop i t →
    (1520 ≤ t.host.hottest → exec .clrTstop s = .next (t.respond [Config.i3cStatus true])) ∧
    (t.host.hottest < 1520 → ∃ u, exec .clrTstop s = .next u ∧ u.host.tstop = false ∧ u.host.tstopped = [] ∧
      (∀ cl ∈ t.host.tstopped, (u.cluster cl).stopped = false) ∧ u.host.i3cOut = t.host.i3cOut ++ [[Config.i3cStatus false]])) ∧
  (∀ s : State, 1920 ≤ s.host.hottest → ∃ u, exec .thermalPowerOff s = .next u ∧ (∀ d, d < 8 → (u.die d).poweredOff = true) ∧
    u.timed = [(s.time + 0, .coldReset)])

/-- R42, R426, R427: a cold reset starts bring-up again; a package reset keeps the measurement registers, the forme keys and the prune maps, and
leaves stages 5 and 6 to do; the stages follow each other up to READY, stage 5 clearing memory and its error state, and an image that fails
its check stops them. A reset before stage 4 that leaves the earlier stages to do too, and prune rows found in the field that a reset
drops, are the model's reading (log entry 74). -/
def Sys2Proof.Claims.ResetsAndBringUp : Prop :=
  (∀ (s t : State) (x : Input), s.Offers .coldReset x t → ∃ u, exec .coldReset s = .next u ∧ u.cores = [] ∧ u.clusters = [] ∧ u.insts = [] ∧
    u.net = [] ∧ u.time = 0 ∧ u.opnow = 1 ∧ u.host.stage = 0 ∧ u.host.ready = false ∧ u.host.mr = [] ∧ u.host.fkeys = [] ∧ u.views = {} ∧
    u.caps = t.caps ∧ u.timed = State.reset.timed) ∧
  (∀ (s t : State) (i : Instr) (x : Input), (i = .functionLevelReset ∨ i = .hotReset) → s.Offers i x t → ∃ u, exec i s = .next u ∧ u.cores = [] ∧
    u.clusters = [] ∧ u.insts = [] ∧ u.net = [] ∧ u.time = 0 ∧ u.opnow = 1 ∧ u.host.stage = min 4 t.host.stage ∧ u.host.ready = false ∧ u.host.mr = t.host.mr ∧
    u.host.fkeys = t.host.fkeys ∧ u.host.fklock = false ∧ u.prune = t.prune.filter (!·.field) ∧ u.caps = t.caps) ∧
  (∀ s : State, s.host.stage < 6 → s.host.berr = 0 →
    ((s.host.stage = 0 ∨ s.host.stage = 2) → Config.bootOk (s.host.stage + 1) = false → exec .bringUpStage s =
      .next { s with host := { s.host with berr := s.host.stage + 1 } }) ∧
    (Config.bootOk (s.host.stage + 1) = true ∨ s.host.stage ≠ 0 ∧ s.host.stage ≠ 2 → ∃ u, exec .bringUpStage s = .next u ∧
      u.host.stage = s.host.stage + 1 ∧ (s.host.stage = 3 → u.opnow = 1 ∧ u.opclock = 1) ∧
      (s.host.stage = 4 → (∀ a, SMap.get 0 u.hbm a = 0 ∧ SMap.get .empty u.hwo a = .empty ∧ SMap.get false u.hpoison a = false ∧
        SMap.get false u.hbad a = false) ∧ ∀ c n, SMap.get false (u.core c).fbad n = false) ∧ (s.host.stage = 5 → u.host.ready = true) ∧
      (s.host.stage ≠ 5 → u.host.ready = s.host.ready))) ∧
  (∀ s : State, 6 ≤ s.host.stage ∨ s.host.berr ≠ 0 → exec .bringUpStage s = .next s)

/-- R423–R425, R428, R431: the commands of the management path: identity, measurements, EXTEND of MR4 to MR7 by hashing, reports signed with the nonce, forme
keys until they are locked, the signing policy, telemetry, the power cap, resets and the bus address. SHAKE256 and Ed448 are those of their standards (log entry 115); a
power cap kept between 1,000 and 3,200 is the model's choice (log entry 75), and what a reset before stage 4 leaves its reading (log entry
74). -/
def Sys2Proof.Claims.ManagementCommands : Prop :=
  (∀ (s t : State) (x : Input), s.Offers .getId x t → exec .getId s = .next (t.respond identity)) ∧
  (∀ (s t : State) (i : Nat), s.Offers .getMeas (.num i) t → (i < 8 → exec .getMeas s = .next (t.respond (t.host.mrOf i))) ∧
    (8 ≤ i → exec .getMeas s = .next (t.respond [Config.i3cStatus true]))) ∧
  (∀ (s t : State) (i : Nat) (d : List Byte), s.Offers .extend (.bytes i d) t →
    (4 ≤ i → i ≤ 7 → d.length = 64 → ∃ u, exec .extend s = .next u ∧
      u.host.mrOf i = digest (t.host.mrOf i ++ d) ∧
      (∀ j, j ≠ i → u.host.mrOf j = t.host.mrOf j) ∧ u.host.i3cOut = t.host.i3cOut ++ [[Config.i3cStatus false]]) ∧
    (i < 4 ∨ 7 < i ∨ d.length ≠ 64 → exec .extend s = .next (t.respond [Config.i3cStatus true]))) ∧
  (∀ (s t : State) (i : Nat) (nonce : List Byte), s.Offers .attest (.bytes i nonce) t →
    (nonce.length = 64 → (∀ i, i < 8 → (t.host.mrOf i).length = 64) → ∃ body, body.length = 0x2A0 ∧
      exec .attest s = .next (t.respond (body ++ Ed448.sign Config.identitySecret body)) ∧ (body.drop 0x10).take 64 = nonce ∧
      (∀ i, i < 8 → (body.drop (0x50 + 64 * i)).take 64 = t.host.mrOf i) ∧ (body.drop 0x250).take 8 = bytesOfNat 8 t.time) ∧
    (nonce.length ≠ 64 → exec .attest s = .next (t.respond [Config.i3cStatus true]))) ∧
  (∀ (s t : State) (i : Nat) (key : List Byte), s.Offers .setFkey (.bytes i key) t →
    (t.host.fklock = false → i < 8 → key.length = 57 → ∃ u, exec .setFkey s = .next u ∧ SMap.get none u.host.fkeys i = some key ∧
      (∀ j, j ≠ i → SMap.get none u.host.fkeys j = SMap.get none t.host.fkeys j) ∧ u.host.i3cOut = t.host.i3cOut ++ [[Config.i3cStatus false]]) ∧
    (t.host.fklock = true ∨ 8 ≤ i ∨ key.length ≠ 57 → exec .setFkey s = .next (t.respond [Config.i3cStatus true]))) ∧
  (∀ (s t : State) (n : Nat), s.Offers .setPolicy (.num n) t → ∃ u, exec .setPolicy s = .next u ∧ u.host.policy = decide (n % 2 = 1)) ∧
  (∀ (s t : State) (x : Input), s.Offers .getTelem x t → ∃ u bs, exec .getTelem s = .next u ∧ u.host.i3cOut = t.host.i3cOut ++ [bs] ∧ bs.length = 96) ∧
  (∀ (s t : State) (w : Nat), s.Offers .setPcap (.num w) t → ∃ u, exec .setPcap s = .next u ∧ u.host.pcap = max 1000 (min 3200 (w % 2 ^ 16))) ∧
  (∀ (s t : State) (n : Nat), s.Offers .reset (.num n) t → (n = 0 → ∃ u, exec .reset s = .next u ∧ u.host.stage = 0 ∧ u.cores = [] ∧ u.host.mr = []) ∧
    (n = 1 → ∃ u, exec .reset s = .next u ∧ u.host.stage = min 4 t.host.stage ∧ u.cores = [] ∧ u.host.mr = t.host.mr) ∧
    (2 ≤ n → exec .reset s = .next (t.respond [Config.i3cStatus true]))) ∧
  (∀ (s t : State) (a : Nat), s.Offers .entdaa (.num a) t → exec .entdaa s = .next { t with host := { t.host with i3c := a } })

/-! The machine as a whole. -/

/-- R42: what every core and cluster holds after package reset, with the reset values that the table of special registers gives the
per-core registers; and the clock and the operating point. FREEG is 256 where no row of the prune map fails. -/
def Obligations.AfterReset : Prop :=
  ∀ u : State, (u = State.reset ∨ ∃ s : State, u = s.packageReset) →
    (∀ c x, x < 4 → ((u.core c).ctx x).phase = .idle) ∧ (∀ c, (u.core c).ready = []) ∧
    (∀ c f, ((u.core c).fent f).v = false) ∧ (∀ c n, (u.core c).granFree n = true) ∧
    (∀ c p, ((u.core c).plate p).st = .invalid) ∧
    (∀ c a, ((u.core c).aslot a).st = .free ∧ ∀ e, SMap.get 0 ((u.core c).aslot a).acc e = 0) ∧
    (∀ c n, (SMap.get 0 (u.core c).tasks n).getLsbD 31 = false) ∧
    (∀ c, u.reg c 0x100 = some 0 ∧ u.reg c 0x101 = some (BitVec.ofNat 64 c) ∧ u.reg c 0x102 = some 0x10000 ∧
      u.reg c 0x105 = some 0 ∧ u.reg c 0x800 = some 0 ∧ u.reg c 0x801 = some 0 ∧ u.reg c 0x802 = some 0 ∧
      (u.prune = [] → u.reg c 0x104 = some 256)) ∧
    (∀ c, u.reg c 0x404 = some 1024 ∧ u.reg c 0x405 = some 0 ∧ u.reg c 0x406 = some 0) ∧
    (∀ c, u.reg c 0x890 = some 1 ∧ u.reg c 0x402 = some 0 ∧ u.reg c 0x408 = some 0 ∧ u.reg c 0x962 = some 64)

/-- R44–R48, R58: words that the manual works out field by field decode to the instructions they stand for, in every length and
several families; and three words that the checks of R60 refuse. -/
def Obligations.WordsDecode : Prop :=
  decodeTableWord 64 0x0000010800290000 =
    some (.add { pg := 0, pn := 0, d := 4, a := 5, b := 0, fn := 0b1000000, form := .imm 16 }) ∧
  decodeTableWord 96 (0x0000000000298001 + 0x00000010 * 2 ^ 64) =
    some (.add { pg := 0, pn := 0, d := 6, a := 5, b := 0, fn := 0, form := .imx 0x100000000 }) ∧
  decodeTableWord 64 0x00000408C019E8C0 =
    some (.ld { pg := 2, pn := 1, d := 7, a := 3, b := 0, fn := 0b1000110, form := .imm 0x40 }) ∧
  decodeTableWord 64 0x000000084020C04C =
    some (.pcmp { pg := 0, pn := 0, d := 3, a := 4, b := 0, fn := 0b1000010, form := .imm 0 }) ∧
  decodeTableWord 64 0x0000060000300180 =
    some (.sig { pg := 0, pn := 0, d := 0, a := 6, b := 0, fn := 0, form := .reg 3 0 }) ∧
  decodeTableWord 128 (0x000000000048018E + 0x02A08105 * 2 ^ 64) =
    some (.send { pg := 0, pn := 0, d := 0, a := 9, b := 0, fn := 0, form := .desc 0 0 0x02A08105 }) ∧
  decodeTableWord 64 0x000004718629020C =
    some (.vfma { pg := 0, pn := 0, d := 4, a := 5, b := 6, fn := 0x0C, form := .reg 2 7 }) ∧
  decodeTableWord 128 (0x0000126005204306 + 0x12810001AD * 2 ^ 64) =
    some (.mma { pg := 0, pn := 0, d := 1, a := 4, b := 5, fn := 0, form := .desc 9 6 0x12810001AD }) ∧
  decodeTableWord 64 0x00001008000103C8 =
    some (.mfs { pg := 0, pn := 0, d := 4, a := 0, b := 0, fn := 0x40, form := .imm 0x100 }) ∧
  decodeTableWord 32 0xFFFFFFFF = some .filler ∧
  decodeWord 0x0000000000000003 = .error .lenReserved ∧ decodeWord 0x0000000000000110 = .error .unassigned ∧
  decodeWord 0x0000010801290000 = .error .reservedBit

/-- R44–R48: decoding gives back every well-formed instruction from its bytes, with every operand at every value that its encoding
admits, whatever bytes follow; and every instruction that decoding gives is well-formed. -/
def Sys2Proof.Claims.DecodingUndoesEncoding : Prop :=
  (∀ (i : Instr) (op : Nat) (o : Ops) (rest : List Byte), codeOf i = some (op, o) → WellFormed i = true →
    decode (encode i ++ rest) = some (.ok (i, rest)) ∧ (encode i).length = o.form.bytes) ∧
  (∀ (bs rest : List Byte) (i : Instr), decode bs = some (.ok (i, rest)) → WellFormed i = true)

/-- R44–R60: no bit of an encoding is dropped: a word that decodes is the word of the instruction it decodes to, so that two words never
mean the same instruction. -/
def Sys2Proof.Claims.EncodingUndoesDecoding : Prop :=
  ∀ (w : Nat) (i : Instr), w < 2 ^ (8 * lenBytes w) → decodeWord w = .ok i → encodeWord i = some w

/-- R55, R60: when the bytes at the fetch offset of the context or hart that moves are those of a well-formed instruction, a step is that
instruction's execution after TIME has moved on and the instruction has been counted, and, for an access of
several pieces, whether it performs one of them or all has been drawn; how far TIME moves on (log entry 3), that every instruction started is
counted (log entry 4) and the drawing (log entry 46) are the model's choices; a filler at offset 28 of a block likewise. A step
of the hardware whose turn it is happens after it has been taken off the list of what is due. -/
def Obligations.StepRunsTheDecodedInstruction : Prop :=
  (∀ (s t : State) (c x : Nat) (i : Instr) (op : Nat) (o : Ops), s.dark = false → s.next = some (.ctx c x) →
    t = s.turn.enter (.ctx c x) → t.cx.bad = false → t.plateUpset = false → ((t.core c).plate t.cx.plate).st ≠ .invalid →
    codeOf i = some (op, o) → WellFormed i = true → loadBytes t.code t.cx.off (encode i).length = encode i →
    t.cx.off < 8192 → t.cx.off % 32 ≠ 28 → t.cx.off % 32 + (encode i).length ≤ 32 →
    t.absent (loadN t.code t.cx.off 8) = false → step s = exec i t) ∧
  (∀ (s t : State) (cl h : Nat) (i : Instr) (op : Nat) (o : Ops), s.dark = false → s.next = some (.hart cl h) →
    t = s.turn.enter (.hart cl h) → t.cx.bad = false → t.cx.plate = 0 →
    codeOf i = some (op, o) → WellFormed i = true → loadBytes t.code t.cx.off (encode i).length = encode i →
    t.cx.off < 8192 → t.cx.off % 32 ≠ 28 → t.cx.off % 32 + (encode i).length ≤ 32 →
    t.absent (loadN t.code t.cx.off 8) = false → hartRuns i = true → step s = exec i t) ∧
  (∀ (s t : State) (c x : Nat), s.dark = false → s.next = some (.ctx c x) → t = s.turn.enter (.ctx c x) → t.cx.bad = false →
    t.plateUpset = false → ((t.core c).plate t.cx.plate).st ≠ .invalid → t.cx.off < 8192 → t.cx.off % 32 = 28 →
    loadN t.code t.cx.off 4 = 0xFFFFFFFF → step s = exec .filler t) ∧
  (∀ (s : State) (i : Instr), s.dark = false → s.next = some (.hw i) → step s = exec i (s.turn.withdraw i)) ∧
  (∀ (s : State) (w : Who), s.turn.time = s.time + Config.elapsed s.freeCtr ∧ s.turn.cores = s.cores ∧ s.turn.clusters = s.clusters ∧
    (s.enter w).cur = w ∧ (s.enter w).cx = { ({ s with cur := w } : State).cx with
      ran := ({ s with cur := w } : State).cx.ran + 1, alone := Sys2Proof.Config.alone s.freeCtr })

/-- R50–R52, R56, R60, R261: the checks before an instruction, in their order: each that fails traps with its cause and TVAL, and no later
one is made. -/
def Obligations.FetchChecksInOrder : Prop :=
  ∀ (s t : State) (c x off w h : Nat), s.dark = false → s.next = some (.ctx c x) → t = s.turn.enter (.ctx c x) → t.cx.bad = false →
    t.plateUpset = false → off = t.cx.off → w = loadN t.code off 8 → h = loadN t.code off 4 →
    let traps := fun cause tval => step s = .next (t.trapNow cause tval)
    let plate := ((t.core c).plate t.cx.plate).st ≠ .invalid
    (¬plate → traps 0x01 t.cx.plate) ∧
    (plate → 8192 ≤ off → traps 0x04 0x2000) ∧
    (plate → off < 8192 → off % 32 = 28 → h ≠ 0xFFFFFFFF → (h % 4 = 3 → traps 0x01 h) ∧ (h % 4 ≠ 3 → traps 0x04 h)) ∧
    (plate → off < 8192 → off % 32 ≠ 28 →
      (w % 4 = 3 → traps 0x01 w) ∧
      (w % 4 ≠ 3 → 32 < off % 32 + 8 + 4 * (w % 4) → traps 0x04 off) ∧
      (w % 4 ≠ 3 → off % 32 + 8 + 4 * (w % 4) ≤ 32 →
        let v := loadN t.code off (8 + 4 * (w % 4))
        (assigned (w / 4 % 256) = false → traps 0x01 w) ∧
        (t.absent w = true → traps 0x01 w) ∧
        (t.absent w = false → (∀ e, decodeWord v = .error e → e ≠ .reservedBit → traps 0x01 w) ∧
          (decodeWord v = .error .reservedBit → traps 0x02 w))))

/-! What instructions leave alone. -/

/-- R14: a general register other than g0 and a predicate other than p0 hold what was written last; a write leaves every other register
alone, and one to g0 or p0 changes none. -/
def Sys2Proof.Claims.RegistersHoldWhatIsWritten : Prop :=
  ∀ (k : Ctx) (n j : Nat) (v : Word) (b : Bool) (x : VReg) (y : MReg),
    (k.wg n v).rg j = (if j = 0 then 0 else if j = n then v else k.rg j) ∧
    (k.wp n b).rp j = (if j = 0 then true else if j = n then b else k.rp j) ∧
    (k.wv n x).rv j = (if j = n then x else k.rv j) ∧ (k.wm n y).rm j = (if j = n then y else k.rm j) ∧
    (∀ i, (k.wg n v).rp i = k.rp i ∧ (k.wg n v).rv i = k.rv i ∧ (k.wg n v).rm i = k.rm i ∧
      (k.wp n b).rg i = k.rg i ∧ (k.wv n x).rg i = k.rg i ∧ (k.wm n y).rg i = k.rg i) ∧
    (k.wg n v).fpctl = k.fpctl ∧ (k.wg n v).out = k.out ∧ (k.wg n v).fw = k.fw ∧ (k.wg n v).off = k.off

/-- Frame of the scalar instructions 0x00–0x1F (R96–R109): apart from the destination, which is p[D] for PCMP, PLOG, FCMP and MOV to a
predicate and g[D] otherwise, the fetch place and the loop levels, the context is as before; the integer instructions leave FPCTL alone,
the float ones all of it but its flags; every byte of memory is as before. The one trap is that of R114. -/
def Sys2Proof.Claims.ScalarFrame : Prop :=
  ∀ (s t : State) (i : Instr) (op : Nat) (o : Ops), codeOf i = some (op, o) → op ≤ 0x1F → exec i s = .next t →
    (∃ u e, (u = s ∨ s.SameBut u) ∧ t = u.trapNow 0x04 e) ∨
    ∃ k : Ctx, t = s.setCx k ∧ SameBytes s t ∧
      k = { s.cx with g := k.g, p := k.p, fpctl := k.fpctl, off := k.off, loops := k.loops } ∧
      (∀ n, n ≠ o.d.toNat → k.rg n = s.rg n ∧ k.rp n = s.rp n) ∧
      ((op = 0x13 ∨ op = 0x14 ∨ op = 0x1E ∨ i = .movGp o) → ∀ n, k.rg n = s.rg n) ∧
      (op ≠ 0x13 → op ≠ 0x14 → op ≠ 0x1E → i ≠ .movGp o → ∀ n, k.rp n = s.rp n) ∧
      (op < 0x17 → k.fpctl = s.cx.fpctl) ∧ (∀ b, b < 4 ∨ 8 < b → k.fpctl.getLsbD b = s.cx.fpctl.getLsbD b)

/-- Frame of the vector instructions 0x80–0xAB but VTBL (R182–R202): apart from the destination, the flags of FPCTL, the fetch place and
the loop levels, the context is as before. The destination is g[D] for MPOP, VRED, VDOT and VGET, m[D] for VCMP, the mask instructions
and VIDX.m, the registers of the columns' heaps for HSIFT.C, and v[D] otherwise; no predicate and no byte of memory changes. -/
def Obligations.VectorFrame : Prop :=
  ∀ (s t : State) (i : Instr) (op : Nat) (o : Ops), codeOf i = some (op, o) → 0x80 ≤ op → op ≤ 0xAB → op ≠ 0x95 → s.Agreed →
    exec i s = .next t →
    (∃ u cause e, (u = s ∨ s.SameBut u) ∧ t = u.trapNow cause e) ∨
    ∃ k : Ctx, t = s.setCx k ∧ SameBytes s t ∧
      k = { s.cx with g := k.g, v := k.v, m := k.m, fpctl := k.fpctl, off := k.off, loops := k.loops } ∧
      (∀ n, n ≠ o.d.toNat → k.rg n = s.rg n ∧ k.rm n = s.rm n) ∧
      (∀ n, n ≠ o.d.toNat → (op = 0xA8 → n < o.d.toNat) → k.rv n = s.rv n) ∧
      (op ∉ [0x9C, 0xA2, 0xA4, 0xAA] → ∀ n, k.rg n = s.rg n) ∧
      (op ∉ [0x97, 0x98, 0x99, 0x9A, 0x9B, 0xAB] → ∀ n, k.rm n = s.rm n) ∧
      (op ∈ [0x97, 0x98, 0x99, 0x9A, 0x9B, 0x9C, 0xA2, 0xA4, 0xAA] → ∀ n, k.rv n = s.rv n) ∧
      (∀ b, b < 4 ∨ 8 < b → k.fpctl.getLsbD b = s.cx.fpctl.getLsbD b)

/-- Frame of the instructions that act at Commit (R16, R130) and of those that read the system: LDFAR and the atomics (0x38, 0x50–0x53), messages,
slot actions, routes, write-once words, the routing log and timers (0x60–0x6F), matrix and state-bank commands (0xC0–0xCB), engine and
collective commands (0xE0–0xE9), MFS and MTS, and the system requests (0xF2–0xF8, 0xFA–0xFC). Every byte of memory is as before; no
register changes but g[D] of ROUTE.REF, TIME, CEXT, CVIEW, CVIEW.bm and MFS; the outbound buffer grows by at most what R16 allows, and not
at all where an instruction only reads; GEOM and FPCTL change by MGEO and MTS alone, the arms of a group by CCON, CRED and CEVT, and the
results that are taken by CEXT. Otherwise the instruction traps, or, where it misses in the TLB or finds no result, aborts to wait. -/
def Obligations.BufferedFrame : Prop :=
  ∀ (s t : State) (i : Instr) (op : Nat) (o : Ops), codeOf i = some (op, o) →
    (op = 0x38 ∨ 0x50 ≤ op ∧ op ≤ 0x53 ∨ 0x60 ≤ op ∧ op ≤ 0x6F ∨ 0xC0 ≤ op ∧ op ≤ 0xCB ∨ 0xE0 ≤ op ∧ op ≤ 0xE9 ∨
      0xF2 ≤ op ∧ op ≤ 0xFC ∧ op ≠ 0xF9) →
    ((∃ c x, s.cur = .ctx c x) ∨ op ∉ [0x50, 0x51, 0x52, 0x53, 0xE5, 0xF2]) → exec i s = .next t →
    (∃ u cause e, (u = s ∨ s.SameBut u) ∧ t = u.trapNow cause e) ∨
    (op ∈ [0x38, 0x50, 0x51, 0x52, 0x53, 0x6C, 0x6D, 0xF4, 0xF8] ∧ ∃ c x pages, s.cur = .ctx c x ∧ t = s.missAbort c x [] pages false) ∨
    (op = 0xE5 ∧ t = s.cextAbort s.cur.core s.cur.x (o.modBits 46 41)) ∨
    ∃ (k : Ctx) (es : List OutEnt), t = s.setCx k ∧ SameBytes s t ∧
      k = { s.cx with g := k.g, fpctl := k.fpctl, geom := k.geom, arms := k.arms, taken := k.taken, out := s.cx.out ++ es, off := k.off, loops := k.loops } ∧
      (es ≠ [] → k.out.length ≤ 48) ∧ (∀ n, n ≠ o.d.toNat → k.rg n = s.rg n) ∧
      (i ∉ [.routeRef o, .time o, .cext o, .cview o, .cviewBm o, .mfs o] → k.g = s.cx.g) ∧
      (i ∈ [.routeRef o, .time o, .cext o, .cview o, .cviewBm o, .mfs o, .mgeo o, .cevt o] → es = []) ∧
      (op ≠ 0xC0 → i ≠ .mts o → k.fpctl = s.cx.fpctl ∧ k.geom = s.cx.geom) ∧
      (op ∉ [0xE4, 0xE6, 0xE7] → k.arms = s.cx.arms) ∧ (op ≠ 0xE5 → k.taken = s.cx.taken)

/-- R14, R16, R112, R113: what every instruction keeps, in every state: byte memories in canonical form; and buffers, link stack and loop levels within their
sizes. -/
def Obligations.InstructionsKeepTheInvariant : Prop :=
  ∀ (s t : State) (i : Instr), (codeOf i).isSome = true ∨ i = .filler → s.memWf = true → s.cx.bounded = true → exec i s = .next t →
    t.memWf = true ∧ t.cx.bounded = true

/-- R14, R16, R112, R113: what every step of the package keeps, of whatever context, hart or unit, in every state: byte memories in
canonical form, and the buffers, link stack and loop levels of every context and hart within their sizes. -/
def Obligations.EveryStepKeepsTheInvariant : Prop :=
  ∀ s t : State, s.Inv → step s = .next t → t.Inv

/-- R42: the invariant of every step holds after cold reset, in every context and every hart. -/
def Obligations.ResetMeetsTheInvariant : Prop :=
  State.reset.Inv

/-! The statements that join claims of one subject. -/

/-- ADD, SUB, MUL, MULH, AND, OR, XOR, MIN, MAX, SHL, SHR and SAR complete with their results, with every shift amount. -/
def Obligations.SumsProductsBitsAndShifts : Prop :=
  Sys2Proof.Claims.SumsDifferencesAndProducts ∧ Sys2Proof.Claims.BitwiseAndLesserAndGreater ∧ Sys2Proof.Claims.ShiftsAndRotations

/-- EXT, DEP, LEA, PCMP, PLOG, MOV and SEL complete with their results. -/
def Obligations.FieldsAddressesAndPredicates : Prop :=
  Sys2Proof.Claims.BitFieldsOfRegisters ∧ Sys2Proof.Claims.AddressesComputed ∧ Sys2Proof.Claims.PredicateComparisons ∧ Sys2Proof.Claims.PredicateLogicAndMoves

/-- The scalar float instructions complete, with their special results, comparisons and conversions. -/
def Obligations.ScalarFloats : Prop :=
  Sys2Proof.Claims.ScalarFloatOperations ∧ Sys2Proof.Claims.FloatSpecialResults ∧ Sys2Proof.Claims.FloatComparisonsAndConversions

/-- Branches, calls, returns and hardware loops, and what traps in them. -/
def Obligations.ControlFlow : Prop :=
  Sys2Proof.Claims.BranchesCallsAndReturns ∧ Sys2Proof.Claims.LoopLevelsAtABranch ∧ Sys2Proof.Claims.HardwareLoops

/-- EXIT and EXITS commit, ABORT and ABORT.retry discard. -/
def Obligations.EndsOfActivations : Prop :=
  Sys2Proof.Claims.CommitOfAnActivation ∧ Sys2Proof.Claims.AbortOfAnActivation

/-- Taking an exception: into the handler that TVEC names, or as fault records. -/
def Obligations.ExceptionsTaken : Prop :=
  Sys2Proof.Claims.ExceptionEntersHandler ∧ Sys2Proof.Claims.ExceptionRaisesRecords

/-- TRAP and BKPT take exceptions; TRET and TRET.drop return from a handler. -/
def Obligations.TrapsAndTheirReturn : Prop :=
  Sys2Proof.Claims.TrapAndBreakpoint ∧ Sys2Proof.Claims.ReturnFromException

/-- LD, LDI, LDV, LDVS and LDVX complete with the bytes at their addresses. -/
def Obligations.Loads : Prop :=
  Sys2Proof.Claims.ScalarLoads ∧ Sys2Proof.Claims.VectorLoads

/-- What a load traps on, and how a load that misses every L1 of its core is replayed. -/
def Obligations.LoadTrapsAndMisses : Prop :=
  Sys2Proof.Claims.LoadTraps ∧ Sys2Proof.Claims.LoadMissReplays

/-- ST, STV and STVX take entries with their bytes at their places, and write no memory before Commit. -/
def Obligations.Stores : Prop :=
  Sys2Proof.Claims.ScalarStores ∧ Sys2Proof.Claims.PlacesOfStores ∧ Sys2Proof.Claims.VectorStores

/-- LDFAR, PREF, the fences and WIN complete. -/
def Obligations.SplitPhaseLoadsAndFences : Prop :=
  Sys2Proof.Claims.SplitPhaseLoads ∧ Sys2Proof.Claims.PrefetchFencesAndWindows

/-- SIG, SIGR, SIGV, SLOTADD and SLOTSET take their entries, or trap. -/
def Obligations.SlotActionsTakeEntries : Prop :=
  Sys2Proof.Claims.SlotActionsTakeAnEntry ∧ Sys2Proof.Claims.VectorOfSignals

/-- SEND, SENDF, ROUTE, FALLOC, FFREE, CHBLK and CHUNB take their entries, or trap. -/
def Obligations.MessagesTakeEntries : Prop :=
  Sys2Proof.Claims.MessagesTakeAnEntry ∧ Sys2Proof.Claims.FramesAndChannelsTakeAnEntry

/-- VCMP, the mask instructions and VCVT complete. -/
def Obligations.VectorComparesAndConversions : Prop :=
  Sys2Proof.Claims.VectorComparesAndMasks ∧ Sys2Proof.Claims.VectorConversions

/-- VRED, VSCAN, VDOT and HSIFT complete. -/
def Obligations.ReductionsScansDotsAndHeaps : Prop :=
  Sys2Proof.Claims.ReductionsScansAndDots ∧ Sys2Proof.Claims.HeapSifts

/-- Matrix and state-bank instructions check their fields and take their entries. -/
def Obligations.MatrixAndBankCommands : Prop :=
  Sys2Proof.Claims.MatrixCommandsTakeAnEntry ∧ Sys2Proof.Claims.StateBankInstructions

/-- CCON, CRED, CEXT, CEVT, CVIEW and CJOIN complete, wait or trap. -/
def Obligations.CollectivesAndViewsInstructions : Prop :=
  Sys2Proof.Claims.CollectiveInstructions ∧ Sys2Proof.Claims.ViewInstructions

/-- FLUSH, TLBINV, ROUND, PROBE, GSTOP, OPSTEP, WATCH and ECALL take their entries, or trap. -/
def Obligations.SystemInstructions : Prop :=
  Sys2Proof.Claims.SystemRequestsTakeAnEntry ∧ Sys2Proof.Claims.WatchesAndCallsTakeAnEntry

/-- Commit's issue, dispatch, starvation lift and the watchdog. -/
def Obligations.ActivationsScheduled : Prop :=
  Sys2Proof.Claims.CommittedEntriesIssue ∧ Sys2Proof.Claims.DispatchStartsTheNextActivation ∧ Sys2Proof.Claims.StarvationAndWatchdog

/-- Slot words count down and fire; updates of frames are applied, held or dropped. -/
def Obligations.FramePortUpdates : Prop :=
  Sys2Proof.Claims.SlotWordsCountDown ∧ Sys2Proof.Claims.FrameUpdatesArrive ∧ Sys2Proof.Claims.FrameUpdatesHeldOrDropped

/-- Messages to channels arrive; frames are allocated, freed and reloaded. -/
def Obligations.ChannelsAndFrames : Prop :=
  Sys2Proof.Claims.ChannelMessagesArrive ∧ Sys2Proof.Claims.FramesComeAndGo

/-- Stores, split-phase reads and atomics are performed at their places. -/
def Obligations.MemoryAccessesPerform : Prop :=
  Sys2Proof.Claims.StoresPerform ∧ Sys2Proof.Claims.SplitPhaseReads ∧ Sys2Proof.Claims.AtomicsAtTheirTarget

/-- Write-once words, the routing log and timers. -/
def Obligations.WriteOnceWordsAndLogs : Prop :=
  Sys2Proof.Claims.WriteOnceWords ∧ Sys2Proof.Claims.RoutingLogAndTimers

/-- Matrix commands are accepted, run and completed; suspect units are mapped to spares. -/
def Obligations.MatrixCommandsAndSuspectUnits : Prop :=
  Sys2Proof.Claims.MatrixCommandsRun ∧ Sys2Proof.Claims.SuspectUnits

/-- Contributions combine, results reach members, streams and token buckets move on. -/
def Obligations.CollectivesAndStreams : Prop :=
  Sys2Proof.Claims.CollectivesCombine ∧ Sys2Proof.Claims.StreamsAndBuckets

/-- Tokens arrive at ports and launches start or end at once. -/
def Obligations.TokensAndLaunches : Prop :=
  Sys2Proof.Claims.TokensAtPorts ∧ Sys2Proof.Claims.LaunchesStart

/-- Instances unload, are probed and reclaimed; placements are carried out. -/
def Obligations.InstancesEndAndExpertsArePlaced : Prop :=
  Sys2Proof.Claims.InstancesEnd ∧ Sys2Proof.Claims.PlacementsAreCarriedOut

/-- Fault records climb to the root and the error token spreads along the edges. -/
def Obligations.FaultsSpread : Prop :=
  Sys2Proof.Claims.FaultRecordsClimb ∧ Sys2Proof.Claims.ErrorTokenSpreads

/-- ROUND tokens swap plates; gang stops, flushes, TLB invalidations and the state window. -/
def Obligations.RoundsGangsAndWindows : Prop :=
  Sys2Proof.Claims.RoundsSwapPlates ∧ Sys2Proof.Claims.GangsAndWindows

/-- Stations deliver packets; members watch their neighbours. -/
def Obligations.StationsAndNeighbours : Prop :=
  Sys2Proof.Claims.StationsDeliver ∧ Sys2Proof.Claims.MembersWatchEachOther

/-- Proposers collect, proposals are answered, committed views are installed. -/
def Obligations.ViewChanges : Prop :=
  Sys2Proof.Claims.ProposersCollect ∧ Sys2Proof.Claims.ProposalsAreAnswered ∧ Sys2Proof.Claims.ViewsInstall

/-- Operating points are stepped; failing rows and outside register writes take effect. -/
def Obligations.OperatingPointsAndRows : Prop :=
  Sys2Proof.Claims.OperatingPointSteps ∧ Sys2Proof.Claims.RowsAndRegistersChange

/-- Power samples, thermal stops, resets, bring-up and the management commands. -/
def Obligations.PowerResetsAndManagement : Prop :=
  Sys2Proof.Claims.PowerAndHeat ∧ Sys2Proof.Claims.ResetsAndBringUp ∧ Sys2Proof.Claims.ManagementCommands

/-- Decoding undoes encoding and encoding undoes decoding, for every instruction of the table. -/
def Obligations.DecodingAndEncodingAgree : Prop :=
  Sys2Proof.Claims.DecodingUndoesEncoding ∧ Sys2Proof.Claims.EncodingUndoesDecoding

/-- Registers hold what is written; what the scalar instructions leave alone. -/
def Obligations.ScalarFrame : Prop :=
  Sys2Proof.Claims.RegistersHoldWhatIsWritten ∧ Sys2Proof.Claims.ScalarFrame

end Slice0
end

