-- ==== Sys2Proof/Laws/Map.lean ====
section
/-! SUPPORT. Sparse maps and byte memories: what a read after a write gives, what a write leaves alone, and that
writes keep the canonical form. -/
namespace Sys2Proof

variable {α : Type}

theorem SMap.get_erase_same (d : α) (m : SMap α) (k : Nat) : SMap.get d (SMap.erase m k) k = d := by
  induction m with
  | nil => rfl
  | cons e t ih =>
    obtain ⟨j, v⟩ := e
    by_cases h : k = j <;> simp [SMap.erase, SMap.get, h] <;> simpa [h] using ih

theorem SMap.get_erase_other (d : α) (m : SMap α) {k j : Nat} (h : j ≠ k) :
    SMap.get d (SMap.erase m k) j = SMap.get d m j := by
  induction m with
  | nil => rfl
  | cons e t ih =>
    obtain ⟨i, v⟩ := e
    by_cases hk : k = i
    · simpa [SMap.erase, SMap.get, hk, hk ▸ h] using hk ▸ ih
    · simp [SMap.erase, SMap.get, hk, ih]

theorem SMap.get_ins_same (d : α) (m : SMap α) (k : Nat) (v : α) : SMap.get d (SMap.ins m k v) k = v := by
  induction m with
  | nil => simp [SMap.ins, SMap.get]
  | cons e t ih =>
    obtain ⟨j, w⟩ := e
    by_cases h1 : k < j
    · simp [SMap.ins, SMap.get, h1]
    · by_cases h2 : k = j
      · simp [SMap.ins, SMap.get, h2]
      · simp [SMap.ins, SMap.get, h1, h2, ih]

theorem SMap.get_ins_other (d : α) (m : SMap α) {k j : Nat} (v : α) (h : j ≠ k) :
    SMap.get d (SMap.ins m k v) j = SMap.get d m j := by
  induction m with
  | nil => simp [SMap.ins, SMap.get, h]
  | cons e t ih =>
    obtain ⟨i, w⟩ := e
    by_cases h1 : k < i
    · simp [SMap.ins, SMap.get, h1, h]
    · by_cases h2 : k = i
      · subst h2
        simp [SMap.ins, SMap.get, h]
      · simp [SMap.ins, SMap.get, h1, h2, ih]

variable [DecidableEq α]

@[simp] theorem SMap.get_put_same (d : α) (m : SMap α) (k : Nat) (v : α) : SMap.get d (SMap.put d m k v) k = v := by
  unfold SMap.put
  split
  · next h => rw [SMap.get_erase_same, h]
  · exact SMap.get_ins_same d m k v

theorem SMap.get_put_other (d : α) (m : SMap α) {k j : Nat} (v : α) (h : j ≠ k) :
    SMap.get d (SMap.put d m k v) j = SMap.get d m j := by
  unfold SMap.put
  split
  · exact SMap.get_erase_other d m h
  · exact SMap.get_ins_other d m v h

theorem SMap.get_put (d : α) (m : SMap α) (k j : Nat) (v : α) :
    SMap.get d (SMap.put d m k v) j = if j = k then v else SMap.get d m j := by
  split
  · next h => rw [h, SMap.get_put_same]
  · next h => exact SMap.get_put_other d m v h

/-! The canonical form. -/

theorem SMap.wfFrom_mono (d : α) (m : SMap α) {lo lo' : Nat} (h : lo' ≤ lo) (w : SMap.wfFrom d lo m = true) :
    SMap.wfFrom d lo' m = true := by
  cases m with
  | nil => rfl
  | cons e t =>
    obtain ⟨j, v⟩ := e
    simp only [SMap.wfFrom, Bool.and_eq_true, decide_eq_true_eq] at w ⊢
    exact ⟨⟨by omega, w.1.2⟩, w.2⟩

theorem SMap.wfFrom_erase (d : α) (m : SMap α) (k lo : Nat) (w : SMap.wfFrom d lo m = true) :
    SMap.wfFrom d lo (SMap.erase m k) = true := by
  induction m generalizing lo with
  | nil => rfl
  | cons e t ih =>
    obtain ⟨j, v⟩ := e
    simp only [SMap.wfFrom, Bool.and_eq_true, decide_eq_true_eq] at w
    by_cases h : k = j
    · simpa [SMap.erase, h] using SMap.wfFrom_mono d _ (by omega) (ih (j + 1) w.2) |> (h ▸ ·)
    · simp only [SMap.erase, h, if_false, SMap.wfFrom, Bool.and_eq_true, decide_eq_true_eq]
      exact ⟨w.1, ih (j + 1) w.2⟩

theorem SMap.wfFrom_ins (d : α) (m : SMap α) (k lo : Nat) (v : α) (hv : v ≠ d) (hk : lo ≤ k)
    (w : SMap.wfFrom d lo m = true) : SMap.wfFrom d lo (SMap.ins m k v) = true := by
  induction m generalizing lo with
  | nil => simp [SMap.ins, SMap.wfFrom, hv, hk]
  | cons e t ih =>
    obtain ⟨j, u⟩ := e
    simp only [SMap.wfFrom, Bool.and_eq_true, decide_eq_true_eq] at w
    by_cases h1 : k < j
    · have : k + 1 ≤ j := h1
      simp [SMap.ins, SMap.wfFrom, h1, hv, hk, this]
      exact ⟨by simpa using w.1.2, w.2⟩
    · by_cases h2 : k = j
      · subst h2
        simp [SMap.ins, SMap.wfFrom, hv, hk, w.2]
      · simp only [SMap.ins, h1, h2, if_false, SMap.wfFrom, Bool.and_eq_true, decide_eq_true_eq]
        exact ⟨w.1, ih (j + 1) (by omega) w.2⟩

/-- A write keeps the canonical form. -/
theorem SMap.wf_put (d : α) (m : SMap α) (k : Nat) (v : α) (w : SMap.wf d m = true) : SMap.wf d (SMap.put d m k v) = true := by
  unfold SMap.put SMap.wf at *
  split
  · exact SMap.wfFrom_erase d m k 0 w
  · next h => exact SMap.wfFrom_ins d m k 0 v h (Nat.zero_le k) w

namespace Machine

/-! Byte memories. -/

theorem wf_storeN (m : SMap Byte) (a n v : Nat) (w : SMap.wf 0 m = true) : SMap.wf 0 (storeN m a n v) = true := by
  induction n generalizing m a v with
  | zero => exact w
  | succ n ih => exact ih _ _ _ (SMap.wf_put 0 m a _ w)

theorem wf_storeBytes (m : SMap Byte) (a : Nat) (bs : List Byte) (w : SMap.wf 0 m = true) :
    SMap.wf 0 (storeBytes m a bs) = true := by
  induction bs generalizing m a with
  | nil => exact w
  | cons b t ih => exact ih _ _ (SMap.wf_put 0 m a _ w)

/-- A store leaves every byte outside its range alone. -/
theorem get_storeN_other (m : SMap Byte) (a n v x : Nat) (h : x < a ∨ a + n ≤ x) :
    SMap.get 0 (storeN m a n v) x = SMap.get 0 m x := by
  induction n generalizing m a v with
  | zero => rfl
  | succ n ih =>
    rw [storeN, ih _ _ _ (by omega), SMap.get_put_other _ _ _ (by omega)]

/-- A store leaves every byte outside its range alone. -/
theorem get_storeBytes_other (m : SMap Byte) (a x : Nat) (bs : List Byte) (h : x < a ∨ a + bs.length ≤ x) :
    SMap.get 0 (storeBytes m a bs) x = SMap.get 0 m x := by
  induction bs generalizing m a with
  | nil => rfl
  | cons b t ih =>
    simp only [List.length_cons] at h
    rw [storeBytes, ih _ _ (by omega), SMap.get_put_other _ _ _ (by omega)]

/-- A byte of a stored string. -/
theorem get_storeBytes_at (m : SMap Byte) (a i : Nat) (bs : List Byte) (h : i < bs.length) :
    SMap.get 0 (storeBytes m a bs) (a + i) = bs[i] := by
  induction bs generalizing m a i with
  | nil => simp at h
  | cons b t ih =>
    cases i with
    | zero => rw [storeBytes, get_storeBytes_other _ _ _ _ (by omega)]; simp
    | succ i =>
      have h' : i < t.length := by simpa using h
      rw [storeBytes, show a + (i + 1) = a + 1 + i by omega, ih _ _ _ h']; rfl

/-- Reading a stored number back. -/
theorem loadN_storeN (m : SMap Byte) (a n v : Nat) : loadN (storeN m a n v) a n = v % 2 ^ (8 * n) := by
  induction n generalizing m a v with
  | zero => simp [loadN, Nat.mod_one]
  | succ n ih =>
    rw [loadN, storeN, ih, get_storeN_other _ _ _ _ _ (by omega), SMap.get_put_same]
    have h : 2 ^ (8 * (n + 1)) = 256 * 2 ^ (8 * n) := by rw [show 8 * (n + 1) = 8 + 8 * n by omega, Nat.pow_add]
    rw [h, Nat.mod_mul, BitVec.toNat_ofNat]

/-- A store leaves a number outside its range alone. -/
theorem loadN_storeN_other (m : SMap Byte) (a n v b k : Nat) (h : b + k ≤ a ∨ a + n ≤ b) :
    loadN (storeN m a n v) b k = loadN m b k := by
  induction k generalizing b with
  | zero => rfl
  | succ k ih =>
    rw [loadN, loadN, get_storeN_other _ _ _ _ _ (by omega), ih _ (by omega)]

end Machine
end Sys2Proof
end

