-- ==== Sys2Proof/Laws/State.lean ====
section
/-! SUPPORT. What each update of the state leaves alone, field by field, and what reading a part after its update gives.
No later proof needs to unfold an update. -/
namespace Sys2Proof.Machine

open Sys2Proof

/-! Updates of the package. -/

/-! `State.setCore`. -/

@[simp] theorem State.setCore_clusters (s : State) (c : Nat) (k : Core) : (s.setCore c k).clusters = s.clusters := rfl
@[simp] theorem State.setCore_dies (s : State) (c : Nat) (k : Core) : (s.setCore c k).dies = s.dies := rfl
@[simp] theorem State.setCore_hbm (s : State) (c : Nat) (k : Core) : (s.setCore c k).hbm = s.hbm := rfl
@[simp] theorem State.setCore_hpoison (s : State) (c : Nat) (k : Core) : (s.setCore c k).hpoison = s.hpoison := rfl
@[simp] theorem State.setCore_hbad (s : State) (c : Nat) (k : Core) : (s.setCore c k).hbad = s.hbad := rfl
@[simp] theorem State.setCore_hwo (s : State) (c : Nat) (k : Core) : (s.setCore c k).hwo = s.hwo := rfl
@[simp] theorem State.setCore_hreaders (s : State) (c : Nat) (k : Core) : (s.setCore c k).hreaders = s.hreaders := rfl
@[simp] theorem State.setCore_llc (s : State) (c : Nat) (k : Core) : (s.setCore c k).llc = s.llc := rfl
@[simp] theorem State.setCore_owner (s : State) (c : Nat) (k : Core) : (s.setCore c k).owner = s.owner := rfl
@[simp] theorem State.setCore_time (s : State) (c : Nat) (k : Core) : (s.setCore c k).time = s.time := rfl
@[simp] theorem State.setCore_opnow (s : State) (c : Nat) (k : Core) : (s.setCore c k).opnow = s.opnow := rfl
@[simp] theorem State.setCore_opclock (s : State) (c : Nat) (k : Core) : (s.setCore c k).opclock = s.opclock := rfl
@[simp] theorem State.setCore_ops (s : State) (c : Nat) (k : Core) : (s.setCore c k).ops = s.ops := rfl
@[simp] theorem State.setCore_opstage (s : State) (c : Nat) (k : Core) : (s.setCore c k).opstage = s.opstage := rfl
@[simp] theorem State.setCore_prune (s : State) (c : Nat) (k : Core) : (s.setCore c k).prune = s.prune := rfl
@[simp] theorem State.setCore_caps (s : State) (c : Nat) (k : Core) : (s.setCore c k).caps = s.caps := rfl
@[simp] theorem State.setCore_insts (s : State) (c : Nat) (k : Core) : (s.setCore c k).insts = s.insts := rfl
@[simp] theorem State.setCore_ports (s : State) (c : Nat) (k : Core) : (s.setCore c k).ports = s.ports := rfl
@[simp] theorem State.setCore_completed (s : State) (c : Nat) (k : Core) : (s.setCore c k).completed = s.completed := rfl
@[simp] theorem State.setCore_views (s : State) (c : Nat) (k : Core) : (s.setCore c k).views = s.views := rfl
@[simp] theorem State.setCore_dispatch (s : State) (c : Nat) (k : Core) : (s.setCore c k).dispatch = s.dispatch := rfl
@[simp] theorem State.setCore_nextHop (s : State) (c : Nat) (k : Core) : (s.setCore c k).nextHop = s.nextHop := rfl
@[simp] theorem State.setCore_stations (s : State) (c : Nat) (k : Core) : (s.setCore c k).stations = s.stations := rfl
@[simp] theorem State.setCore_stops (s : State) (c : Nat) (k : Core) : (s.setCore c k).stops = s.stops := rfl
@[simp] theorem State.setCore_flushes (s : State) (c : Nat) (k : Core) : (s.setCore c k).flushes = s.flushes := rfl
@[simp] theorem State.setCore_tlbinvs (s : State) (c : Nat) (k : Core) : (s.setCore c k).tlbinvs = s.tlbinvs := rfl
@[simp] theorem State.setCore_rounds (s : State) (c : Nat) (k : Core) : (s.setCore c k).rounds = s.rounds := rfl
@[simp] theorem State.setCore_mfail (s : State) (c : Nat) (k : Core) : (s.setCore c k).mfail = s.mfail := rfl
@[simp] theorem State.setCore_host (s : State) (c : Nat) (k : Core) : (s.setCore c k).host = s.host := rfl
@[simp] theorem State.setCore_streams (s : State) (c : Nat) (k : Core) : (s.setCore c k).streams = s.streams := rfl
@[simp] theorem State.setCore_net (s : State) (c : Nat) (k : Core) : (s.setCore c k).net = s.net := rfl
@[simp] theorem State.setCore_timed (s : State) (c : Nat) (k : Core) : (s.setCore c k).timed = s.timed := rfl
@[simp] theorem State.setCore_inputs (s : State) (c : Nat) (k : Core) : (s.setCore c k).inputs = s.inputs := rfl
@[simp] theorem State.setCore_freeCtr (s : State) (c : Nat) (k : Core) : (s.setCore c k).freeCtr = s.freeCtr := rfl
@[simp] theorem State.setCore_cur (s : State) (c : Nat) (k : Core) : (s.setCore c k).cur = s.cur := rfl
@[simp] theorem State.setCore_next (s : State) (c : Nat) (k : Core) : (s.setCore c k).next = s.next := rfl

/-! `State.setCluster`. -/

@[simp] theorem State.setCluster_cores (s : State) (c : Nat) (k : Cluster) : (s.setCluster c k).cores = s.cores := rfl
@[simp] theorem State.setCluster_dies (s : State) (c : Nat) (k : Cluster) : (s.setCluster c k).dies = s.dies := rfl
@[simp] theorem State.setCluster_hbm (s : State) (c : Nat) (k : Cluster) : (s.setCluster c k).hbm = s.hbm := rfl
@[simp] theorem State.setCluster_hpoison (s : State) (c : Nat) (k : Cluster) : (s.setCluster c k).hpoison = s.hpoison := rfl
@[simp] theorem State.setCluster_hbad (s : State) (c : Nat) (k : Cluster) : (s.setCluster c k).hbad = s.hbad := rfl
@[simp] theorem State.setCluster_hwo (s : State) (c : Nat) (k : Cluster) : (s.setCluster c k).hwo = s.hwo := rfl
@[simp] theorem State.setCluster_hreaders (s : State) (c : Nat) (k : Cluster) : (s.setCluster c k).hreaders = s.hreaders := rfl
@[simp] theorem State.setCluster_llc (s : State) (c : Nat) (k : Cluster) : (s.setCluster c k).llc = s.llc := rfl
@[simp] theorem State.setCluster_owner (s : State) (c : Nat) (k : Cluster) : (s.setCluster c k).owner = s.owner := rfl
@[simp] theorem State.setCluster_time (s : State) (c : Nat) (k : Cluster) : (s.setCluster c k).time = s.time := rfl
@[simp] theorem State.setCluster_opnow (s : State) (c : Nat) (k : Cluster) : (s.setCluster c k).opnow = s.opnow := rfl
@[simp] theorem State.setCluster_opclock (s : State) (c : Nat) (k : Cluster) : (s.setCluster c k).opclock = s.opclock := rfl
@[simp] theorem State.setCluster_ops (s : State) (c : Nat) (k : Cluster) : (s.setCluster c k).ops = s.ops := rfl
@[simp] theorem State.setCluster_opstage (s : State) (c : Nat) (k : Cluster) : (s.setCluster c k).opstage = s.opstage := rfl
@[simp] theorem State.setCluster_prune (s : State) (c : Nat) (k : Cluster) : (s.setCluster c k).prune = s.prune := rfl
@[simp] theorem State.setCluster_caps (s : State) (c : Nat) (k : Cluster) : (s.setCluster c k).caps = s.caps := rfl
@[simp] theorem State.setCluster_insts (s : State) (c : Nat) (k : Cluster) : (s.setCluster c k).insts = s.insts := rfl
@[simp] theorem State.setCluster_ports (s : State) (c : Nat) (k : Cluster) : (s.setCluster c k).ports = s.ports := rfl
@[simp] theorem State.setCluster_completed (s : State) (c : Nat) (k : Cluster) : (s.setCluster c k).completed = s.completed := rfl
@[simp] theorem State.setCluster_views (s : State) (c : Nat) (k : Cluster) : (s.setCluster c k).views = s.views := rfl
@[simp] theorem State.setCluster_dispatch (s : State) (c : Nat) (k : Cluster) : (s.setCluster c k).dispatch = s.dispatch := rfl
@[simp] theorem State.setCluster_nextHop (s : State) (c : Nat) (k : Cluster) : (s.setCluster c k).nextHop = s.nextHop := rfl
@[simp] theorem State.setCluster_stations (s : State) (c : Nat) (k : Cluster) : (s.setCluster c k).stations = s.stations := rfl
@[simp] theorem State.setCluster_stops (s : State) (c : Nat) (k : Cluster) : (s.setCluster c k).stops = s.stops := rfl
@[simp] theorem State.setCluster_flushes (s : State) (c : Nat) (k : Cluster) : (s.setCluster c k).flushes = s.flushes := rfl
@[simp] theorem State.setCluster_tlbinvs (s : State) (c : Nat) (k : Cluster) : (s.setCluster c k).tlbinvs = s.tlbinvs := rfl
@[simp] theorem State.setCluster_rounds (s : State) (c : Nat) (k : Cluster) : (s.setCluster c k).rounds = s.rounds := rfl
@[simp] theorem State.setCluster_mfail (s : State) (c : Nat) (k : Cluster) : (s.setCluster c k).mfail = s.mfail := rfl
@[simp] theorem State.setCluster_host (s : State) (c : Nat) (k : Cluster) : (s.setCluster c k).host = s.host := rfl
@[simp] theorem State.setCluster_streams (s : State) (c : Nat) (k : Cluster) : (s.setCluster c k).streams = s.streams := rfl
@[simp] theorem State.setCluster_net (s : State) (c : Nat) (k : Cluster) : (s.setCluster c k).net = s.net := rfl
@[simp] theorem State.setCluster_timed (s : State) (c : Nat) (k : Cluster) : (s.setCluster c k).timed = s.timed := rfl
@[simp] theorem State.setCluster_inputs (s : State) (c : Nat) (k : Cluster) : (s.setCluster c k).inputs = s.inputs := rfl
@[simp] theorem State.setCluster_freeCtr (s : State) (c : Nat) (k : Cluster) : (s.setCluster c k).freeCtr = s.freeCtr := rfl
@[simp] theorem State.setCluster_cur (s : State) (c : Nat) (k : Cluster) : (s.setCluster c k).cur = s.cur := rfl
@[simp] theorem State.setCluster_next (s : State) (c : Nat) (k : Cluster) : (s.setCluster c k).next = s.next := rfl

/-! `State.setDie`. -/

@[simp] theorem State.setDie_cores (s : State) (d : Nat) (k : Die) : (s.setDie d k).cores = s.cores := rfl
@[simp] theorem State.setDie_clusters (s : State) (d : Nat) (k : Die) : (s.setDie d k).clusters = s.clusters := rfl
@[simp] theorem State.setDie_hbm (s : State) (d : Nat) (k : Die) : (s.setDie d k).hbm = s.hbm := rfl
@[simp] theorem State.setDie_hpoison (s : State) (d : Nat) (k : Die) : (s.setDie d k).hpoison = s.hpoison := rfl
@[simp] theorem State.setDie_hbad (s : State) (d : Nat) (k : Die) : (s.setDie d k).hbad = s.hbad := rfl
@[simp] theorem State.setDie_hwo (s : State) (d : Nat) (k : Die) : (s.setDie d k).hwo = s.hwo := rfl
@[simp] theorem State.setDie_hreaders (s : State) (d : Nat) (k : Die) : (s.setDie d k).hreaders = s.hreaders := rfl
@[simp] theorem State.setDie_llc (s : State) (d : Nat) (k : Die) : (s.setDie d k).llc = s.llc := rfl
@[simp] theorem State.setDie_owner (s : State) (d : Nat) (k : Die) : (s.setDie d k).owner = s.owner := rfl
@[simp] theorem State.setDie_time (s : State) (d : Nat) (k : Die) : (s.setDie d k).time = s.time := rfl
@[simp] theorem State.setDie_opnow (s : State) (d : Nat) (k : Die) : (s.setDie d k).opnow = s.opnow := rfl
@[simp] theorem State.setDie_opclock (s : State) (d : Nat) (k : Die) : (s.setDie d k).opclock = s.opclock := rfl
@[simp] theorem State.setDie_ops (s : State) (d : Nat) (k : Die) : (s.setDie d k).ops = s.ops := rfl
@[simp] theorem State.setDie_opstage (s : State) (d : Nat) (k : Die) : (s.setDie d k).opstage = s.opstage := rfl
@[simp] theorem State.setDie_prune (s : State) (d : Nat) (k : Die) : (s.setDie d k).prune = s.prune := rfl
@[simp] theorem State.setDie_caps (s : State) (d : Nat) (k : Die) : (s.setDie d k).caps = s.caps := rfl
@[simp] theorem State.setDie_insts (s : State) (d : Nat) (k : Die) : (s.setDie d k).insts = s.insts := rfl
@[simp] theorem State.setDie_ports (s : State) (d : Nat) (k : Die) : (s.setDie d k).ports = s.ports := rfl
@[simp] theorem State.setDie_completed (s : State) (d : Nat) (k : Die) : (s.setDie d k).completed = s.completed := rfl
@[simp] theorem State.setDie_views (s : State) (d : Nat) (k : Die) : (s.setDie d k).views = s.views := rfl
@[simp] theorem State.setDie_dispatch (s : State) (d : Nat) (k : Die) : (s.setDie d k).dispatch = s.dispatch := rfl
@[simp] theorem State.setDie_nextHop (s : State) (d : Nat) (k : Die) : (s.setDie d k).nextHop = s.nextHop := rfl
@[simp] theorem State.setDie_stations (s : State) (d : Nat) (k : Die) : (s.setDie d k).stations = s.stations := rfl
@[simp] theorem State.setDie_stops (s : State) (d : Nat) (k : Die) : (s.setDie d k).stops = s.stops := rfl
@[simp] theorem State.setDie_flushes (s : State) (d : Nat) (k : Die) : (s.setDie d k).flushes = s.flushes := rfl
@[simp] theorem State.setDie_tlbinvs (s : State) (d : Nat) (k : Die) : (s.setDie d k).tlbinvs = s.tlbinvs := rfl
@[simp] theorem State.setDie_rounds (s : State) (d : Nat) (k : Die) : (s.setDie d k).rounds = s.rounds := rfl
@[simp] theorem State.setDie_mfail (s : State) (d : Nat) (k : Die) : (s.setDie d k).mfail = s.mfail := rfl
@[simp] theorem State.setDie_host (s : State) (d : Nat) (k : Die) : (s.setDie d k).host = s.host := rfl
@[simp] theorem State.setDie_streams (s : State) (d : Nat) (k : Die) : (s.setDie d k).streams = s.streams := rfl
@[simp] theorem State.setDie_net (s : State) (d : Nat) (k : Die) : (s.setDie d k).net = s.net := rfl
@[simp] theorem State.setDie_timed (s : State) (d : Nat) (k : Die) : (s.setDie d k).timed = s.timed := rfl
@[simp] theorem State.setDie_inputs (s : State) (d : Nat) (k : Die) : (s.setDie d k).inputs = s.inputs := rfl
@[simp] theorem State.setDie_freeCtr (s : State) (d : Nat) (k : Die) : (s.setDie d k).freeCtr = s.freeCtr := rfl
@[simp] theorem State.setDie_cur (s : State) (d : Nat) (k : Die) : (s.setDie d k).cur = s.cur := rfl
@[simp] theorem State.setDie_next (s : State) (d : Nat) (k : Die) : (s.setDie d k).next = s.next := rfl

/-! `State.fresh`. -/

@[simp] theorem State.fresh_cores (s : State) : (s.fresh).cores = s.cores := rfl
@[simp] theorem State.fresh_clusters (s : State) : (s.fresh).clusters = s.clusters := rfl
@[simp] theorem State.fresh_dies (s : State) : (s.fresh).dies = s.dies := rfl
@[simp] theorem State.fresh_hbm (s : State) : (s.fresh).hbm = s.hbm := rfl
@[simp] theorem State.fresh_hpoison (s : State) : (s.fresh).hpoison = s.hpoison := rfl
@[simp] theorem State.fresh_hbad (s : State) : (s.fresh).hbad = s.hbad := rfl
@[simp] theorem State.fresh_hwo (s : State) : (s.fresh).hwo = s.hwo := rfl
@[simp] theorem State.fresh_hreaders (s : State) : (s.fresh).hreaders = s.hreaders := rfl
@[simp] theorem State.fresh_llc (s : State) : (s.fresh).llc = s.llc := rfl
@[simp] theorem State.fresh_owner (s : State) : (s.fresh).owner = s.owner := rfl
@[simp] theorem State.fresh_time (s : State) : (s.fresh).time = s.time := rfl
@[simp] theorem State.fresh_opnow (s : State) : (s.fresh).opnow = s.opnow := rfl
@[simp] theorem State.fresh_opclock (s : State) : (s.fresh).opclock = s.opclock := rfl
@[simp] theorem State.fresh_ops (s : State) : (s.fresh).ops = s.ops := rfl
@[simp] theorem State.fresh_opstage (s : State) : (s.fresh).opstage = s.opstage := rfl
@[simp] theorem State.fresh_prune (s : State) : (s.fresh).prune = s.prune := rfl
@[simp] theorem State.fresh_caps (s : State) : (s.fresh).caps = s.caps := rfl
@[simp] theorem State.fresh_insts (s : State) : (s.fresh).insts = s.insts := rfl
@[simp] theorem State.fresh_ports (s : State) : (s.fresh).ports = s.ports := rfl
@[simp] theorem State.fresh_completed (s : State) : (s.fresh).completed = s.completed := rfl
@[simp] theorem State.fresh_views (s : State) : (s.fresh).views = s.views := rfl
@[simp] theorem State.fresh_dispatch (s : State) : (s.fresh).dispatch = s.dispatch := rfl
@[simp] theorem State.fresh_nextHop (s : State) : (s.fresh).nextHop = s.nextHop := rfl
@[simp] theorem State.fresh_stations (s : State) : (s.fresh).stations = s.stations := rfl
@[simp] theorem State.fresh_stops (s : State) : (s.fresh).stops = s.stops := rfl
@[simp] theorem State.fresh_flushes (s : State) : (s.fresh).flushes = s.flushes := rfl
@[simp] theorem State.fresh_tlbinvs (s : State) : (s.fresh).tlbinvs = s.tlbinvs := rfl
@[simp] theorem State.fresh_rounds (s : State) : (s.fresh).rounds = s.rounds := rfl
@[simp] theorem State.fresh_mfail (s : State) : (s.fresh).mfail = s.mfail := rfl
@[simp] theorem State.fresh_host (s : State) : (s.fresh).host = s.host := rfl
@[simp] theorem State.fresh_streams (s : State) : (s.fresh).streams = s.streams := rfl
@[simp] theorem State.fresh_net (s : State) : (s.fresh).net = s.net := rfl
@[simp] theorem State.fresh_timed (s : State) : (s.fresh).timed = s.timed := rfl
@[simp] theorem State.fresh_inputs (s : State) : (s.fresh).inputs = s.inputs := rfl
@[simp] theorem State.fresh_cur (s : State) : (s.fresh).cur = s.cur := rfl
@[simp] theorem State.fresh_next (s : State) : (s.fresh).next = s.next := rfl

/-! `State.sendPkt`: the packet is in the network, or at the token bucket of its cluster. -/

theorem State.sendPkt_parts (s : State) (p : Pkt) : ∃ n c, s.sendPkt p = { s with net := n, clusters := c } := by
  unfold State.sendPkt State.passPort
  split
  · exact ⟨_, _, rfl⟩
  · simp only
    split
    · exact ⟨_, _, rfl⟩
    · split <;> exact ⟨_, _, rfl⟩

@[simp] theorem State.sendPkt_cores (s : State) (p : Pkt) : (s.sendPkt p).cores = s.cores := by obtain ⟨n, c, h⟩ := s.sendPkt_parts p; rw [h]
@[simp] theorem State.sendPkt_dies (s : State) (p : Pkt) : (s.sendPkt p).dies = s.dies := by obtain ⟨n, c, h⟩ := s.sendPkt_parts p; rw [h]
@[simp] theorem State.sendPkt_hbm (s : State) (p : Pkt) : (s.sendPkt p).hbm = s.hbm := by obtain ⟨n, c, h⟩ := s.sendPkt_parts p; rw [h]
@[simp] theorem State.sendPkt_hpoison (s : State) (p : Pkt) : (s.sendPkt p).hpoison = s.hpoison := by obtain ⟨n, c, h⟩ := s.sendPkt_parts p; rw [h]
@[simp] theorem State.sendPkt_hbad (s : State) (p : Pkt) : (s.sendPkt p).hbad = s.hbad := by obtain ⟨n, c, h⟩ := s.sendPkt_parts p; rw [h]
@[simp] theorem State.sendPkt_hwo (s : State) (p : Pkt) : (s.sendPkt p).hwo = s.hwo := by obtain ⟨n, c, h⟩ := s.sendPkt_parts p; rw [h]
@[simp] theorem State.sendPkt_hreaders (s : State) (p : Pkt) : (s.sendPkt p).hreaders = s.hreaders := by obtain ⟨n, c, h⟩ := s.sendPkt_parts p; rw [h]
@[simp] theorem State.sendPkt_llc (s : State) (p : Pkt) : (s.sendPkt p).llc = s.llc := by obtain ⟨n, c, h⟩ := s.sendPkt_parts p; rw [h]
@[simp] theorem State.sendPkt_owner (s : State) (p : Pkt) : (s.sendPkt p).owner = s.owner := by obtain ⟨n, c, h⟩ := s.sendPkt_parts p; rw [h]
@[simp] theorem State.sendPkt_time (s : State) (p : Pkt) : (s.sendPkt p).time = s.time := by obtain ⟨n, c, h⟩ := s.sendPkt_parts p; rw [h]
@[simp] theorem State.sendPkt_opnow (s : State) (p : Pkt) : (s.sendPkt p).opnow = s.opnow := by obtain ⟨n, c, h⟩ := s.sendPkt_parts p; rw [h]
@[simp] theorem State.sendPkt_opclock (s : State) (p : Pkt) : (s.sendPkt p).opclock = s.opclock := by obtain ⟨n, c, h⟩ := s.sendPkt_parts p; rw [h]
@[simp] theorem State.sendPkt_ops (s : State) (p : Pkt) : (s.sendPkt p).ops = s.ops := by obtain ⟨n, c, h⟩ := s.sendPkt_parts p; rw [h]
@[simp] theorem State.sendPkt_opstage (s : State) (p : Pkt) : (s.sendPkt p).opstage = s.opstage := by obtain ⟨n, c, h⟩ := s.sendPkt_parts p; rw [h]
@[simp] theorem State.sendPkt_prune (s : State) (p : Pkt) : (s.sendPkt p).prune = s.prune := by obtain ⟨n, c, h⟩ := s.sendPkt_parts p; rw [h]
@[simp] theorem State.sendPkt_caps (s : State) (p : Pkt) : (s.sendPkt p).caps = s.caps := by obtain ⟨n, c, h⟩ := s.sendPkt_parts p; rw [h]
@[simp] theorem State.sendPkt_insts (s : State) (p : Pkt) : (s.sendPkt p).insts = s.insts := by obtain ⟨n, c, h⟩ := s.sendPkt_parts p; rw [h]
@[simp] theorem State.sendPkt_ports (s : State) (p : Pkt) : (s.sendPkt p).ports = s.ports := by obtain ⟨n, c, h⟩ := s.sendPkt_parts p; rw [h]
@[simp] theorem State.sendPkt_completed (s : State) (p : Pkt) : (s.sendPkt p).completed = s.completed := by obtain ⟨n, c, h⟩ := s.sendPkt_parts p; rw [h]
@[simp] theorem State.sendPkt_views (s : State) (p : Pkt) : (s.sendPkt p).views = s.views := by obtain ⟨n, c, h⟩ := s.sendPkt_parts p; rw [h]
@[simp] theorem State.sendPkt_dispatch (s : State) (p : Pkt) : (s.sendPkt p).dispatch = s.dispatch := by obtain ⟨n, c, h⟩ := s.sendPkt_parts p; rw [h]
@[simp] theorem State.sendPkt_nextHop (s : State) (p : Pkt) : (s.sendPkt p).nextHop = s.nextHop := by obtain ⟨n, c, h⟩ := s.sendPkt_parts p; rw [h]
@[simp] theorem State.sendPkt_stations (s : State) (p : Pkt) : (s.sendPkt p).stations = s.stations := by obtain ⟨n, c, h⟩ := s.sendPkt_parts p; rw [h]
@[simp] theorem State.sendPkt_stops (s : State) (p : Pkt) : (s.sendPkt p).stops = s.stops := by obtain ⟨n, c, h⟩ := s.sendPkt_parts p; rw [h]
@[simp] theorem State.sendPkt_flushes (s : State) (p : Pkt) : (s.sendPkt p).flushes = s.flushes := by obtain ⟨n, c, h⟩ := s.sendPkt_parts p; rw [h]
@[simp] theorem State.sendPkt_tlbinvs (s : State) (p : Pkt) : (s.sendPkt p).tlbinvs = s.tlbinvs := by obtain ⟨n, c, h⟩ := s.sendPkt_parts p; rw [h]
@[simp] theorem State.sendPkt_rounds (s : State) (p : Pkt) : (s.sendPkt p).rounds = s.rounds := by obtain ⟨n, c, h⟩ := s.sendPkt_parts p; rw [h]
@[simp] theorem State.sendPkt_mfail (s : State) (p : Pkt) : (s.sendPkt p).mfail = s.mfail := by obtain ⟨n, c, h⟩ := s.sendPkt_parts p; rw [h]
@[simp] theorem State.sendPkt_host (s : State) (p : Pkt) : (s.sendPkt p).host = s.host := by obtain ⟨n, c, h⟩ := s.sendPkt_parts p; rw [h]
@[simp] theorem State.sendPkt_streams (s : State) (p : Pkt) : (s.sendPkt p).streams = s.streams := by obtain ⟨n, c, h⟩ := s.sendPkt_parts p; rw [h]
@[simp] theorem State.sendPkt_timed (s : State) (p : Pkt) : (s.sendPkt p).timed = s.timed := by obtain ⟨n, c, h⟩ := s.sendPkt_parts p; rw [h]
@[simp] theorem State.sendPkt_inputs (s : State) (p : Pkt) : (s.sendPkt p).inputs = s.inputs := by obtain ⟨n, c, h⟩ := s.sendPkt_parts p; rw [h]
@[simp] theorem State.sendPkt_freeCtr (s : State) (p : Pkt) : (s.sendPkt p).freeCtr = s.freeCtr := by obtain ⟨n, c, h⟩ := s.sendPkt_parts p; rw [h]
@[simp] theorem State.sendPkt_cur (s : State) (p : Pkt) : (s.sendPkt p).cur = s.cur := by obtain ⟨n, c, h⟩ := s.sendPkt_parts p; rw [h]
@[simp] theorem State.sendPkt_next (s : State) (p : Pkt) : (s.sendPkt p).next = s.next := by obtain ⟨n, c, h⟩ := s.sendPkt_parts p; rw [h]

/-! `State.after`. -/

@[simp] theorem State.after_cores (s : State) (n : Nat) (i : Instr) : (s.after n i).cores = s.cores := rfl
@[simp] theorem State.after_clusters (s : State) (n : Nat) (i : Instr) : (s.after n i).clusters = s.clusters := rfl
@[simp] theorem State.after_dies (s : State) (n : Nat) (i : Instr) : (s.after n i).dies = s.dies := rfl
@[simp] theorem State.after_hbm (s : State) (n : Nat) (i : Instr) : (s.after n i).hbm = s.hbm := rfl
@[simp] theorem State.after_hpoison (s : State) (n : Nat) (i : Instr) : (s.after n i).hpoison = s.hpoison := rfl
@[simp] theorem State.after_hbad (s : State) (n : Nat) (i : Instr) : (s.after n i).hbad = s.hbad := rfl
@[simp] theorem State.after_hwo (s : State) (n : Nat) (i : Instr) : (s.after n i).hwo = s.hwo := rfl
@[simp] theorem State.after_hreaders (s : State) (n : Nat) (i : Instr) : (s.after n i).hreaders = s.hreaders := rfl
@[simp] theorem State.after_llc (s : State) (n : Nat) (i : Instr) : (s.after n i).llc = s.llc := rfl
@[simp] theorem State.after_owner (s : State) (n : Nat) (i : Instr) : (s.after n i).owner = s.owner := rfl
@[simp] theorem State.after_time (s : State) (n : Nat) (i : Instr) : (s.after n i).time = s.time := rfl
@[simp] theorem State.after_opnow (s : State) (n : Nat) (i : Instr) : (s.after n i).opnow = s.opnow := rfl
@[simp] theorem State.after_opclock (s : State) (n : Nat) (i : Instr) : (s.after n i).opclock = s.opclock := rfl
@[simp] theorem State.after_ops (s : State) (n : Nat) (i : Instr) : (s.after n i).ops = s.ops := rfl
@[simp] theorem State.after_opstage (s : State) (n : Nat) (i : Instr) : (s.after n i).opstage = s.opstage := rfl
@[simp] theorem State.after_prune (s : State) (n : Nat) (i : Instr) : (s.after n i).prune = s.prune := rfl
@[simp] theorem State.after_caps (s : State) (n : Nat) (i : Instr) : (s.after n i).caps = s.caps := rfl
@[simp] theorem State.after_insts (s : State) (n : Nat) (i : Instr) : (s.after n i).insts = s.insts := rfl
@[simp] theorem State.after_ports (s : State) (n : Nat) (i : Instr) : (s.after n i).ports = s.ports := rfl
@[simp] theorem State.after_completed (s : State) (n : Nat) (i : Instr) : (s.after n i).completed = s.completed := rfl
@[simp] theorem State.after_views (s : State) (n : Nat) (i : Instr) : (s.after n i).views = s.views := rfl
@[simp] theorem State.after_dispatch (s : State) (n : Nat) (i : Instr) : (s.after n i).dispatch = s.dispatch := rfl
@[simp] theorem State.after_nextHop (s : State) (n : Nat) (i : Instr) : (s.after n i).nextHop = s.nextHop := rfl
@[simp] theorem State.after_stations (s : State) (n : Nat) (i : Instr) : (s.after n i).stations = s.stations := rfl
@[simp] theorem State.after_stops (s : State) (n : Nat) (i : Instr) : (s.after n i).stops = s.stops := rfl
@[simp] theorem State.after_flushes (s : State) (n : Nat) (i : Instr) : (s.after n i).flushes = s.flushes := rfl
@[simp] theorem State.after_tlbinvs (s : State) (n : Nat) (i : Instr) : (s.after n i).tlbinvs = s.tlbinvs := rfl
@[simp] theorem State.after_rounds (s : State) (n : Nat) (i : Instr) : (s.after n i).rounds = s.rounds := rfl
@[simp] theorem State.after_mfail (s : State) (n : Nat) (i : Instr) : (s.after n i).mfail = s.mfail := rfl
@[simp] theorem State.after_host (s : State) (n : Nat) (i : Instr) : (s.after n i).host = s.host := rfl
@[simp] theorem State.after_streams (s : State) (n : Nat) (i : Instr) : (s.after n i).streams = s.streams := rfl
@[simp] theorem State.after_net (s : State) (n : Nat) (i : Instr) : (s.after n i).net = s.net := rfl
@[simp] theorem State.after_inputs (s : State) (n : Nat) (i : Instr) : (s.after n i).inputs = s.inputs := rfl
@[simp] theorem State.after_freeCtr (s : State) (n : Nat) (i : Instr) : (s.after n i).freeCtr = s.freeCtr := rfl
@[simp] theorem State.after_cur (s : State) (n : Nat) (i : Instr) : (s.after n i).cur = s.cur := rfl
@[simp] theorem State.after_next (s : State) (n : Nat) (i : Instr) : (s.after n i).next = s.next := rfl

/-! `State.modInst`. -/

@[simp] theorem State.modInst_cores (s : State) (g : Nat) (f : Inst → Inst) : (s.modInst g f).cores = s.cores := rfl
@[simp] theorem State.modInst_clusters (s : State) (g : Nat) (f : Inst → Inst) : (s.modInst g f).clusters = s.clusters := rfl
@[simp] theorem State.modInst_dies (s : State) (g : Nat) (f : Inst → Inst) : (s.modInst g f).dies = s.dies := rfl
@[simp] theorem State.modInst_hbm (s : State) (g : Nat) (f : Inst → Inst) : (s.modInst g f).hbm = s.hbm := rfl
@[simp] theorem State.modInst_hpoison (s : State) (g : Nat) (f : Inst → Inst) : (s.modInst g f).hpoison = s.hpoison := rfl
@[simp] theorem State.modInst_hbad (s : State) (g : Nat) (f : Inst → Inst) : (s.modInst g f).hbad = s.hbad := rfl
@[simp] theorem State.modInst_hwo (s : State) (g : Nat) (f : Inst → Inst) : (s.modInst g f).hwo = s.hwo := rfl
@[simp] theorem State.modInst_hreaders (s : State) (g : Nat) (f : Inst → Inst) : (s.modInst g f).hreaders = s.hreaders := rfl
@[simp] theorem State.modInst_llc (s : State) (g : Nat) (f : Inst → Inst) : (s.modInst g f).llc = s.llc := rfl
@[simp] theorem State.modInst_owner (s : State) (g : Nat) (f : Inst → Inst) : (s.modInst g f).owner = s.owner := rfl
@[simp] theorem State.modInst_time (s : State) (g : Nat) (f : Inst → Inst) : (s.modInst g f).time = s.time := rfl
@[simp] theorem State.modInst_opnow (s : State) (g : Nat) (f : Inst → Inst) : (s.modInst g f).opnow = s.opnow := rfl
@[simp] theorem State.modInst_opclock (s : State) (g : Nat) (f : Inst → Inst) : (s.modInst g f).opclock = s.opclock := rfl
@[simp] theorem State.modInst_ops (s : State) (g : Nat) (f : Inst → Inst) : (s.modInst g f).ops = s.ops := rfl
@[simp] theorem State.modInst_opstage (s : State) (g : Nat) (f : Inst → Inst) : (s.modInst g f).opstage = s.opstage := rfl
@[simp] theorem State.modInst_prune (s : State) (g : Nat) (f : Inst → Inst) : (s.modInst g f).prune = s.prune := rfl
@[simp] theorem State.modInst_caps (s : State) (g : Nat) (f : Inst → Inst) : (s.modInst g f).caps = s.caps := rfl
@[simp] theorem State.modInst_ports (s : State) (g : Nat) (f : Inst → Inst) : (s.modInst g f).ports = s.ports := rfl
@[simp] theorem State.modInst_completed (s : State) (g : Nat) (f : Inst → Inst) : (s.modInst g f).completed = s.completed := rfl
@[simp] theorem State.modInst_views (s : State) (g : Nat) (f : Inst → Inst) : (s.modInst g f).views = s.views := rfl
@[simp] theorem State.modInst_dispatch (s : State) (g : Nat) (f : Inst → Inst) : (s.modInst g f).dispatch = s.dispatch := rfl
@[simp] theorem State.modInst_nextHop (s : State) (g : Nat) (f : Inst → Inst) : (s.modInst g f).nextHop = s.nextHop := rfl
@[simp] theorem State.modInst_stations (s : State) (g : Nat) (f : Inst → Inst) : (s.modInst g f).stations = s.stations := rfl
@[simp] theorem State.modInst_stops (s : State) (g : Nat) (f : Inst → Inst) : (s.modInst g f).stops = s.stops := rfl
@[simp] theorem State.modInst_flushes (s : State) (g : Nat) (f : Inst → Inst) : (s.modInst g f).flushes = s.flushes := rfl
@[simp] theorem State.modInst_tlbinvs (s : State) (g : Nat) (f : Inst → Inst) : (s.modInst g f).tlbinvs = s.tlbinvs := rfl
@[simp] theorem State.modInst_rounds (s : State) (g : Nat) (f : Inst → Inst) : (s.modInst g f).rounds = s.rounds := rfl
@[simp] theorem State.modInst_mfail (s : State) (g : Nat) (f : Inst → Inst) : (s.modInst g f).mfail = s.mfail := rfl
@[simp] theorem State.modInst_host (s : State) (g : Nat) (f : Inst → Inst) : (s.modInst g f).host = s.host := rfl
@[simp] theorem State.modInst_streams (s : State) (g : Nat) (f : Inst → Inst) : (s.modInst g f).streams = s.streams := rfl
@[simp] theorem State.modInst_net (s : State) (g : Nat) (f : Inst → Inst) : (s.modInst g f).net = s.net := rfl
@[simp] theorem State.modInst_timed (s : State) (g : Nat) (f : Inst → Inst) : (s.modInst g f).timed = s.timed := rfl
@[simp] theorem State.modInst_inputs (s : State) (g : Nat) (f : Inst → Inst) : (s.modInst g f).inputs = s.inputs := rfl
@[simp] theorem State.modInst_freeCtr (s : State) (g : Nat) (f : Inst → Inst) : (s.modInst g f).freeCtr = s.freeCtr := rfl
@[simp] theorem State.modInst_cur (s : State) (g : Nat) (f : Inst → Inst) : (s.modInst g f).cur = s.cur := rfl
@[simp] theorem State.modInst_next (s : State) (g : Nat) (f : Inst → Inst) : (s.modInst g f).next = s.next := rfl

/-! `Core.setCtx`. -/

@[simp] theorem Core.setCtx_fsram (k : Core) (x : Nat) (c : Ctx) : (k.setCtx x c).fsram = k.fsram := rfl
@[simp] theorem Core.setCtx_fpoison (k : Core) (x : Nat) (c : Ctx) : (k.setCtx x c).fpoison = k.fpoison := rfl
@[simp] theorem Core.setCtx_fbad (k : Core) (x : Nat) (c : Ctx) : (k.setCtx x c).fbad = k.fbad := rfl
@[simp] theorem Core.setCtx_pbad (k : Core) (x : Nat) (c : Ctx) : (k.setCtx x c).pbad = k.pbad := rfl
@[simp] theorem Core.setCtx_l1bad (k : Core) (x : Nat) (c : Ctx) : (k.setCtx x c).l1bad = k.l1bad := rfl
@[simp] theorem Core.setCtx_vmism (k : Core) (x : Nat) (c : Ctx) : (k.setCtx x c).vmism = k.vmism := rfl
@[simp] theorem Core.setCtx_ftab (k : Core) (x : Nat) (c : Ctx) : (k.setCtx x c).ftab = k.ftab := rfl
@[simp] theorem Core.setCtx_slots (k : Core) (x : Nat) (c : Ctx) : (k.setCtx x c).slots = k.slots := rfl
@[simp] theorem Core.setCtx_tasks (k : Core) (x : Nat) (c : Ctx) : (k.setCtx x c).tasks = k.tasks := rfl
@[simp] theorem Core.setCtx_plates (k : Core) (x : Nat) (c : Ctx) : (k.setCtx x c).plates = k.plates := rfl
@[simp] theorem Core.setCtx_sched (k : Core) (x : Nat) (c : Ctx) : (k.setCtx x c).sched = k.sched := rfl
@[simp] theorem Core.setCtx_rounds (k : Core) (x : Nat) (c : Ctx) : (k.setCtx x c).rounds = k.rounds := rfl
@[simp] theorem Core.setCtx_ready (k : Core) (x : Nat) (c : Ctx) : (k.setCtx x c).ready = k.ready := rfl
@[simp] theorem Core.setCtx_portQ (k : Core) (x : Nat) (c : Ctx) : (k.setCtx x c).portQ = k.portQ := rfl
@[simp] theorem Core.setCtx_spillQ (k : Core) (x : Nat) (c : Ctx) : (k.setCtx x c).spillQ = k.spillQ := rfl
@[simp] theorem Core.setCtx_inputQ (k : Core) (x : Nat) (c : Ctx) : (k.setCtx x c).inputQ = k.inputQ := rfl
@[simp] theorem Core.setCtx_niQ (k : Core) (x : Nat) (c : Ctx) : (k.setCtx x c).niQ = k.niQ := rfl
@[simp] theorem Core.setCtx_ni (k : Core) (x : Nat) (c : Ctx) : (k.setCtx x c).ni = k.ni := rfl
@[simp] theorem Core.setCtx_outst (k : Core) (x : Nat) (c : Ctx) : (k.setCtx x c).outst = k.outst := rfl
@[simp] theorem Core.setCtx_jobs (k : Core) (x : Nat) (c : Ctx) : (k.setCtx x c).jobs = k.jobs := rfl
@[simp] theorem Core.setCtx_acts (k : Core) (x : Nat) (c : Ctx) : (k.setCtx x c).acts = k.acts := rfl
@[simp] theorem Core.setCtx_commits (k : Core) (x : Nat) (c : Ctx) : (k.setCtx x c).commits = k.commits := rfl
@[simp] theorem Core.setCtx_timers (k : Core) (x : Nat) (c : Ctx) : (k.setCtx x c).timers = k.timers := rfl
@[simp] theorem Core.setCtx_watches (k : Core) (x : Nat) (c : Ctx) : (k.setCtx x c).watches = k.watches := rfl
@[simp] theorem Core.setCtx_cviewArms (k : Core) (x : Nat) (c : Ctx) : (k.setCtx x c).cviewArms = k.cviewArms := rfl
@[simp] theorem Core.setCtx_mailbox (k : Core) (x : Nat) (c : Ctx) : (k.setCtx x c).mailbox = k.mailbox := rfl
@[simp] theorem Core.setCtx_starvw (k : Core) (x : Nat) (c : Ctx) : (k.setCtx x c).starvw = k.starvw := rfl
@[simp] theorem Core.setCtx_wdog (k : Core) (x : Nat) (c : Ctx) : (k.setCtx x c).wdog = k.wdog := rfl
@[simp] theorem Core.setCtx_l1mode (k : Core) (x : Nat) (c : Ctx) : (k.setCtx x c).l1mode = k.l1mode := rfl
@[simp] theorem Core.setCtx_tvec (k : Core) (x : Nat) (c : Ctx) : (k.setCtx x c).tvec = k.tvec := rfl
@[simp] theorem Core.setCtx_spillBase (k : Core) (x : Nat) (c : Ctx) : (k.setCtx x c).spillBase = k.spillBase := rfl
@[simp] theorem Core.setCtx_ftidx (k : Core) (x : Nat) (c : Ctx) : (k.setCtx x c).ftidx = k.ftidx := rfl
@[simp] theorem Core.setCtx_l1 (k : Core) (x : Nat) (c : Ctx) : (k.setCtx x c).l1 = k.l1 := rfl
@[simp] theorem Core.setCtx_rbOwner (k : Core) (x : Nat) (c : Ctx) : (k.setCtx x c).rbOwner = k.rbOwner := rfl
@[simp] theorem Core.setCtx_rb (k : Core) (x : Nat) (c : Ctx) : (k.setCtx x c).rb = k.rb := rfl
@[simp] theorem Core.setCtx_misses (k : Core) (x : Nat) (c : Ctx) : (k.setCtx x c).misses = k.misses := rfl
@[simp] theorem Core.setCtx_walkFaults (k : Core) (x : Nat) (c : Ctx) : (k.setCtx x c).walkFaults = k.walkFaults := rfl
@[simp] theorem Core.setCtx_regionQ (k : Core) (x : Nat) (c : Ctx) : (k.setCtx x c).regionQ = k.regionQ := rfl
@[simp] theorem Core.setCtx_lane (k : Core) (x : Nat) (c : Ctx) : (k.setCtx x c).lane = k.lane := rfl
@[simp] theorem Core.setCtx_engLane (k : Core) (x : Nat) (c : Ctx) : (k.setCtx x c).engLane = k.engLane := rfl
@[simp] theorem Core.setCtx_results (k : Core) (x : Nat) (c : Ctx) : (k.setCtx x c).results = k.results := rfl
@[simp] theorem Core.setCtx_cextQ (k : Core) (x : Nat) (c : Ctx) : (k.setCtx x c).cextQ = k.cextQ := rfl
@[simp] theorem Core.setCtx_ccount (k : Core) (x : Nat) (c : Ctx) : (k.setCtx x c).ccount = k.ccount := rfl
@[simp] theorem Core.setCtx_evArms (k : Core) (x : Nat) (c : Ctx) : (k.setCtx x c).evArms = k.evArms := rfl
@[simp] theorem Core.setCtx_mseq (k : Core) (x : Nat) (c : Ctx) : (k.setCtx x c).mseq = k.mseq := rfl
@[simp] theorem Core.setCtx_utlb (k : Core) (x : Nat) (c : Ctx) : (k.setCtx x c).utlb = k.utlb := rfl

/-! `Core.setFent`. -/

@[simp] theorem Core.setFent_ctxs (k : Core) (f : Nat) (e : FEnt) : (k.setFent f e).ctxs = k.ctxs := rfl
@[simp] theorem Core.setFent_fsram (k : Core) (f : Nat) (e : FEnt) : (k.setFent f e).fsram = k.fsram := rfl
@[simp] theorem Core.setFent_fpoison (k : Core) (f : Nat) (e : FEnt) : (k.setFent f e).fpoison = k.fpoison := rfl
@[simp] theorem Core.setFent_fbad (k : Core) (f : Nat) (e : FEnt) : (k.setFent f e).fbad = k.fbad := rfl
@[simp] theorem Core.setFent_pbad (k : Core) (f : Nat) (e : FEnt) : (k.setFent f e).pbad = k.pbad := rfl
@[simp] theorem Core.setFent_l1bad (k : Core) (f : Nat) (e : FEnt) : (k.setFent f e).l1bad = k.l1bad := rfl
@[simp] theorem Core.setFent_vmism (k : Core) (f : Nat) (e : FEnt) : (k.setFent f e).vmism = k.vmism := rfl
@[simp] theorem Core.setFent_slots (k : Core) (f : Nat) (e : FEnt) : (k.setFent f e).slots = k.slots := rfl
@[simp] theorem Core.setFent_tasks (k : Core) (f : Nat) (e : FEnt) : (k.setFent f e).tasks = k.tasks := rfl
@[simp] theorem Core.setFent_plates (k : Core) (f : Nat) (e : FEnt) : (k.setFent f e).plates = k.plates := rfl
@[simp] theorem Core.setFent_sched (k : Core) (f : Nat) (e : FEnt) : (k.setFent f e).sched = k.sched := rfl
@[simp] theorem Core.setFent_rounds (k : Core) (f : Nat) (e : FEnt) : (k.setFent f e).rounds = k.rounds := rfl
@[simp] theorem Core.setFent_ready (k : Core) (f : Nat) (e : FEnt) : (k.setFent f e).ready = k.ready := rfl
@[simp] theorem Core.setFent_portQ (k : Core) (f : Nat) (e : FEnt) : (k.setFent f e).portQ = k.portQ := rfl
@[simp] theorem Core.setFent_spillQ (k : Core) (f : Nat) (e : FEnt) : (k.setFent f e).spillQ = k.spillQ := rfl
@[simp] theorem Core.setFent_inputQ (k : Core) (f : Nat) (e : FEnt) : (k.setFent f e).inputQ = k.inputQ := rfl
@[simp] theorem Core.setFent_niQ (k : Core) (f : Nat) (e : FEnt) : (k.setFent f e).niQ = k.niQ := rfl
@[simp] theorem Core.setFent_ni (k : Core) (f : Nat) (e : FEnt) : (k.setFent f e).ni = k.ni := rfl
@[simp] theorem Core.setFent_outst (k : Core) (f : Nat) (e : FEnt) : (k.setFent f e).outst = k.outst := rfl
@[simp] theorem Core.setFent_jobs (k : Core) (f : Nat) (e : FEnt) : (k.setFent f e).jobs = k.jobs := rfl
@[simp] theorem Core.setFent_acts (k : Core) (f : Nat) (e : FEnt) : (k.setFent f e).acts = k.acts := rfl
@[simp] theorem Core.setFent_commits (k : Core) (f : Nat) (e : FEnt) : (k.setFent f e).commits = k.commits := rfl
@[simp] theorem Core.setFent_timers (k : Core) (f : Nat) (e : FEnt) : (k.setFent f e).timers = k.timers := rfl
@[simp] theorem Core.setFent_watches (k : Core) (f : Nat) (e : FEnt) : (k.setFent f e).watches = k.watches := rfl
@[simp] theorem Core.setFent_cviewArms (k : Core) (f : Nat) (e : FEnt) : (k.setFent f e).cviewArms = k.cviewArms := rfl
@[simp] theorem Core.setFent_mailbox (k : Core) (f : Nat) (e : FEnt) : (k.setFent f e).mailbox = k.mailbox := rfl
@[simp] theorem Core.setFent_starvw (k : Core) (f : Nat) (e : FEnt) : (k.setFent f e).starvw = k.starvw := rfl
@[simp] theorem Core.setFent_wdog (k : Core) (f : Nat) (e : FEnt) : (k.setFent f e).wdog = k.wdog := rfl
@[simp] theorem Core.setFent_l1mode (k : Core) (f : Nat) (e : FEnt) : (k.setFent f e).l1mode = k.l1mode := rfl
@[simp] theorem Core.setFent_tvec (k : Core) (f : Nat) (e : FEnt) : (k.setFent f e).tvec = k.tvec := rfl
@[simp] theorem Core.setFent_spillBase (k : Core) (f : Nat) (e : FEnt) : (k.setFent f e).spillBase = k.spillBase := rfl
@[simp] theorem Core.setFent_ftidx (k : Core) (f : Nat) (e : FEnt) : (k.setFent f e).ftidx = k.ftidx := rfl
@[simp] theorem Core.setFent_l1 (k : Core) (f : Nat) (e : FEnt) : (k.setFent f e).l1 = k.l1 := rfl
@[simp] theorem Core.setFent_rbOwner (k : Core) (f : Nat) (e : FEnt) : (k.setFent f e).rbOwner = k.rbOwner := rfl
@[simp] theorem Core.setFent_rb (k : Core) (f : Nat) (e : FEnt) : (k.setFent f e).rb = k.rb := rfl
@[simp] theorem Core.setFent_misses (k : Core) (f : Nat) (e : FEnt) : (k.setFent f e).misses = k.misses := rfl
@[simp] theorem Core.setFent_walkFaults (k : Core) (f : Nat) (e : FEnt) : (k.setFent f e).walkFaults = k.walkFaults := rfl
@[simp] theorem Core.setFent_regionQ (k : Core) (f : Nat) (e : FEnt) : (k.setFent f e).regionQ = k.regionQ := rfl
@[simp] theorem Core.setFent_lane (k : Core) (f : Nat) (e : FEnt) : (k.setFent f e).lane = k.lane := rfl
@[simp] theorem Core.setFent_engLane (k : Core) (f : Nat) (e : FEnt) : (k.setFent f e).engLane = k.engLane := rfl
@[simp] theorem Core.setFent_results (k : Core) (f : Nat) (e : FEnt) : (k.setFent f e).results = k.results := rfl
@[simp] theorem Core.setFent_cextQ (k : Core) (f : Nat) (e : FEnt) : (k.setFent f e).cextQ = k.cextQ := rfl
@[simp] theorem Core.setFent_ccount (k : Core) (f : Nat) (e : FEnt) : (k.setFent f e).ccount = k.ccount := rfl
@[simp] theorem Core.setFent_evArms (k : Core) (f : Nat) (e : FEnt) : (k.setFent f e).evArms = k.evArms := rfl
@[simp] theorem Core.setFent_mseq (k : Core) (f : Nat) (e : FEnt) : (k.setFent f e).mseq = k.mseq := rfl
@[simp] theorem Core.setFent_utlb (k : Core) (f : Nat) (e : FEnt) : (k.setFent f e).utlb = k.utlb := rfl

/-! `Core.setAslot`. -/

@[simp] theorem Core.setAslot_ctxs (k : Core) (i : Nat) (a : ASlot) : (k.setAslot i a).ctxs = k.ctxs := rfl
@[simp] theorem Core.setAslot_fsram (k : Core) (i : Nat) (a : ASlot) : (k.setAslot i a).fsram = k.fsram := rfl
@[simp] theorem Core.setAslot_fpoison (k : Core) (i : Nat) (a : ASlot) : (k.setAslot i a).fpoison = k.fpoison := rfl
@[simp] theorem Core.setAslot_fbad (k : Core) (i : Nat) (a : ASlot) : (k.setAslot i a).fbad = k.fbad := rfl
@[simp] theorem Core.setAslot_pbad (k : Core) (i : Nat) (a : ASlot) : (k.setAslot i a).pbad = k.pbad := rfl
@[simp] theorem Core.setAslot_l1bad (k : Core) (i : Nat) (a : ASlot) : (k.setAslot i a).l1bad = k.l1bad := rfl
@[simp] theorem Core.setAslot_vmism (k : Core) (i : Nat) (a : ASlot) : (k.setAslot i a).vmism = k.vmism := rfl
@[simp] theorem Core.setAslot_ftab (k : Core) (i : Nat) (a : ASlot) : (k.setAslot i a).ftab = k.ftab := rfl
@[simp] theorem Core.setAslot_tasks (k : Core) (i : Nat) (a : ASlot) : (k.setAslot i a).tasks = k.tasks := rfl
@[simp] theorem Core.setAslot_plates (k : Core) (i : Nat) (a : ASlot) : (k.setAslot i a).plates = k.plates := rfl
@[simp] theorem Core.setAslot_sched (k : Core) (i : Nat) (a : ASlot) : (k.setAslot i a).sched = k.sched := rfl
@[simp] theorem Core.setAslot_rounds (k : Core) (i : Nat) (a : ASlot) : (k.setAslot i a).rounds = k.rounds := rfl
@[simp] theorem Core.setAslot_ready (k : Core) (i : Nat) (a : ASlot) : (k.setAslot i a).ready = k.ready := rfl
@[simp] theorem Core.setAslot_portQ (k : Core) (i : Nat) (a : ASlot) : (k.setAslot i a).portQ = k.portQ := rfl
@[simp] theorem Core.setAslot_spillQ (k : Core) (i : Nat) (a : ASlot) : (k.setAslot i a).spillQ = k.spillQ := rfl
@[simp] theorem Core.setAslot_inputQ (k : Core) (i : Nat) (a : ASlot) : (k.setAslot i a).inputQ = k.inputQ := rfl
@[simp] theorem Core.setAslot_niQ (k : Core) (i : Nat) (a : ASlot) : (k.setAslot i a).niQ = k.niQ := rfl
@[simp] theorem Core.setAslot_ni (k : Core) (i : Nat) (a : ASlot) : (k.setAslot i a).ni = k.ni := rfl
@[simp] theorem Core.setAslot_outst (k : Core) (i : Nat) (a : ASlot) : (k.setAslot i a).outst = k.outst := rfl
@[simp] theorem Core.setAslot_jobs (k : Core) (i : Nat) (a : ASlot) : (k.setAslot i a).jobs = k.jobs := rfl
@[simp] theorem Core.setAslot_acts (k : Core) (i : Nat) (a : ASlot) : (k.setAslot i a).acts = k.acts := rfl
@[simp] theorem Core.setAslot_commits (k : Core) (i : Nat) (a : ASlot) : (k.setAslot i a).commits = k.commits := rfl
@[simp] theorem Core.setAslot_timers (k : Core) (i : Nat) (a : ASlot) : (k.setAslot i a).timers = k.timers := rfl
@[simp] theorem Core.setAslot_watches (k : Core) (i : Nat) (a : ASlot) : (k.setAslot i a).watches = k.watches := rfl
@[simp] theorem Core.setAslot_cviewArms (k : Core) (i : Nat) (a : ASlot) : (k.setAslot i a).cviewArms = k.cviewArms := rfl
@[simp] theorem Core.setAslot_mailbox (k : Core) (i : Nat) (a : ASlot) : (k.setAslot i a).mailbox = k.mailbox := rfl
@[simp] theorem Core.setAslot_starvw (k : Core) (i : Nat) (a : ASlot) : (k.setAslot i a).starvw = k.starvw := rfl
@[simp] theorem Core.setAslot_wdog (k : Core) (i : Nat) (a : ASlot) : (k.setAslot i a).wdog = k.wdog := rfl
@[simp] theorem Core.setAslot_l1mode (k : Core) (i : Nat) (a : ASlot) : (k.setAslot i a).l1mode = k.l1mode := rfl
@[simp] theorem Core.setAslot_tvec (k : Core) (i : Nat) (a : ASlot) : (k.setAslot i a).tvec = k.tvec := rfl
@[simp] theorem Core.setAslot_spillBase (k : Core) (i : Nat) (a : ASlot) : (k.setAslot i a).spillBase = k.spillBase := rfl
@[simp] theorem Core.setAslot_ftidx (k : Core) (i : Nat) (a : ASlot) : (k.setAslot i a).ftidx = k.ftidx := rfl
@[simp] theorem Core.setAslot_l1 (k : Core) (i : Nat) (a : ASlot) : (k.setAslot i a).l1 = k.l1 := rfl
@[simp] theorem Core.setAslot_rbOwner (k : Core) (i : Nat) (a : ASlot) : (k.setAslot i a).rbOwner = k.rbOwner := rfl
@[simp] theorem Core.setAslot_rb (k : Core) (i : Nat) (a : ASlot) : (k.setAslot i a).rb = k.rb := rfl
@[simp] theorem Core.setAslot_misses (k : Core) (i : Nat) (a : ASlot) : (k.setAslot i a).misses = k.misses := rfl
@[simp] theorem Core.setAslot_walkFaults (k : Core) (i : Nat) (a : ASlot) : (k.setAslot i a).walkFaults = k.walkFaults := rfl
@[simp] theorem Core.setAslot_regionQ (k : Core) (i : Nat) (a : ASlot) : (k.setAslot i a).regionQ = k.regionQ := rfl
@[simp] theorem Core.setAslot_lane (k : Core) (i : Nat) (a : ASlot) : (k.setAslot i a).lane = k.lane := rfl
@[simp] theorem Core.setAslot_engLane (k : Core) (i : Nat) (a : ASlot) : (k.setAslot i a).engLane = k.engLane := rfl
@[simp] theorem Core.setAslot_results (k : Core) (i : Nat) (a : ASlot) : (k.setAslot i a).results = k.results := rfl
@[simp] theorem Core.setAslot_cextQ (k : Core) (i : Nat) (a : ASlot) : (k.setAslot i a).cextQ = k.cextQ := rfl
@[simp] theorem Core.setAslot_ccount (k : Core) (i : Nat) (a : ASlot) : (k.setAslot i a).ccount = k.ccount := rfl
@[simp] theorem Core.setAslot_evArms (k : Core) (i : Nat) (a : ASlot) : (k.setAslot i a).evArms = k.evArms := rfl
@[simp] theorem Core.setAslot_mseq (k : Core) (i : Nat) (a : ASlot) : (k.setAslot i a).mseq = k.mseq := rfl
@[simp] theorem Core.setAslot_utlb (k : Core) (i : Nat) (a : ASlot) : (k.setAslot i a).utlb = k.utlb := rfl

/-! `Core.setPlate`. -/

@[simp] theorem Core.setPlate_ctxs (k : Core) (i : Nat) (p : Plate) : (k.setPlate i p).ctxs = k.ctxs := rfl
@[simp] theorem Core.setPlate_fsram (k : Core) (i : Nat) (p : Plate) : (k.setPlate i p).fsram = k.fsram := rfl
@[simp] theorem Core.setPlate_fpoison (k : Core) (i : Nat) (p : Plate) : (k.setPlate i p).fpoison = k.fpoison := rfl
@[simp] theorem Core.setPlate_fbad (k : Core) (i : Nat) (p : Plate) : (k.setPlate i p).fbad = k.fbad := rfl
@[simp] theorem Core.setPlate_pbad (k : Core) (i : Nat) (p : Plate) : (k.setPlate i p).pbad = k.pbad := rfl
@[simp] theorem Core.setPlate_l1bad (k : Core) (i : Nat) (p : Plate) : (k.setPlate i p).l1bad = k.l1bad := rfl
@[simp] theorem Core.setPlate_vmism (k : Core) (i : Nat) (p : Plate) : (k.setPlate i p).vmism = k.vmism := rfl
@[simp] theorem Core.setPlate_ftab (k : Core) (i : Nat) (p : Plate) : (k.setPlate i p).ftab = k.ftab := rfl
@[simp] theorem Core.setPlate_slots (k : Core) (i : Nat) (p : Plate) : (k.setPlate i p).slots = k.slots := rfl
@[simp] theorem Core.setPlate_tasks (k : Core) (i : Nat) (p : Plate) : (k.setPlate i p).tasks = k.tasks := rfl
@[simp] theorem Core.setPlate_sched (k : Core) (i : Nat) (p : Plate) : (k.setPlate i p).sched = k.sched := rfl
@[simp] theorem Core.setPlate_rounds (k : Core) (i : Nat) (p : Plate) : (k.setPlate i p).rounds = k.rounds := rfl
@[simp] theorem Core.setPlate_ready (k : Core) (i : Nat) (p : Plate) : (k.setPlate i p).ready = k.ready := rfl
@[simp] theorem Core.setPlate_portQ (k : Core) (i : Nat) (p : Plate) : (k.setPlate i p).portQ = k.portQ := rfl
@[simp] theorem Core.setPlate_spillQ (k : Core) (i : Nat) (p : Plate) : (k.setPlate i p).spillQ = k.spillQ := rfl
@[simp] theorem Core.setPlate_inputQ (k : Core) (i : Nat) (p : Plate) : (k.setPlate i p).inputQ = k.inputQ := rfl
@[simp] theorem Core.setPlate_niQ (k : Core) (i : Nat) (p : Plate) : (k.setPlate i p).niQ = k.niQ := rfl
@[simp] theorem Core.setPlate_ni (k : Core) (i : Nat) (p : Plate) : (k.setPlate i p).ni = k.ni := rfl
@[simp] theorem Core.setPlate_outst (k : Core) (i : Nat) (p : Plate) : (k.setPlate i p).outst = k.outst := rfl
@[simp] theorem Core.setPlate_jobs (k : Core) (i : Nat) (p : Plate) : (k.setPlate i p).jobs = k.jobs := rfl
@[simp] theorem Core.setPlate_acts (k : Core) (i : Nat) (p : Plate) : (k.setPlate i p).acts = k.acts := rfl
@[simp] theorem Core.setPlate_commits (k : Core) (i : Nat) (p : Plate) : (k.setPlate i p).commits = k.commits := rfl
@[simp] theorem Core.setPlate_timers (k : Core) (i : Nat) (p : Plate) : (k.setPlate i p).timers = k.timers := rfl
@[simp] theorem Core.setPlate_watches (k : Core) (i : Nat) (p : Plate) : (k.setPlate i p).watches = k.watches := rfl
@[simp] theorem Core.setPlate_cviewArms (k : Core) (i : Nat) (p : Plate) : (k.setPlate i p).cviewArms = k.cviewArms := rfl
@[simp] theorem Core.setPlate_mailbox (k : Core) (i : Nat) (p : Plate) : (k.setPlate i p).mailbox = k.mailbox := rfl
@[simp] theorem Core.setPlate_starvw (k : Core) (i : Nat) (p : Plate) : (k.setPlate i p).starvw = k.starvw := rfl
@[simp] theorem Core.setPlate_wdog (k : Core) (i : Nat) (p : Plate) : (k.setPlate i p).wdog = k.wdog := rfl
@[simp] theorem Core.setPlate_l1mode (k : Core) (i : Nat) (p : Plate) : (k.setPlate i p).l1mode = k.l1mode := rfl
@[simp] theorem Core.setPlate_tvec (k : Core) (i : Nat) (p : Plate) : (k.setPlate i p).tvec = k.tvec := rfl
@[simp] theorem Core.setPlate_spillBase (k : Core) (i : Nat) (p : Plate) : (k.setPlate i p).spillBase = k.spillBase := rfl
@[simp] theorem Core.setPlate_ftidx (k : Core) (i : Nat) (p : Plate) : (k.setPlate i p).ftidx = k.ftidx := rfl
@[simp] theorem Core.setPlate_l1 (k : Core) (i : Nat) (p : Plate) : (k.setPlate i p).l1 = k.l1 := rfl
@[simp] theorem Core.setPlate_rbOwner (k : Core) (i : Nat) (p : Plate) : (k.setPlate i p).rbOwner = k.rbOwner := rfl
@[simp] theorem Core.setPlate_rb (k : Core) (i : Nat) (p : Plate) : (k.setPlate i p).rb = k.rb := rfl
@[simp] theorem Core.setPlate_misses (k : Core) (i : Nat) (p : Plate) : (k.setPlate i p).misses = k.misses := rfl
@[simp] theorem Core.setPlate_walkFaults (k : Core) (i : Nat) (p : Plate) : (k.setPlate i p).walkFaults = k.walkFaults := rfl
@[simp] theorem Core.setPlate_regionQ (k : Core) (i : Nat) (p : Plate) : (k.setPlate i p).regionQ = k.regionQ := rfl
@[simp] theorem Core.setPlate_lane (k : Core) (i : Nat) (p : Plate) : (k.setPlate i p).lane = k.lane := rfl
@[simp] theorem Core.setPlate_engLane (k : Core) (i : Nat) (p : Plate) : (k.setPlate i p).engLane = k.engLane := rfl
@[simp] theorem Core.setPlate_results (k : Core) (i : Nat) (p : Plate) : (k.setPlate i p).results = k.results := rfl
@[simp] theorem Core.setPlate_cextQ (k : Core) (i : Nat) (p : Plate) : (k.setPlate i p).cextQ = k.cextQ := rfl
@[simp] theorem Core.setPlate_ccount (k : Core) (i : Nat) (p : Plate) : (k.setPlate i p).ccount = k.ccount := rfl
@[simp] theorem Core.setPlate_evArms (k : Core) (i : Nat) (p : Plate) : (k.setPlate i p).evArms = k.evArms := rfl
@[simp] theorem Core.setPlate_mseq (k : Core) (i : Nat) (p : Plate) : (k.setPlate i p).mseq = k.mseq := rfl
@[simp] theorem Core.setPlate_utlb (k : Core) (i : Nat) (p : Plate) : (k.setPlate i p).utlb = k.utlb := rfl

/-! `Cluster.setHart`. -/

@[simp] theorem Cluster.setHart_spad (k : Cluster) (h : Nat) (t : Hart) : (k.setHart h t).spad = k.spad := rfl
@[simp] theorem Cluster.setHart_spoison (k : Cluster) (h : Nat) (t : Hart) : (k.setHart h t).spoison = k.spoison := rfl
@[simp] theorem Cluster.setHart_sbad (k : Cluster) (h : Nat) (t : Hart) : (k.setHart h t).sbad = k.sbad := rfl
@[simp] theorem Cluster.setHart_pmism (k : Cluster) (h : Nat) (t : Hart) : (k.setHart h t).pmism = k.pmism := rfl
@[simp] theorem Cluster.setHart_past (k : Cluster) (h : Nat) (t : Hart) : (k.setHart h t).past = k.past := rfl
@[simp] theorem Cluster.setHart_wo (k : Cluster) (h : Nat) (t : Hart) : (k.setHart h t).wo = k.wo := rfl
@[simp] theorem Cluster.setHart_readers (k : Cluster) (h : Nat) (t : Hart) : (k.setHart h t).readers = k.readers := rfl
@[simp] theorem Cluster.setHart_loaded (k : Cluster) (h : Nat) (t : Hart) : (k.setHart h t).loaded = k.loaded := rfl
@[simp] theorem Cluster.setHart_gen (k : Cluster) (h : Nat) (t : Hart) : (k.setHart h t).gen = k.gen := rfl
@[simp] theorem Cluster.setHart_win (k : Cluster) (h : Nat) (t : Hart) : (k.setHart h t).win = k.win := rfl
@[simp] theorem Cluster.setHart_region (k : Cluster) (h : Nat) (t : Hart) : (k.setHart h t).region = k.region := rfl
@[simp] theorem Cluster.setHart_hashkey (k : Cluster) (h : Nat) (t : Hart) : (k.setHart h t).hashkey = k.hashkey := rfl
@[simp] theorem Cluster.setHart_qwt (k : Cluster) (h : Nat) (t : Hart) : (k.setHart h t).qwt = k.qwt := rfl
@[simp] theorem Cluster.setHart_tbk (k : Cluster) (h : Nat) (t : Hart) : (k.setHart h t).tbk = k.tbk := rfl
@[simp] theorem Cluster.setHart_bucket (k : Cluster) (h : Nat) (t : Hart) : (k.setHart h t).bucket = k.bucket := rfl
@[simp] theorem Cluster.setHart_ptroot (k : Cluster) (h : Nat) (t : Hart) : (k.setHart h t).ptroot = k.ptroot := rfl
@[simp] theorem Cluster.setHart_esp (k : Cluster) (h : Nat) (t : Hart) : (k.setHart h t).esp = k.esp := rfl
@[simp] theorem Cluster.setHart_vdrop (k : Cluster) (h : Nat) (t : Hart) : (k.setHart h t).vdrop = k.vdrop := rfl
@[simp] theorem Cluster.setHart_gdrop (k : Cluster) (h : Nat) (t : Hart) : (k.setHart h t).gdrop = k.gdrop := rfl
@[simp] theorem Cluster.setHart_galley (k : Cluster) (h : Nat) (t : Hart) : (k.setHart h t).galley = k.galley := rfl
@[simp] theorem Cluster.setHart_held (k : Cluster) (h : Nat) (t : Hart) : (k.setHart h t).held = k.held := rfl
@[simp] theorem Cluster.setHart_evq (k : Cluster) (h : Nat) (t : Hart) : (k.setHart h t).evq = k.evq := rfl
@[simp] theorem Cluster.setHart_colq (k : Cluster) (h : Nat) (t : Hart) : (k.setHart h t).colq = k.colq := rfl
@[simp] theorem Cluster.setHart_comb (k : Cluster) (h : Nat) (t : Hart) : (k.setHart h t).comb = k.comb := rfl
@[simp] theorem Cluster.setHart_cbase (k : Cluster) (h : Nat) (t : Hart) : (k.setHart h t).cbase = k.cbase := rfl
@[simp] theorem Cluster.setHart_guard (k : Cluster) (h : Nat) (t : Hart) : (k.setHart h t).guard = k.guard := rfl
@[simp] theorem Cluster.setHart_glog (k : Cluster) (h : Nat) (t : Hart) : (k.setHart h t).glog = k.glog := rfl
@[simp] theorem Cluster.setHart_runs (k : Cluster) (h : Nat) (t : Hart) : (k.setHart h t).runs = k.runs := rfl
@[simp] theorem Cluster.setHart_ug (k : Cluster) (h : Nat) (t : Hart) : (k.setHart h t).ug = k.ug := rfl
@[simp] theorem Cluster.setHart_remap (k : Cluster) (h : Nat) (t : Hart) : (k.setHart h t).remap = k.remap := rfl
@[simp] theorem Cluster.setHart_seidx (k : Cluster) (h : Nat) (t : Hart) : (k.setHart h t).seidx = k.seidx := rfl
@[simp] theorem Cluster.setHart_sethr (k : Cluster) (h : Nat) (t : Hart) : (k.setHart h t).sethr = k.sethr := rfl
@[simp] theorem Cluster.setHart_suspects (k : Cluster) (h : Nat) (t : Hart) : (k.setHart h t).suspects = k.suspects := rfl
@[simp] theorem Cluster.setHart_stopped (k : Cluster) (h : Nat) (t : Hart) : (k.setHart h t).stopped = k.stopped := rfl
@[simp] theorem Cluster.setHart_stopAt (k : Cluster) (h : Nat) (t : Hart) : (k.setHart h t).stopAt = k.stopAt := rfl
@[simp] theorem Cluster.setHart_tlb (k : Cluster) (h : Nat) (t : Hart) : (k.setHart h t).tlb = k.tlb := rfl
@[simp] theorem Cluster.setHart_site (k : Cluster) (h : Nat) (t : Hart) : (k.setHart h t).site = k.site := rfl
@[simp] theorem Cluster.setHart_pieces (k : Cluster) (h : Nat) (t : Hart) : (k.setHart h t).pieces = k.pieces := rfl

/-! `Ctx.wv`. -/

@[simp] theorem Ctx.wv_g (k : Ctx) (n : Nat) (x : VReg) : (k.wv n x).g = k.g := rfl
@[simp] theorem Ctx.wv_p (k : Ctx) (n : Nat) (x : VReg) : (k.wv n x).p = k.p := rfl
@[simp] theorem Ctx.wv_m (k : Ctx) (n : Nat) (x : VReg) : (k.wv n x).m = k.m := rfl
@[simp] theorem Ctx.wv_links (k : Ctx) (n : Nat) (x : VReg) : (k.wv n x).links = k.links := rfl
@[simp] theorem Ctx.wv_loops (k : Ctx) (n : Nat) (x : VReg) : (k.wv n x).loops = k.loops := rfl
@[simp] theorem Ctx.wv_out (k : Ctx) (n : Nat) (x : VReg) : (k.wv n x).out = k.out := rfl
@[simp] theorem Ctx.wv_fw (k : Ctx) (n : Nat) (x : VReg) : (k.wv n x).fw = k.fw := rfl
@[simp] theorem Ctx.wv_marks (k : Ctx) (n : Nat) (x : VReg) : (k.wv n x).marks = k.marks := rfl
@[simp] theorem Ctx.wv_plate (k : Ctx) (n : Nat) (x : VReg) : (k.wv n x).plate = k.plate := rfl
@[simp] theorem Ctx.wv_off (k : Ctx) (n : Nat) (x : VReg) : (k.wv n x).off = k.off := rfl
@[simp] theorem Ctx.wv_phase (k : Ctx) (n : Nat) (x : VReg) : (k.wv n x).phase = k.phase := rfl
@[simp] theorem Ctx.wv_act (k : Ctx) (n : Nat) (x : VReg) : (k.wv n x).act = k.act := rfl
@[simp] theorem Ctx.wv_priv (k : Ctx) (n : Nat) (x : VReg) : (k.wv n x).priv = k.priv := rfl
@[simp] theorem Ctx.wv_gen (k : Ctx) (n : Nat) (x : VReg) : (k.wv n x).gen = k.gen := rfl
@[simp] theorem Ctx.wv_cause (k : Ctx) (n : Nat) (x : VReg) : (k.wv n x).cause = k.cause := rfl
@[simp] theorem Ctx.wv_tval (k : Ctx) (n : Nat) (x : VReg) : (k.wv n x).tval = k.tval := rfl
@[simp] theorem Ctx.wv_epc (k : Ctx) (n : Nat) (x : VReg) : (k.wv n x).epc = k.epc := rfl
@[simp] theorem Ctx.wv_geom (k : Ctx) (n : Nat) (x : VReg) : (k.wv n x).geom = k.geom := rfl
@[simp] theorem Ctx.wv_fpctl (k : Ctx) (n : Nat) (x : VReg) : (k.wv n x).fpctl = k.fpctl := rfl
@[simp] theorem Ctx.wv_trap (k : Ctx) (n : Nat) (x : VReg) : (k.wv n x).trap = k.trap := rfl
@[simp] theorem Ctx.wv_arms (k : Ctx) (n : Nat) (x : VReg) : (k.wv n x).arms = k.arms := rfl
@[simp] theorem Ctx.wv_taken (k : Ctx) (n : Nat) (x : VReg) : (k.wv n x).taken = k.taken := rfl
@[simp] theorem Ctx.wv_bad (k : Ctx) (n : Nat) (x : VReg) : (k.wv n x).bad = k.bad := rfl
@[simp] theorem Ctx.wv_ran (k : Ctx) (n : Nat) (x : VReg) : (k.wv n x).ran = k.ran := rfl
@[simp] theorem Ctx.wv_issued (k : Ctx) (n : Nat) (x : VReg) : (k.wv n x).issued = k.issued := rfl
@[simp] theorem Ctx.wv_job (k : Ctx) (n : Nat) (x : VReg) : (k.wv n x).job = k.job := rfl
@[simp] theorem Ctx.wv_after (k : Ctx) (n : Nat) (x : VReg) : (k.wv n x).after = k.after := rfl
@[simp] theorem Ctx.wv_alone (k : Ctx) (n : Nat) (x : VReg) : (k.wv n x).alone = k.alone := rfl
@[simp] theorem Ctx.wv_part (k : Ctx) (n : Nat) (x : VReg) : (k.wv n x).part = k.part := rfl

/-! `Ctx.wm`. -/

@[simp] theorem Ctx.wm_g (k : Ctx) (n : Nat) (x : MReg) : (k.wm n x).g = k.g := rfl
@[simp] theorem Ctx.wm_v (k : Ctx) (n : Nat) (x : MReg) : (k.wm n x).v = k.v := rfl
@[simp] theorem Ctx.wm_p (k : Ctx) (n : Nat) (x : MReg) : (k.wm n x).p = k.p := rfl
@[simp] theorem Ctx.wm_links (k : Ctx) (n : Nat) (x : MReg) : (k.wm n x).links = k.links := rfl
@[simp] theorem Ctx.wm_loops (k : Ctx) (n : Nat) (x : MReg) : (k.wm n x).loops = k.loops := rfl
@[simp] theorem Ctx.wm_out (k : Ctx) (n : Nat) (x : MReg) : (k.wm n x).out = k.out := rfl
@[simp] theorem Ctx.wm_fw (k : Ctx) (n : Nat) (x : MReg) : (k.wm n x).fw = k.fw := rfl
@[simp] theorem Ctx.wm_marks (k : Ctx) (n : Nat) (x : MReg) : (k.wm n x).marks = k.marks := rfl
@[simp] theorem Ctx.wm_plate (k : Ctx) (n : Nat) (x : MReg) : (k.wm n x).plate = k.plate := rfl
@[simp] theorem Ctx.wm_off (k : Ctx) (n : Nat) (x : MReg) : (k.wm n x).off = k.off := rfl
@[simp] theorem Ctx.wm_phase (k : Ctx) (n : Nat) (x : MReg) : (k.wm n x).phase = k.phase := rfl
@[simp] theorem Ctx.wm_act (k : Ctx) (n : Nat) (x : MReg) : (k.wm n x).act = k.act := rfl
@[simp] theorem Ctx.wm_priv (k : Ctx) (n : Nat) (x : MReg) : (k.wm n x).priv = k.priv := rfl
@[simp] theorem Ctx.wm_gen (k : Ctx) (n : Nat) (x : MReg) : (k.wm n x).gen = k.gen := rfl
@[simp] theorem Ctx.wm_cause (k : Ctx) (n : Nat) (x : MReg) : (k.wm n x).cause = k.cause := rfl
@[simp] theorem Ctx.wm_tval (k : Ctx) (n : Nat) (x : MReg) : (k.wm n x).tval = k.tval := rfl
@[simp] theorem Ctx.wm_epc (k : Ctx) (n : Nat) (x : MReg) : (k.wm n x).epc = k.epc := rfl
@[simp] theorem Ctx.wm_geom (k : Ctx) (n : Nat) (x : MReg) : (k.wm n x).geom = k.geom := rfl
@[simp] theorem Ctx.wm_fpctl (k : Ctx) (n : Nat) (x : MReg) : (k.wm n x).fpctl = k.fpctl := rfl
@[simp] theorem Ctx.wm_trap (k : Ctx) (n : Nat) (x : MReg) : (k.wm n x).trap = k.trap := rfl
@[simp] theorem Ctx.wm_arms (k : Ctx) (n : Nat) (x : MReg) : (k.wm n x).arms = k.arms := rfl
@[simp] theorem Ctx.wm_taken (k : Ctx) (n : Nat) (x : MReg) : (k.wm n x).taken = k.taken := rfl
@[simp] theorem Ctx.wm_bad (k : Ctx) (n : Nat) (x : MReg) : (k.wm n x).bad = k.bad := rfl
@[simp] theorem Ctx.wm_ran (k : Ctx) (n : Nat) (x : MReg) : (k.wm n x).ran = k.ran := rfl
@[simp] theorem Ctx.wm_issued (k : Ctx) (n : Nat) (x : MReg) : (k.wm n x).issued = k.issued := rfl
@[simp] theorem Ctx.wm_job (k : Ctx) (n : Nat) (x : MReg) : (k.wm n x).job = k.job := rfl
@[simp] theorem Ctx.wm_after (k : Ctx) (n : Nat) (x : MReg) : (k.wm n x).after = k.after := rfl
@[simp] theorem Ctx.wm_alone (k : Ctx) (n : Nat) (x : MReg) : (k.wm n x).alone = k.alone := rfl
@[simp] theorem Ctx.wm_part (k : Ctx) (n : Nat) (x : MReg) : (k.wm n x).part = k.part := rfl

/-! `Ctx.wg` and `Ctx.wp` discard a write to register 0. -/

@[simp] theorem Ctx.wg_v (k : Ctx) (n : Nat) (v : Word) : (k.wg n v).v = k.v := by unfold Ctx.wg; split <;> rfl
@[simp] theorem Ctx.wg_p (k : Ctx) (n : Nat) (v : Word) : (k.wg n v).p = k.p := by unfold Ctx.wg; split <;> rfl
@[simp] theorem Ctx.wg_m (k : Ctx) (n : Nat) (v : Word) : (k.wg n v).m = k.m := by unfold Ctx.wg; split <;> rfl
@[simp] theorem Ctx.wg_links (k : Ctx) (n : Nat) (v : Word) : (k.wg n v).links = k.links := by unfold Ctx.wg; split <;> rfl
@[simp] theorem Ctx.wg_loops (k : Ctx) (n : Nat) (v : Word) : (k.wg n v).loops = k.loops := by unfold Ctx.wg; split <;> rfl
@[simp] theorem Ctx.wg_out (k : Ctx) (n : Nat) (v : Word) : (k.wg n v).out = k.out := by unfold Ctx.wg; split <;> rfl
@[simp] theorem Ctx.wg_fw (k : Ctx) (n : Nat) (v : Word) : (k.wg n v).fw = k.fw := by unfold Ctx.wg; split <;> rfl
@[simp] theorem Ctx.wg_marks (k : Ctx) (n : Nat) (v : Word) : (k.wg n v).marks = k.marks := by unfold Ctx.wg; split <;> rfl
@[simp] theorem Ctx.wg_plate (k : Ctx) (n : Nat) (v : Word) : (k.wg n v).plate = k.plate := by unfold Ctx.wg; split <;> rfl
@[simp] theorem Ctx.wg_off (k : Ctx) (n : Nat) (v : Word) : (k.wg n v).off = k.off := by unfold Ctx.wg; split <;> rfl
@[simp] theorem Ctx.wg_phase (k : Ctx) (n : Nat) (v : Word) : (k.wg n v).phase = k.phase := by unfold Ctx.wg; split <;> rfl
@[simp] theorem Ctx.wg_act (k : Ctx) (n : Nat) (v : Word) : (k.wg n v).act = k.act := by unfold Ctx.wg; split <;> rfl
@[simp] theorem Ctx.wg_priv (k : Ctx) (n : Nat) (v : Word) : (k.wg n v).priv = k.priv := by unfold Ctx.wg; split <;> rfl
@[simp] theorem Ctx.wg_gen (k : Ctx) (n : Nat) (v : Word) : (k.wg n v).gen = k.gen := by unfold Ctx.wg; split <;> rfl
@[simp] theorem Ctx.wg_cause (k : Ctx) (n : Nat) (v : Word) : (k.wg n v).cause = k.cause := by unfold Ctx.wg; split <;> rfl
@[simp] theorem Ctx.wg_tval (k : Ctx) (n : Nat) (v : Word) : (k.wg n v).tval = k.tval := by unfold Ctx.wg; split <;> rfl
@[simp] theorem Ctx.wg_epc (k : Ctx) (n : Nat) (v : Word) : (k.wg n v).epc = k.epc := by unfold Ctx.wg; split <;> rfl
@[simp] theorem Ctx.wg_geom (k : Ctx) (n : Nat) (v : Word) : (k.wg n v).geom = k.geom := by unfold Ctx.wg; split <;> rfl
@[simp] theorem Ctx.wg_fpctl (k : Ctx) (n : Nat) (v : Word) : (k.wg n v).fpctl = k.fpctl := by unfold Ctx.wg; split <;> rfl
@[simp] theorem Ctx.wg_trap (k : Ctx) (n : Nat) (v : Word) : (k.wg n v).trap = k.trap := by unfold Ctx.wg; split <;> rfl
@[simp] theorem Ctx.wg_arms (k : Ctx) (n : Nat) (v : Word) : (k.wg n v).arms = k.arms := by unfold Ctx.wg; split <;> rfl
@[simp] theorem Ctx.wg_taken (k : Ctx) (n : Nat) (v : Word) : (k.wg n v).taken = k.taken := by unfold Ctx.wg; split <;> rfl
@[simp] theorem Ctx.wg_bad (k : Ctx) (n : Nat) (v : Word) : (k.wg n v).bad = k.bad := by unfold Ctx.wg; split <;> rfl
@[simp] theorem Ctx.wg_ran (k : Ctx) (n : Nat) (v : Word) : (k.wg n v).ran = k.ran := by unfold Ctx.wg; split <;> rfl
@[simp] theorem Ctx.wg_issued (k : Ctx) (n : Nat) (v : Word) : (k.wg n v).issued = k.issued := by unfold Ctx.wg; split <;> rfl
@[simp] theorem Ctx.wg_job (k : Ctx) (n : Nat) (v : Word) : (k.wg n v).job = k.job := by unfold Ctx.wg; split <;> rfl
@[simp] theorem Ctx.wg_after (k : Ctx) (n : Nat) (v : Word) : (k.wg n v).after = k.after := by unfold Ctx.wg; split <;> rfl
@[simp] theorem Ctx.wg_alone (k : Ctx) (n : Nat) (v : Word) : (k.wg n v).alone = k.alone := by unfold Ctx.wg; split <;> rfl
@[simp] theorem Ctx.wg_part (k : Ctx) (n : Nat) (v : Word) : (k.wg n v).part = k.part := by unfold Ctx.wg; split <;> rfl
@[simp] theorem Ctx.wp_g (k : Ctx) (n : Nat) (v : Bool) : (k.wp n v).g = k.g := by unfold Ctx.wp; split <;> rfl
@[simp] theorem Ctx.wp_v (k : Ctx) (n : Nat) (v : Bool) : (k.wp n v).v = k.v := by unfold Ctx.wp; split <;> rfl
@[simp] theorem Ctx.wp_m (k : Ctx) (n : Nat) (v : Bool) : (k.wp n v).m = k.m := by unfold Ctx.wp; split <;> rfl
@[simp] theorem Ctx.wp_links (k : Ctx) (n : Nat) (v : Bool) : (k.wp n v).links = k.links := by unfold Ctx.wp; split <;> rfl
@[simp] theorem Ctx.wp_loops (k : Ctx) (n : Nat) (v : Bool) : (k.wp n v).loops = k.loops := by unfold Ctx.wp; split <;> rfl
@[simp] theorem Ctx.wp_out (k : Ctx) (n : Nat) (v : Bool) : (k.wp n v).out = k.out := by unfold Ctx.wp; split <;> rfl
@[simp] theorem Ctx.wp_fw (k : Ctx) (n : Nat) (v : Bool) : (k.wp n v).fw = k.fw := by unfold Ctx.wp; split <;> rfl
@[simp] theorem Ctx.wp_marks (k : Ctx) (n : Nat) (v : Bool) : (k.wp n v).marks = k.marks := by unfold Ctx.wp; split <;> rfl
@[simp] theorem Ctx.wp_plate (k : Ctx) (n : Nat) (v : Bool) : (k.wp n v).plate = k.plate := by unfold Ctx.wp; split <;> rfl
@[simp] theorem Ctx.wp_off (k : Ctx) (n : Nat) (v : Bool) : (k.wp n v).off = k.off := by unfold Ctx.wp; split <;> rfl
@[simp] theorem Ctx.wp_phase (k : Ctx) (n : Nat) (v : Bool) : (k.wp n v).phase = k.phase := by unfold Ctx.wp; split <;> rfl
@[simp] theorem Ctx.wp_act (k : Ctx) (n : Nat) (v : Bool) : (k.wp n v).act = k.act := by unfold Ctx.wp; split <;> rfl
@[simp] theorem Ctx.wp_priv (k : Ctx) (n : Nat) (v : Bool) : (k.wp n v).priv = k.priv := by unfold Ctx.wp; split <;> rfl
@[simp] theorem Ctx.wp_gen (k : Ctx) (n : Nat) (v : Bool) : (k.wp n v).gen = k.gen := by unfold Ctx.wp; split <;> rfl
@[simp] theorem Ctx.wp_cause (k : Ctx) (n : Nat) (v : Bool) : (k.wp n v).cause = k.cause := by unfold Ctx.wp; split <;> rfl
@[simp] theorem Ctx.wp_tval (k : Ctx) (n : Nat) (v : Bool) : (k.wp n v).tval = k.tval := by unfold Ctx.wp; split <;> rfl
@[simp] theorem Ctx.wp_epc (k : Ctx) (n : Nat) (v : Bool) : (k.wp n v).epc = k.epc := by unfold Ctx.wp; split <;> rfl
@[simp] theorem Ctx.wp_geom (k : Ctx) (n : Nat) (v : Bool) : (k.wp n v).geom = k.geom := by unfold Ctx.wp; split <;> rfl
@[simp] theorem Ctx.wp_fpctl (k : Ctx) (n : Nat) (v : Bool) : (k.wp n v).fpctl = k.fpctl := by unfold Ctx.wp; split <;> rfl
@[simp] theorem Ctx.wp_trap (k : Ctx) (n : Nat) (v : Bool) : (k.wp n v).trap = k.trap := by unfold Ctx.wp; split <;> rfl
@[simp] theorem Ctx.wp_arms (k : Ctx) (n : Nat) (v : Bool) : (k.wp n v).arms = k.arms := by unfold Ctx.wp; split <;> rfl
@[simp] theorem Ctx.wp_taken (k : Ctx) (n : Nat) (v : Bool) : (k.wp n v).taken = k.taken := by unfold Ctx.wp; split <;> rfl
@[simp] theorem Ctx.wp_bad (k : Ctx) (n : Nat) (v : Bool) : (k.wp n v).bad = k.bad := by unfold Ctx.wp; split <;> rfl
@[simp] theorem Ctx.wp_ran (k : Ctx) (n : Nat) (v : Bool) : (k.wp n v).ran = k.ran := by unfold Ctx.wp; split <;> rfl
@[simp] theorem Ctx.wp_issued (k : Ctx) (n : Nat) (v : Bool) : (k.wp n v).issued = k.issued := by unfold Ctx.wp; split <;> rfl
@[simp] theorem Ctx.wp_job (k : Ctx) (n : Nat) (v : Bool) : (k.wp n v).job = k.job := by unfold Ctx.wp; split <;> rfl
@[simp] theorem Ctx.wp_after (k : Ctx) (n : Nat) (v : Bool) : (k.wp n v).after = k.after := by unfold Ctx.wp; split <;> rfl
@[simp] theorem Ctx.wp_alone (k : Ctx) (n : Nat) (v : Bool) : (k.wp n v).alone = k.alone := by unfold Ctx.wp; split <;> rfl
@[simp] theorem Ctx.wp_part (k : Ctx) (n : Nat) (v : Bool) : (k.wp n v).part = k.part := by unfold Ctx.wp; split <;> rfl

/-! Reading a part after its update. -/

@[simp] theorem State.core_setCore_same (s : State) (c : Nat) (k : Core) : (s.setCore c k).core c = k := by
  simp [State.core, State.setCore]
theorem State.core_setCore_other (s : State) {c d : Nat} (k : Core) (h : d ≠ c) : (s.setCore c k).core d = s.core d := by
  simp [State.core, State.setCore, SMap.get_put_other _ _ _ h]
@[simp] theorem State.cluster_setCore (s : State) (c d : Nat) (k : Core) : (s.setCore c k).cluster d = s.cluster d := rfl
@[simp] theorem State.die_setCore (s : State) (c d : Nat) (k : Core) : (s.setCore c k).die d = s.die d := rfl
@[simp] theorem State.cluster_setCluster_same (s : State) (c : Nat) (k : Cluster) : (s.setCluster c k).cluster c = k := by
  simp [State.cluster, State.setCluster]
theorem State.cluster_setCluster_other (s : State) {c d : Nat} (k : Cluster) (h : d ≠ c) :
    (s.setCluster c k).cluster d = s.cluster d := by
  simp [State.cluster, State.setCluster, SMap.get_put_other _ _ _ h]
@[simp] theorem State.core_setCluster (s : State) (c d : Nat) (k : Cluster) : (s.setCluster c k).core d = s.core d := rfl
@[simp] theorem State.die_setCluster (s : State) (c d : Nat) (k : Cluster) : (s.setCluster c k).die d = s.die d := rfl
@[simp] theorem State.die_setDie_same (s : State) (d : Nat) (k : Die) : (s.setDie d k).die d = k := by
  simp [State.die, State.setDie]
@[simp] theorem Core.ctx_setCtx_same (k : Core) (x : Nat) (c : Ctx) : (k.setCtx x c).ctx x = c := by
  simp [Core.ctx, Core.setCtx]
theorem Core.ctx_setCtx_other (k : Core) {x y : Nat} (c : Ctx) (h : y ≠ x) : (k.setCtx x c).ctx y = k.ctx y := by
  simp [Core.ctx, Core.setCtx, SMap.get_put_other _ _ _ h]
@[simp] theorem Core.fent_setFent_same (k : Core) (f : Nat) (e : FEnt) : (k.setFent f e).fent f = e := by
  simp [Core.fent, Core.setFent]
@[simp] theorem Core.aslot_setAslot_same (k : Core) (i : Nat) (a : ASlot) : (k.setAslot i a).aslot i = a := by
  simp [Core.aslot, Core.setAslot]
@[simp] theorem Core.plate_setPlate_same (k : Core) (i : Nat) (p : Plate) : (k.setPlate i p).plate i = p := by
  simp [Core.plate, Core.setPlate]
@[simp] theorem Core.plate_setCtx (k : Core) (x i : Nat) (c : Ctx) : (k.setCtx x c).plate i = k.plate i := rfl
@[simp] theorem Core.fent_setCtx (k : Core) (x i : Nat) (c : Ctx) : (k.setCtx x c).fent i = k.fent i := rfl
@[simp] theorem Core.aslot_setCtx (k : Core) (x i : Nat) (c : Ctx) : (k.setCtx x c).aslot i = k.aslot i := rfl
@[simp] theorem Core.ctx_setFent (k : Core) (f x : Nat) (e : FEnt) : (k.setFent f e).ctx x = k.ctx x := rfl
@[simp] theorem Cluster.hart_setHart_same (k : Cluster) (h : Nat) (t : Hart) : (k.setHart h t).hart h = t := by
  simp [Cluster.hart, Cluster.setHart]

/-! The executing context. -/

@[simp] theorem State.cur_setCx (s : State) (k : Ctx) : (s.setCx k).cur = s.cur := by
  unfold State.setCx; split <;> rfl
@[simp] theorem State.cx_setCx (s : State) (k : Ctx) : (s.setCx k).cx = k := by
  have h := s.cur_setCx k
  unfold State.cx
  rw [h]
  cases hc : s.cur with
  | ctx c x => simp [State.setCx, hc]
  | hart cl h => simp [State.setCx, hc]

@[simp] theorem State.setCx_dies (s : State) (k : Ctx) : (s.setCx k).dies = s.dies := by unfold State.setCx; split <;> rfl
@[simp] theorem State.setCx_hbm (s : State) (k : Ctx) : (s.setCx k).hbm = s.hbm := by unfold State.setCx; split <;> rfl
@[simp] theorem State.setCx_hpoison (s : State) (k : Ctx) : (s.setCx k).hpoison = s.hpoison := by unfold State.setCx; split <;> rfl
@[simp] theorem State.setCx_hbad (s : State) (k : Ctx) : (s.setCx k).hbad = s.hbad := by unfold State.setCx; split <;> rfl
@[simp] theorem State.setCx_hwo (s : State) (k : Ctx) : (s.setCx k).hwo = s.hwo := by unfold State.setCx; split <;> rfl
@[simp] theorem State.setCx_hreaders (s : State) (k : Ctx) : (s.setCx k).hreaders = s.hreaders := by unfold State.setCx; split <;> rfl
@[simp] theorem State.setCx_llc (s : State) (k : Ctx) : (s.setCx k).llc = s.llc := by unfold State.setCx; split <;> rfl
@[simp] theorem State.setCx_owner (s : State) (k : Ctx) : (s.setCx k).owner = s.owner := by unfold State.setCx; split <;> rfl
@[simp] theorem State.setCx_time (s : State) (k : Ctx) : (s.setCx k).time = s.time := by unfold State.setCx; split <;> rfl
@[simp] theorem State.setCx_opnow (s : State) (k : Ctx) : (s.setCx k).opnow = s.opnow := by unfold State.setCx; split <;> rfl
@[simp] theorem State.setCx_opclock (s : State) (k : Ctx) : (s.setCx k).opclock = s.opclock := by unfold State.setCx; split <;> rfl
@[simp] theorem State.setCx_ops (s : State) (k : Ctx) : (s.setCx k).ops = s.ops := by unfold State.setCx; split <;> rfl
@[simp] theorem State.setCx_opstage (s : State) (k : Ctx) : (s.setCx k).opstage = s.opstage := by unfold State.setCx; split <;> rfl
@[simp] theorem State.setCx_prune (s : State) (k : Ctx) : (s.setCx k).prune = s.prune := by unfold State.setCx; split <;> rfl
@[simp] theorem State.setCx_caps (s : State) (k : Ctx) : (s.setCx k).caps = s.caps := by unfold State.setCx; split <;> rfl
@[simp] theorem State.setCx_insts (s : State) (k : Ctx) : (s.setCx k).insts = s.insts := by unfold State.setCx; split <;> rfl
@[simp] theorem State.setCx_ports (s : State) (k : Ctx) : (s.setCx k).ports = s.ports := by unfold State.setCx; split <;> rfl
@[simp] theorem State.setCx_completed (s : State) (k : Ctx) : (s.setCx k).completed = s.completed := by unfold State.setCx; split <;> rfl
@[simp] theorem State.setCx_views (s : State) (k : Ctx) : (s.setCx k).views = s.views := by unfold State.setCx; split <;> rfl
@[simp] theorem State.setCx_dispatch (s : State) (k : Ctx) : (s.setCx k).dispatch = s.dispatch := by unfold State.setCx; split <;> rfl
@[simp] theorem State.setCx_nextHop (s : State) (k : Ctx) : (s.setCx k).nextHop = s.nextHop := by unfold State.setCx; split <;> rfl
@[simp] theorem State.setCx_stations (s : State) (k : Ctx) : (s.setCx k).stations = s.stations := by unfold State.setCx; split <;> rfl
@[simp] theorem State.setCx_stops (s : State) (k : Ctx) : (s.setCx k).stops = s.stops := by unfold State.setCx; split <;> rfl
@[simp] theorem State.setCx_flushes (s : State) (k : Ctx) : (s.setCx k).flushes = s.flushes := by unfold State.setCx; split <;> rfl
@[simp] theorem State.setCx_tlbinvs (s : State) (k : Ctx) : (s.setCx k).tlbinvs = s.tlbinvs := by unfold State.setCx; split <;> rfl
@[simp] theorem State.setCx_rounds (s : State) (k : Ctx) : (s.setCx k).rounds = s.rounds := by unfold State.setCx; split <;> rfl
@[simp] theorem State.setCx_mfail (s : State) (k : Ctx) : (s.setCx k).mfail = s.mfail := by unfold State.setCx; split <;> rfl
@[simp] theorem State.setCx_host (s : State) (k : Ctx) : (s.setCx k).host = s.host := by unfold State.setCx; split <;> rfl
@[simp] theorem State.setCx_streams (s : State) (k : Ctx) : (s.setCx k).streams = s.streams := by unfold State.setCx; split <;> rfl
@[simp] theorem State.setCx_net (s : State) (k : Ctx) : (s.setCx k).net = s.net := by unfold State.setCx; split <;> rfl
@[simp] theorem State.setCx_timed (s : State) (k : Ctx) : (s.setCx k).timed = s.timed := by unfold State.setCx; split <;> rfl
@[simp] theorem State.setCx_inputs (s : State) (k : Ctx) : (s.setCx k).inputs = s.inputs := by unfold State.setCx; split <;> rfl
@[simp] theorem State.setCx_freeCtr (s : State) (k : Ctx) : (s.setCx k).freeCtr = s.freeCtr := by unfold State.setCx; split <;> rfl
@[simp] theorem State.setCx_next (s : State) (k : Ctx) : (s.setCx k).next = s.next := by unfold State.setCx; split <;> rfl
end Sys2Proof.Machine
end

