-- ==== Sys2Proof/Laws/Frame.lean ====
section
/-! SUPPORT. What the shared operations leave alone: the contexts of every core. The frame port, the pins, the records, the plates
and what is held at a core act on a core's other parts only; so a context that ends is idle whatever else its end sets going. -/
namespace Sys2Proof.Machine

open Sys2Proof

/-- The contexts of every core are as before. -/
def CtxsKept (s t : State) : Prop := ∀ c, (t.core c).ctxs = (s.core c).ctxs

theorem CtxsKept.refl (s : State) : CtxsKept s s := fun _ => rfl
theorem CtxsKept.trans {s t u : State} (h : CtxsKept s t) (h' : CtxsKept t u) : CtxsKept s u := fun c => (h' c).trans (h c)

/-- A state with the same cores. -/
theorem CtxsKept.cores {s t : State} (h : t.cores = s.cores) : CtxsKept s t := fun c => by unfold State.core; rw [h]

theorem CtxsKept.setCore {s : State} {c : Nat} {k : Core} (h : k.ctxs = (s.core c).ctxs) : CtxsKept s (s.setCore c k) := fun d => by
  by_cases e : d = c
  · subst e; rw [State.core_setCore_same, h]
  · rw [State.core_setCore_other s k e]

theorem CtxsKept.modCore {s : State} {c : Nat} {f : Core → Core} (h : ∀ k, (f k).ctxs = k.ctxs) : CtxsKept s (s.modCore c f) :=
  CtxsKept.setCore (h _)

theorem CtxsKept.ctx {s t : State} (h : CtxsKept s t) (c x : Nat) : (t.core c).ctx x = (s.core c).ctx x := by
  unfold Core.ctx; rw [h c]

/-- Steps that each keep the contexts keep them together. -/
theorem CtxsKept.foldl {α : Type} (f : State → α → State) (h : ∀ s a, CtxsKept s (f s a)) (l : List α) (s : State) :
    CtxsKept s (l.foldl f s) := by
  induction l generalizing s with
  | nil => exact CtxsKept.refl s
  | cons a l ih => exact (h s a).trans (ih _)

/-! Small parts. -/

theorem kept_after (s : State) (n : Nat) (i : Instr) : CtxsKept s (s.after n i) := CtxsKept.cores rfl
theorem kept_sendPkt (s : State) (p : Pkt) : CtxsKept s (s.sendPkt p) := CtxsKept.cores (State.sendPkt_cores s p)
theorem kept_raise (s : State) (org : Origin) (c : Nat) (b : Bool) (v : Nat) (n : Node) (e : Nat) : CtxsKept s (s.raise org c b v n e) :=
  kept_sendPkt _ _
theorem kept_record (s : State) (org : Origin) (c v : Nat) : CtxsKept s (s.record org c v) := kept_raise _ _ _ _ _ _ _
theorem kept_modInst (s : State) (g : Nat) (f : Inst → Inst) : CtxsKept s (s.modInst g f) := CtxsKept.cores rfl
theorem kept_pruneSoon (s : State) (a b c d : Nat) : CtxsKept s (s.pruneSoon a b c d) := CtxsKept.cores rfl
theorem kept_pin (s : State) (c f : Nat) : CtxsKept s (s.pin c f) := CtxsKept.modCore fun _ => rfl
theorem kept_unpin (s : State) (c f : Nat) : CtxsKept s (s.unpin c f) := CtxsKept.modCore fun _ => rfl
theorem kept_markSlot (s : State) (c f i : Nat) : CtxsKept s (s.markSlot c f i) := CtxsKept.modCore fun _ => rfl

theorem kept_poisonLine (s : State) (l : Nat) (org : Origin) : CtxsKept s (s.poisonLine l org) := CtxsKept.cores rfl

theorem kept_setFrameN (s : State) (c f off n v : Nat) : CtxsKept s (s.setFrameN c f off n v) := by
  unfold State.setFrameN
  simp only
  split
  · exact CtxsKept.setCore rfl
  · exact CtxsKept.cores rfl

theorem kept_setSlotWord (s : State) (c f i : Nat) (w : Word) : CtxsKept s (s.setSlotWord c f i w) := by
  unfold State.setSlotWord
  simp only
  split
  · exact (kept_setFrameN _ _ _ _ _ _).trans (CtxsKept.setCore rfl)
  · exact kept_setFrameN _ _ _ _ _ _

theorem kept_putSlot (s : State) (c f k : Nat) (w : Word) : CtxsKept s (s.putSlot c f k w) :=
  (kept_setSlotWord _ _ _ _ _).trans (kept_markSlot _ _ _ _)

theorem kept_setWords (s : State) (c f : Nat) (l : List (Nat × Word)) : CtxsKept s (s.setWords c f l) := by
  induction l generalizing s with
  | nil => exact CtxsKept.refl s
  | cons a l ih => exact (kept_setSlotWord _ _ _ _ _).trans (ih _)

theorem kept_enqueue (s : State) (c : Nat) (a : Act) : CtxsKept s (s.enqueue c a) := CtxsKept.modCore fun _ => rfl
theorem kept_newAct (s : State) (c : Nat) (a : Act) : CtxsKept s (s.newAct c a).1 := CtxsKept.setCore rfl

theorem kept_fired (s : State) (g c f i : Nat) : CtxsKept s (s.fired g c f i) := kept_modInst _ _ _

theorem kept_queueFire (s : State) (c g : Nat) (a : Act) : CtxsKept s (s.queueFire c g a) := by
  unfold State.queueFire
  simp only
  split
  · exact ((kept_newAct s c a).trans (kept_fired _ _ _ _ _)).trans (kept_enqueue _ _ _)
  · exact ((kept_newAct s c a).trans (kept_fired _ _ _ _ _)).trans (CtxsKept.modCore fun _ => rfl)

theorem kept_frameErr (s : State) (c f : Nat) (org : Origin) (l : List Nat) : CtxsKept s (s.frameErr c f org l).2 := by
  induction l with
  | nil => exact CtxsKept.refl s
  | cons i l ih =>
    simp only [State.frameErr]
    split
    · split
      · dsimp only
        refine CtxsKept.trans ?_ (kept_pruneSoon _ _ _ _ _)
        exact CtxsKept.setCore rfl
      · split
        · exact CtxsKept.refl s
        · exact ih
    · split
      · exact kept_poisonLine _ _ _
      · split
        · exact CtxsKept.refl s
        · exact ih

/-! The frame port. -/

theorem kept_frameCheck {s t : State} {p : Pkt} {f k : Nat} {ws : List (Nat × Word)} (h : s.frameCheck p f k ws = some t) :
    CtxsKept s t := by
  unfold State.frameCheck at h
  simp only at h
  split at h
  · cases h; exact kept_raise _ _ _ _ _ _ _
  · split at h
    · cases h; exact kept_raise _ _ _ _ _ _ _
    · split at h
      · cases h; exact kept_raise _ _ _ _ _ _ _
      · exact absurd h (by simp)

theorem kept_signalN (s : State) (p : Pkt) (f i n e : Nat) (ws : List (Nat × Word)) (aff : Option Nat) :
    CtxsKept s (s.signalN p f i n e ws aff) := by
  unfold State.signalN
  split
  · next h => exact kept_frameCheck h
  · simp only
    generalize (if ((s.core p.dst).fent f).res = true then ([] : List Nat) else ws.map (·.1)) = l
    split
    · exact (kept_frameErr _ _ _ _ _).trans (kept_raise _ _ _ _ _ _ _)
    · refine (kept_frameErr s p.dst f { p.org with tag := p.tag, gen := p.gen } l).trans ?_
      split
      · exact kept_raise _ _ _ _ _ _ _
      · split
        · exact kept_raise _ _ _ _ _ _ _
        · split
          · exact (kept_frameErr _ _ _ _ _).trans (kept_raise _ _ _ _ _ _ _)
          · split
            · split
              · exact kept_modInst _ _ _
              · exact kept_raise _ _ _ _ _ _ _
            · split
              · exact (kept_setWords _ _ _ _).trans (kept_putSlot _ _ _ _ _)
              · exact ((kept_setWords _ _ _ _).trans (kept_putSlot _ _ _ _ _)).trans (kept_queueFire _ _ _ _)

theorem kept_addSlot (s : State) (p : Pkt) (f i n : Nat) : CtxsKept s (s.addSlot p f i n) := by
  unfold State.addSlot
  split
  · next h => exact kept_frameCheck h
  · simp only
    split
    · exact (kept_frameErr _ _ _ _ _).trans (kept_raise _ _ _ _ _ _ _)
    · refine (kept_frameErr s p.dst f { p.org with tag := p.tag, gen := p.gen } [i]).trans ?_
      split
      · exact kept_raise _ _ _ _ _ _ _
      · split
        · exact kept_raise _ _ _ _ _ _ _
        · split
          · exact (kept_frameErr _ _ _ _ _).trans (kept_raise _ _ _ _ _ _ _)
          · split
            · exact (kept_frameErr _ _ _ _ _).trans (kept_raise _ _ _ _ _ _ _)
            · exact (kept_frameErr _ _ _ _ _).trans (kept_putSlot _ _ _ _ _)

theorem kept_slotSet (s : State) (p : Pkt) (f i : Nat) (v : Word) (b : Bool) : CtxsKept s (s.slotSet p f i v b) := by
  unfold State.slotSet
  split
  · next h => exact kept_frameCheck h
  · simp only
    split
    · exact (kept_frameErr _ _ _ _ _).trans (kept_raise _ _ _ _ _ _ _)
    · refine (kept_frameErr s p.dst f { p.org with tag := p.tag, gen := p.gen } [i]).trans ?_
      split
      · exact kept_raise _ _ _ _ _ _ _
      · generalize (if (b || _) = true then _ else _) = l
        split
        · exact (kept_frameErr _ _ _ _ _).trans (kept_raise _ _ _ _ _ _ _)
        · exact (kept_frameErr _ _ _ _ _).trans (kept_putSlot _ _ _ _ _)

theorem kept_noted (s : State) (p : Pkt) : CtxsKept s (s.noted p) := by
  unfold State.noted
  split
  · exact CtxsKept.refl s
  · split
    · exact CtxsKept.refl s
    · exact CtxsKept.modCore fun _ => rfl

theorem kept_update (s : State) (p : Pkt) : CtxsKept s (s.update p) := by
  unfold State.update
  split
  · simp only
    split
    · exact (kept_signalN _ _ _ _ _ _ _ _).trans (kept_unpin _ _ _)
    · exact kept_signalN _ _ _ _ _ _ _ _
  · exact kept_signalN _ _ _ _ _ _ _ _
  · exact kept_addSlot _ _ _ _ _
  · exact kept_slotSet _ _ _ _ _ _
  · exact kept_signalN _ _ _ _ _ _ _ _
  · exact (kept_signalN _ _ _ _ _ _ _ _).trans (kept_unpin _ _ _)
  · exact (kept_signalN _ _ _ _ _ _ _ _).trans (kept_unpin _ _ _)
  · exact (kept_signalN _ _ _ _ _ _ _ _).trans (kept_unpin _ _ _)
  · exact CtxsKept.refl s

/-- An update at the frame port leaves every context alone. -/
theorem kept_applyPort (s : State) (p : Pkt) : CtxsKept s (s.applyPort p) := (kept_update s p).trans (kept_noted _ p)

theorem kept_applyFw (s : State) (c f : Nat) (org : Origin) (l : List FwEnt) : CtxsKept s (s.applyFw c f org l) := by
  induction l generalizing s with
  | nil => exact CtxsKept.refl s
  | cons e l ih =>
    simp only [State.applyFw]
    refine CtxsKept.trans ?_ (ih _)
    split
    · refine CtxsKept.trans ?_ (kept_record _ _ _ _)
      exact CtxsKept.setCore rfl
    · exact CtxsKept.setCore rfl

theorem kept_rejoin (s : State) (c : Nat) (a : Act) : CtxsKept s (s.rejoin c a) := by
  unfold State.rejoin
  split
  · exact kept_enqueue _ _ _
  · simp only
    split
    · exact CtxsKept.modCore fun _ => rfl
    · exact kept_enqueue _ _ _

theorem kept_drainPort (s : State) (c n : Nat) : CtxsKept s (s.drainPort c n) := by
  induction n generalizing s with
  | zero => exact CtxsKept.refl s
  | succ n ih =>
    simp only [State.drainPort]
    split
    · exact CtxsKept.refl s
    · split
      · refine CtxsKept.trans ?_ (ih _)
        refine CtxsKept.trans ?_ (kept_applyPort _ _)
        exact CtxsKept.modCore fun _ => rfl
      · exact CtxsKept.refl s
    · split
      · refine CtxsKept.trans ?_ (ih _)
        refine CtxsKept.trans ?_ (kept_rejoin _ _ _)
        exact CtxsKept.modCore fun _ => rfl
      · exact CtxsKept.refl s
    · refine CtxsKept.trans ?_ (ih _)
      refine CtxsKept.trans ?_ (kept_applyFw _ _ _ _ _)
      exact CtxsKept.modCore fun _ => rfl

theorem kept_refuse (s : State) (p : Pkt) (n : Node) : CtxsKept s (s.refuse p n) := by
  unfold State.refuse
  simp only
  split
  · exact kept_sendPkt _ _
  · exact kept_sendPkt _ _

theorem kept_holdChan (s : State) (p : Pkt) (ch : Nat) : CtxsKept s (s.holdChan p ch) := by
  unfold State.holdChan
  simp only
  split
  · exact CtxsKept.setCore rfl
  · split
    · exact CtxsKept.cores rfl
    · exact kept_refuse _ _ _

theorem kept_turnedAway {s t : State} {p : Pkt} {ch : Nat} (h : s.turnedAway p ch = some t) : CtxsKept s t := by
  unfold State.turnedAway at h
  simp only at h
  split at h
  · cases h; exact CtxsKept.cores rfl
  · split at h
    · cases h; exact kept_modInst _ _ _
    · split at h
      · cases h; exact kept_raise _ _ _ _ _ _ _
      · split at h
        · cases h; exact kept_holdChan _ _ _
        · exact absurd h (by simp)

theorem kept_queueChan (s : State) (p : Pkt) (ch : Nat) (l : List Byte) : CtxsKept s (s.queueChan p ch l) :=
  (kept_newAct s p.dst (chanAct ch p.tag p.org.core (SMap.get 0 (s.core p.dst).tasks ch) l)).trans (kept_enqueue _ _ _)

theorem kept_drainNi (s : State) (c n : Nat) : CtxsKept s (s.drainNi c n) := by
  induction n generalizing s with
  | zero => exact CtxsKept.refl s
  | succ n ih =>
    have h : ∀ t, CtxsKept s (s.setCore c { s.core c with niQ := t }) := fun _ => CtxsKept.setCore rfl
    simp only [State.drainNi]
    split
    · exact CtxsKept.refl s
    · split
      · split
        · next e => exact ((h _).trans (kept_turnedAway e)).trans (ih _)
        · split
          · exact ((h _).trans (kept_queueChan _ _ _ _)).trans (ih _)
          · exact CtxsKept.refl s
      · exact (h _).trans (ih _)

/-! The end of an activation. -/

theorem kept_requestFills (s : State) (c : Nat) (l : List Nat) : CtxsKept s (s.requestFills c l) := by
  induction l generalizing s with
  | nil => exact CtxsKept.refl s
  | cons a l ih => exact (kept_after s 0 _).trans (ih _)

theorem kept_handOff (s : State) (c : Nat) : CtxsKept s (s.handOff c) := by
  unfold State.handOff
  simp only
  split
  · exact CtxsKept.setCore rfl
  · refine CtxsKept.trans ?_ (kept_requestFills _ _ _)
    exact CtxsKept.setCore rfl

theorem kept_releaseLines (s : State) (c a : Nat) : CtxsKept s (s.releaseLines c a) := by
  unfold State.releaseLines
  simp only
  have h1 : CtxsKept s ((s.slices c).foldl (fun t c => t.modCore c fun k => { k with l1 := unpinLines k.l1 a }) s) :=
    CtxsKept.foldl _ (fun t c => CtxsKept.modCore (f := fun k => { k with l1 := unpinLines k.l1 a }) fun _ => rfl) _ _
  have h2 := h1.trans (CtxsKept.modCore (c := c) (f := fun k => { k with walkFaults := k.walkFaults.filter (·.act != a) }) fun _ => rfl)
  split
  · exact h2.trans (kept_handOff _ _)
  · exact h2

theorem kept_recycle (s : State) (c : Nat) : CtxsKept s (s.recycle c) := by
  refine CtxsKept.modCore fun k => ?_
  have h : ∀ (l : List Nat) (k : Core), (l.foldl (fun k p =>
      if (k.plate p).st == .draining && !k.namesPlate p then k.setPlate p {} else k) k).ctxs = k.ctxs := by
    intro l
    induction l with
    | nil => intro k; rfl
    | cons p l ih =>
      intro k
      rw [List.foldl_cons, ih]
      split <;> rfl
  exact h _ k

theorem kept_putRp (s : State) (c f i b : Nat) : CtxsKept s (s.putRp c f i b) := by
  unfold State.putRp
  split
  · exact kept_raise _ _ _ _ _ _ _
  · split
    · exact CtxsKept.refl s
    · exact kept_setSlotWord _ _ _ _ _

theorem kept_setRp (s : State) (c : Nat) (a : Act) : CtxsKept s (s.setRp c a) := by
  unfold State.setRp
  split
  · exact CtxsKept.refl s
  · exact kept_putRp _ _ _ _ _

theorem kept_requeue (s : State) (c : Nat) (a : Act) : CtxsKept s (s.requeue c a) := (kept_setRp _ _ _).trans (kept_enqueue _ _ _)

/-- Marking a slot changes no context. -/
theorem Core.markSlot_ctxs (x : Nat) (k : Core) (i : Nat) : (Core.markSlot x k i).ctxs = k.ctxs := by
  unfold Core.markSlot; dsimp only; split <;> rfl

theorem kept_orphan (s : State) (c x : Nat) : CtxsKept s (s.orphan c x) := by
  refine CtxsKept.modCore fun k => ?_
  generalize List.range 4 = l
  induction l generalizing k with
  | nil => rfl
  | cons i l ih => rw [List.foldl_cons, ih, Core.markSlot_ctxs]

theorem kept_trapRecord (s : State) (c g : Nat) (t : Trapped) : CtxsKept s (s.trapRecord c g t) := kept_raise _ _ _ _ _ _ _

/-- The end of an activation does nothing more to any context once its own is idle. -/
theorem endAct_kept (s : State) (c x : Nat) (lines : Bool) (again : State → State) (ha : ∀ t, CtxsKept t (again t)) :
    CtxsKept (s.modCore c fun k => { k.setCtx x {} with commits := k.commits.filter (· != x) }) (s.endAct c x lines again) := by
  unfold State.endAct
  simp only
  generalize s.modCore c (fun k => { k.setCtx x {} with commits := k.commits.filter (· != x) }) = s0
  refine CtxsKept.trans ?_ (kept_recycle _ _)
  refine CtxsKept.trans ?_ (kept_drainNi _ _ _)
  refine CtxsKept.trans ?_ (kept_drainPort _ _ _)
  refine CtxsKept.trans ?_ (ha _)
  split
  · refine CtxsKept.trans ?_ (kept_releaseLines _ _ _)
    split
    · exact kept_unpin _ _ _
    · exact CtxsKept.refl _
  · split
    · exact kept_unpin _ _ _
    · exact CtxsKept.refl _

/-- The end of an activation: its context becomes idle, and every other context of every core is as before. -/
theorem endAct_ctxs (s : State) (c x : Nat) (lines : Bool) (again : State → State) (ha : ∀ t, CtxsKept t (again t)) :
    ((s.endAct c x lines again).core c).ctxs = SMap.put {} (s.core c).ctxs x {} ∧
      ∀ d, d ≠ c → ((s.endAct c x lines again).core d).ctxs = (s.core d).ctxs := by
  have h := endAct_kept s c x lines again ha
  constructor
  · rw [h c, State.modCore, State.core_setCore_same]; rfl
  · intro d e
    rw [h d, State.modCore, State.core_setCore_other _ _ e]

/-- The context that ended is idle, its registers and buffers empty. -/
theorem endAct_idle (s : State) (c x : Nat) (lines : Bool) (again : State → State) (ha : ∀ t, CtxsKept t (again t)) :
    ((s.endAct c x lines again).core c).ctx x = {} := by
  unfold Core.ctx; rw [(endAct_ctxs s c x lines again ha).1]; simp

/-- Abort leaves the context idle (R38, R41). -/
theorem abort_idle (s : State) (c x : Nat) (rq : Bool) : ((s.abort c x rq).core c).ctx x = {} := by
  unfold State.abort
  refine endAct_idle _ _ _ _ _ fun t => ?_
  split
  · exact kept_requeue _ _ _
  · exact CtxsKept.refl _

end Sys2Proof.Machine
end

