-- ==== Sys2Proof/Laws/Run.lean ====
section
/-! SUPPORT. What the sequencing around an instruction does: an instruction whose guard is 1 and whose body answers goes on
behind itself, traps, or has settled what comes next; one whose guard is 0 only goes on. The operations that take buffer
entries, name the own frame and name a completion slot, each said once. -/
namespace Sys2Proof.Machine

open Sys2Proof

/-! Places that a body leaves alone. -/

/-- `t` is `s` with another executing context that stands at the same place: same plate, offset, links and loops. -/
structure Still (s t : State) : Prop where
  ctx : ∃ k : Ctx, t.cx = k ∧ k.plate = s.cx.plate ∧ k.off = s.cx.off ∧ k.links = s.cx.links ∧ k.loops = s.cx.loops
  code : t.code = s.code

theorem Still.off {s t : State} (h : Still s t) : t.cx.off = s.cx.off := by obtain ⟨k, rfl, -, e, -, -⟩ := h.ctx; exact e
theorem Still.links {s t : State} (h : Still s t) : t.cx.links = s.cx.links := by obtain ⟨k, rfl, -, -, e, -⟩ := h.ctx; exact e
theorem Still.loops {s t : State} (h : Still s t) : t.cx.loops = s.cx.loops := by obtain ⟨k, rfl, -, -, -, e⟩ := h.ctx; exact e
theorem Still.plate {s t : State} (h : Still s t) : t.cx.plate = s.cx.plate := by obtain ⟨k, rfl, e, -, -, -⟩ := h.ctx; exact e

theorem Still.refl (s : State) : Still s s := ⟨⟨s.cx, rfl, rfl, rfl, rfl, rfl⟩, rfl⟩

theorem Still.trans {s t u : State} (h : Still s t) (h' : Still t u) : Still s u :=
  ⟨⟨u.cx, rfl, h'.plate.trans h.plate, h'.off.trans h.off, h'.links.trans h.links, h'.loops.trans h.loops⟩, h'.code.trans h.code⟩

/-- The bytes fetched from do not change with the context, its plate aside. -/
theorem code_setCx (s : State) (k : Ctx) (h : k.plate = s.cx.plate) : (s.setCx k).code = s.code := by
  unfold State.code
  rw [State.cur_setCx, State.cx_setCx, h]
  cases e : s.cur with
  | ctx c x => simp [State.setCx, e]
  | hart cl h => simp [State.setCx, e]

theorem Still.setCx (s : State) (k : Ctx) (hp : k.plate = s.cx.plate) (ho : k.off = s.cx.off) (hl : k.links = s.cx.links)
    (hs : k.loops = s.cx.loops) : Still s (s.setCx k) :=
  ⟨⟨k, State.cx_setCx s k, hp, ho, hl, hs⟩, code_setCx s k hp⟩

theorem Still.wg (s : State) (n : Nat) (v : Word) : Still s (s.wg n v) := Still.setCx s _ (by simp) (by simp) (by simp) (by simp)
theorem Still.wp (s : State) (n : Nat) (b : Bool) : Still s (s.wp n b) := Still.setCx s _ (by simp) (by simp) (by simp) (by simp)
theorem Still.wv (s : State) (n : Nat) (x : VReg) : Still s (s.wv n x) := Still.setCx s _ rfl rfl rfl rfl
theorem Still.wm (s : State) (n : Nat) (x : MReg) : Still s (s.wm n x) := Still.setCx s _ rfl rfl rfl rfl
theorem Still.flag (s : State) (f : FFlags) : Still s (s.flag f) := Still.setCx s _ rfl rfl rfl rfl

/-- Going on over no loop end. -/
theorem Still.smooth {s t : State} (h : Still s t) (n : Nat) (w : s.smooth n) : t.smooth n := by
  unfold State.smooth Ctx.skips at *
  rw [h.code, h.off, h.links, h.loops]
  exact w

/-! The outcomes of `run`. -/

theorem advance_smooth (s : State) (n : Nat) (w : s.smooth n) : s.advance n = s.onward n := by
  unfold State.advance State.onward
  unfold State.smooth at w
  simp only [w]

theorem run_ok {o : Ops} {s t : State} {body : State → Res} (r : s.Ready o) (b : body s = .ok t) (h : Still s t) :
    run o s body = .next (t.onward o.form.bytes) := by
  have g : guardOn o s.cx = true := r.guard
  simp only [run, State.runOps, g, if_true, b, State.settle, advance_smooth t _ (h.smooth _ r.smooth)]

theorem run_trap {o : Ops} {s : State} {body : State → Res} {c v : Nat} (g : s.guarded1 o) (b : body s = .trap c v) :
    run o s body = .next (s.trapNow c v) := by
  have g : guardOn o s.cx = true := g
  simp only [run, State.runOps, g, if_true, b, State.settle]

theorem run_done {o : Ops} {s t : State} {body : State → Res} (g : s.guarded1 o) (b : body s = .done t) :
    run o s body = .next t := by
  have g : guardOn o s.cx = true := g
  simp only [run, State.runOps, g, if_true, b, State.settle]

theorem run_skip {o : Ops} {s : State} {body : State → Res} (g : guardOn o s.cx = false) (w : s.smooth o.form.bytes) :
    run o s body = .next (s.onward o.form.bytes) := by
  simp [run, State.runOps, g, advance_smooth s _ w]

/-- An instruction that only computes goes on. -/
theorem run_pure {o : Ops} {s : State} {f : State → State} (r : s.Ready o) (h : Still s (f s)) :
    run o s (State.pure f) = .next ((f s).onward o.form.bytes) := run_ok r rfl h

/-- Every instruction that `run` sequences answers a next state. -/
theorem run_next (o : Ops) (s : State) (body : State → Res) : ∃ t, run o s body = .next t := ⟨_, rfl⟩

/-! Entries and fields. -/

theorem takeOut_ok {s : State} {es : List OutEnt} (h : s.cx.out.length + es.length ≤ 48) :
    s.takeOut es = .ok (s.setCx { s.cx with out := s.cx.out ++ es }) := by
  simp [State.takeOut, Nat.not_lt.mpr h]

theorem takeOut_full {s : State} {es : List OutEnt} (h : 48 < s.cx.out.length + es.length) : s.takeOut es = .trap 0x0D 0 := by
  simp [State.takeOut, h]

theorem takeFw_ok {s : State} {es : List FwEnt} (h : s.cx.fw.length + es.length ≤ 32) :
    s.takeFw es = .ok (s.setCx { s.cx with fw := s.cx.fw ++ es }) := by
  simp [State.takeFw, Nat.not_lt.mpr h]

theorem takeFw_full {s : State} {es : List FwEnt} (h : 32 < s.cx.fw.length + es.length) : s.takeFw es = .trap 0x0E 0 := by
  simp [State.takeFw, h]

theorem ownFrame_some {s : State} {fid : Nat} (h : s.cx.act.fid = some fid) (f : Nat → Res) : s.ownFrame f = f fid := by
  simp [State.ownFrame, h]

theorem ownFrame_none {s : State} (h : s.cx.act.fid = none) (f : Nat → Res) : s.ownFrame f = .trap 0x09 0 := by
  simp [State.ownFrame, h]

theorem Still.out (s : State) (es : List OutEnt) : Still s (s.setCx { s.cx with out := es }) := Still.setCx s _ rfl rfl rfl rfl
theorem Still.fw (s : State) (es : List FwEnt) : Still s (s.setCx { s.cx with fw := es }) := Still.setCx s _ rfl rfl rfl rfl

/-- An instruction that takes outbound entries. -/
theorem run_takeOut {o : Ops} {s : State} {body : State → Res} {es : List OutEnt} (r : s.Ready o) (b : body s = s.takeOut es)
    (h : s.cx.out.length + es.length ≤ 48) :
    run o s body = .next ((s.setCx { s.cx with out := s.cx.out ++ es }).onward o.form.bytes) :=
  run_ok r (b.trans (takeOut_ok h)) (Still.out s _)

/-- An instruction that writes g[D] from A and Bop. -/
theorem alu_next {o : Ops} {s : State} (f : Word → Word → Word) (r : s.Ready o) :
    alu o s f = .next ((s.wg o.d.toNat (f (srcA o s) (bop o s.cx))).onward o.form.bytes) := run_pure r (Still.wg s _ _)

end Sys2Proof.Machine
end

