-- ==== Sys2Proof/Laws/Vector.lean ====
section
/-! SUPPORT. What a vector register built from elements holds, and what an elementwise instruction does. -/
namespace Sys2Proof.Machine

open Sys2Proof

theorem packElems_lt (w : Nat) (l : List Nat) : packElems w l < 2 ^ (w * l.length) := by
  induction l with
  | nil => simp [packElems]
  | cons v t ih =>
    have h : v % 2 ^ w < 2 ^ w := Nat.mod_lt _ (Nat.two_pow_pos w)
    rw [packElems, List.length_cons, Nat.mul_succ, Nat.add_comm (w * t.length), Nat.pow_add]
    calc v % 2 ^ w + 2 ^ w * packElems w t < 2 ^ w + 2 ^ w * packElems w t := by omega
      _ = 2 ^ w * (packElems w t + 1) := by rw [Nat.mul_succ, Nat.add_comm]
      _ ≤ 2 ^ w * 2 ^ (w * t.length) := Nat.mul_le_mul_left _ ih

/-- Element `i` of packed elements. -/
theorem packElems_elem (w : Nat) : ∀ (l : List Nat) (i : Nat), packElems w l / 2 ^ (w * i) % 2 ^ w = l.getD i 0 % 2 ^ w
  | [], i => by simp [packElems]
  | v :: t, 0 => by simp [packElems]
  | v :: t, i + 1 => by
    have h : v % 2 ^ w < 2 ^ w := Nat.mod_lt _ (Nat.two_pow_pos w)
    rw [packElems, Nat.mul_succ, Nat.add_comm (w * i), Nat.pow_add, ← Nat.div_div_eq_div_mul,
      Nat.add_mul_div_left _ _ (Nat.two_pow_pos w), Nat.div_eq_of_lt h, Nat.zero_add, packElems_elem w t i]
    simp

/-- Element `i` of a register of elements that fill it. -/
theorem elem_vreg {w : Nat} {l : List Nat} (i : Nat) (h : w * l.length = 1024) : elem (vreg w l) w i = l.getD i 0 % 2 ^ w := by
  have : packElems w l < 2 ^ 1024 := h ▸ packElems_lt w l
  rw [elem, vreg, BitVec.toNat_ofNat, Nat.mod_eq_of_lt this, packElems_elem]

/-- Every type's elements fill a register. -/
theorem vtyOf_fills (n : Nat) : (vtyOf n).w * (vtyOf n).lanes = 1024 := by
  unfold vtyOf VTy.lanes
  split <;> rfl

theorem vty_fills (o : Ops) : (vty o).w * (vty o).lanes = 1024 := vtyOf_fills o.fn6

/-- A register of the results by element. -/
theorem elem_vreg_range {t : VTy} (ht : t.w * t.lanes = 1024) (f : Nat → Nat) {i : Nat} (h : i < t.lanes) :
    elem (vreg t.w ((List.range t.lanes).map f)) t.w i = f i % 2 ^ t.w := by
  rw [elem_vreg i (by simpa using ht)]
  simp [List.getD_eq_getElem?_getD, h]

theorem elem_lt (x : VReg) (w i : Nat) : elem x w i < 2 ^ w := Nat.mod_lt _ (Nat.two_pow_pos w)

/-- Elements that were inactive add no flag. -/
theorem orFlags_active {α : Type} (l : List α) (p : α → Bool) (f : α → FFlags) (a : FFlags) :
    (l.map fun i => if p i then f i else {}).foldl FFlags.or a = ((l.filter p).map f).foldl FFlags.or a := by
  induction l generalizing a with
  | nil => rfl
  | cons x t ih =>
    cases h : p x
    · have : a.or {} = a := by simp [FFlags.or]
      simp [h, this, ih]
    · simp [h, ih]

/-- What an elementwise instruction does (R184, R185). -/
theorem vput_spec {o : Ops} {s : State} (t : VTy) (ht : t.w * t.lanes = 1024) (f : Nat → Nat × FFlags) :
    ∃ v : VReg, vput o s t f = (s.wv o.d.toNat v).flag (orFlags ((vactives o s t).map fun i => (f i).2)) ∧
      ∀ i, i < t.lanes → elem v t.w i = if vactive o s t i then (f i).1 % 2 ^ t.w else if zi o then 0 else elem (s.rv o.d.toNat) t.w i := by
  let rs := (List.range t.lanes).map fun i => if vactive o s t i then f i else (0, {})
  have e : (rs.mapIdx fun i r => if vactive o s t i then r.1 else if zi o then 0 else elem (s.rv o.d.toNat) t.w i) =
      (List.range t.lanes).map fun i => if vactive o s t i then (f i).1 else if zi o then 0 else elem (s.rv o.d.toNat) t.w i := by
    apply List.ext_getElem
    · simp [rs]
    · intro i h1 h2
      simp [rs]
      split <;> rfl
  have fl : orFlags (rs.map (·.2)) = orFlags ((vactives o s t).map fun i => (f i).2) := by
    have : rs.map (·.2) = (List.range t.lanes).map fun i => if vactive o s t i then (f i).2 else {} := by
      simp only [rs, List.map_map]
      refine List.map_congr_left fun i _ => ?_
      simp only [Function.comp]
      split <;> rfl
    rw [orFlags, this, orFlags_active]
    rfl
  refine ⟨vreg t.w ((List.range t.lanes).map fun i =>
    if vactive o s t i then (f i).1 else if zi o then 0 else elem (s.rv o.d.toNat) t.w i), ?_, fun i h => ?_⟩
  · show State.flag (State.wv s o.d.toNat (vreg t.w _)) (orFlags (rs.map (·.2))) = _
    rw [e, fl]
  · rw [elem_vreg_range ht _ h]
    split
    · rfl
    · split
      · simp
      · exact Nat.mod_eq_of_lt (elem_lt _ _ _)

theorem laneCheck_agreed {s : State} (h : s.Agreed) (f : State → Res) : laneCheck s f = f s := by
  unfold laneCheck
  cases hc : s.cur with
  | hart _ _ => rfl
  | ctx c x => simp [h c x hc]

/-- A vector instruction whose body goes on. -/
theorem vrun_ok {o : Ops} {s t : State} {f : State → Res} (r : s.Ready o) (a : s.Agreed) (b : f s = .ok t) (h : Still s t) :
    vrun o s f = .next (t.onward o.form.bytes) := run_ok r ((laneCheck_agreed a f).trans b) h

/-- An elementwise instruction. -/
theorem vmap1_result {o : Ops} {s : State} (r : s.Ready o) (a : s.Agreed) (f : State → VTy → Nat → Nat × FFlags) :
    VecResult s o (vty o) (fun i => f s (vty o) i) (vmap1 o s f) := by
  obtain ⟨v, e, h⟩ := vput_spec (o := o) (s := s) (vty o) (vty_fills o) (fun i => f s (vty o) i)
  refine ⟨v, ?_, h⟩
  refine vrun_ok r a (by rw [e]) ?_
  exact (Still.wv s _ _).trans (Still.flag _ _)

/-- Results that agree modulo the width are the same result. -/
theorem VecResult.congr {s : State} {o : Ops} {t : VTy} {r r' : Nat → Nat × FFlags} {x : Host.Outcome State Fault Refusal}
    (h : VecResult s o t r x) (e : ∀ i, i < t.lanes → (r i).1 % 2 ^ t.w = (r' i).1 % 2 ^ t.w ∧ (r i).2 = (r' i).2) : VecResult s o t r' x := by
  obtain ⟨v, h1, h2⟩ := h
  refine ⟨v, ?_, fun i hi => ?_⟩
  · have : (vactives o s t).map (fun i => (r i).2) = (vactives o s t).map fun i => (r' i).2 :=
      List.map_congr_left fun i hi => (e i (by simpa using (List.mem_filter.mp hi).1)).2
    rw [h1, this]
  · rw [h2 i hi, (e i hi).1]

end Sys2Proof.Machine
end

