-- ==== Sys2Proof/Tests/Slice0.lean ====
section
/-! SUPPORT. Tests of decoding, well-formedness and single steps against values that the manual works out, and witnesses: for every
statement a state and operands that meet its hypotheses, clause by clause. -/
namespace Sys2Proof.Tests

open Sys2Proof Sys2Proof.Machine

set_option Elab.async false

/-! Operands and states. -/

/-- Register form: D 4, A 5, B 6, C 7. -/
abbrev opR (fn : BitVec 7) (m : BitVec 23 := 0) : Ops := ⟨0, 0, 4, 5, 6, fn, .reg m 7⟩
/-- IMM form: D 4, A 5, B 6. -/
abbrev opI (fn : BitVec 7) (i : BitVec 28) : Ops := ⟨0, 0, 4, 5, 6, fn, .imm i⟩
/-- XTD form. -/
abbrev opX (fn : BitVec 7) (m : BitVec 23) (e : BitVec 32) : Ops := ⟨0, 0, 4, 5, 6, fn, .xtd m 7 e⟩
/-- WIDE form. -/
abbrev opW (fn : BitVec 7) (i : BitVec 64) : Ops := ⟨0, 0, 4, 5, 6, fn, .wide 0 7 i⟩
/-- DESC form. -/
abbrev opD (fn : BitVec 7) (m : BitVec 23) (i : BitVec 64) : Ops := ⟨0, 0, 4, 5, 6, fn, .desc m 7 i⟩

/-- A context that runs on frame 0 of an instance of generation 1. -/
def ctx0 : Ctx := { phase := .running, act := { fid := some 0 }, gen := 1 }
/-- A core with that context, its frame resident and its plate 0 active. -/
def core0 : Core := { ctxs := [(0, ctx0)], ftab := [(0, { v := true, res := true })], plates := [(0, { st := .active })] }
/-- Context 0 of core 0 executes; cluster 0 is loaded with the instance. -/
def base : State :=
  { State.reset with cores := [(0, core0)], clusters := [(0, { loaded := true, gen := 1 })], insts := [{ gen := 1, st := .running }] }
/-- The same with another context or core. -/
def withCtx (k : Ctx) : State := { base with cores := [(0, { core0 with ctxs := [(0, k)] })] }
def withCore (k : Core) : State := { base with cores := [(0, k)] }
/-- With registers. -/
def withG (l : List (Nat × Word)) : State := withCtx { ctx0 with g := l }

/-- An unguarded instruction is ready in a context without loops. -/
theorem ready_of (s : State) (o : Ops) (g : guardOn o s.cx = true) (l : s.cx.loops = []) : s.Ready o :=
  ⟨g, by unfold State.smooth Ctx.skips; rw [l]; rfl⟩

theorem ready_withCtx (k : Ctx) (o : Ops) (hp : o.pg = 0) (hn : o.pn = 0) (l : k.loops = []) : (withCtx k).Ready o :=
  ready_of _ _ (by unfold guardOn; rw [hp, hn]; rfl) l

theorem ready_base (o : Ops) (hp : o.pg = 0) (hn : o.pn = 0) : base.Ready o := ready_withCtx ctx0 o hp hn rfl
theorem ready_withG (l : List (Nat × Word)) (o : Ops) (hp : o.pg = 0) (hn : o.pn = 0) : (withG l).Ready o :=
  ready_withCtx _ o hp hn rfl

/-! Well-formedness: one ill-formed term for each check, which that check refuses, and a neighbour that passes. -/

/-- Every constructor's opcode is assigned; an opcode of the map's gaps is not (R56). -/
theorem test_wf_assigned : assigned 0x44 = false ∧ assigned 0x2B = false ∧ assigned 0xFD = false ∧ assigned 0x45 = false ∧
    assigned 0x00 = true ∧ assigned 0xFC = true := by decide
/-- ADD has no DESC form (R48). -/
theorem test_wf_format : WellFormed (.add (opD 0 0 0)) = false ∧ formatOk 0x00 (opD 0 0 0) = false ∧
    formatOk 0x00 ⟨0, 0, 4, 5, 0, 0x40, .imm 16⟩ = true := by decide
/-- ADD defines FN[5:0] up to 2 (R97). -/
theorem test_wf_function : functionOk 0x00 ⟨0, 0, 4, 5, 6, 3, .reg 0 0⟩ = false ∧ WellFormed (.add ⟨0, 0, 4, 5, 6, 3, .reg 0 0⟩) = false ∧
    WellFormed (.add ⟨0, 0, 4, 5, 6, 2, .reg 0 0⟩) = true := by decide
/-- NOP leaves D at 0 (R117). -/
theorem test_wf_reserved : reservedOk 0x27 ⟨0, 0, 1, 0, 0, 0, .reg 0 0⟩ = false ∧ WellFormed (.nop ⟨0, 0, 1, 0, 0, 0, .reg 0 0⟩) = false ∧
    WellFormed (.nop ⟨0, 0, 0, 0, 0, 0, .reg 0 0⟩) = true := by decide
/-- MOV of a predicate is FN 2 (R105): the same fields with FN 0 are another row's. -/
theorem test_wf_row : rowOk 0x15 ⟨0, 0, 1, 2, 0, 0, .reg 0 0⟩ (.movPg ⟨0, 0, 1, 2, 0, 0, .reg 0 0⟩) = false ∧
    WellFormed (.movPg ⟨0, 0, 1, 2, 0, 0, .reg 0 0⟩) = false ∧ WellFormed (.movPg ⟨0, 0, 1, 2, 0, 2, .reg 0 0⟩) = true := by decide
/-- A step of the hardware has no word. -/
theorem test_wf_event : WellFormed .heartbeat = false ∧ WellFormed .filler = true := by decide

/-! Words worked out field by field from the encoding tables (R44–R48, R58); the manual's own examples where it has one. -/

theorem test_decode_scalar :
    decodeTableWord 64 0x0000010800290000 = some (.add ⟨0, 0, 4, 5, 0, 0x40, .imm 16⟩) ∧
    decodeTableWord 96 (0x0000000000298001 + 0x10 * 2 ^ 64) = some (.add ⟨0, 0, 6, 5, 0, 0, .imx 0x100000000⟩) ∧
    decodeTableWord 64 0x000000084020C04C = some (.pcmp ⟨0, 0, 3, 4, 0, 0x42, .imm 0⟩) ∧
    decodeTableWord 64 0x000000030629007C = some (.fcvt ⟨0, 0, 4, 5, 6, 0x18, .reg 0 0⟩) := by decide
theorem test_decode_control :
    decodeTableWord 64 0x00000C0000280094 = some (.loopr ⟨0, 0, 0, 5, 0, 0, .reg 6 0⟩) ∧
    decodeTableWord 64 0x00000000000000A0 = some (.exit ⟨0, 0, 0, 0, 0, 0, .reg 0 0⟩) ∧
    decodeTableWord 64 0xFFFFFFF000000080 = some (.br ⟨0, 0, 0, 0, 0, 0, .imm 0xFFFFFFF⟩) := by decide
theorem test_decode_memory :
    decodeTableWord 64 0x00000408C019E8C0 = some (.ld ⟨2, 1, 7, 3, 0, 0x46, .imm 0x40⟩) ∧
    decodeTableWord 64 0x00000409600100C0 = some (.ld ⟨0, 0, 4, 0, 0, 0x4B, .imm 0x40⟩) ∧
    decodeTableWord 96 (0x10500C0065200141 + 0x100 * 2 ^ 64) = some (.amo ⟨0, 0, 0, 4, 5, 3, .xtd 0x82806 0 0x100⟩) := by decide
theorem test_decode_messages :
    decodeTableWord 64 0x0000060000300180 = some (.sig ⟨0, 0, 0, 6, 0, 0, .reg 3 0⟩) ∧
    decodeTableWord 64 0x0034060000300180 = some (.sig ⟨0, 0, 0, 6, 0, 0, .reg 0x1A03 0⟩) ∧
    decodeTableWord 128 (0x000000000048018E + 0x02A08105 * 2 ^ 64) = some (.send ⟨0, 0, 0, 9, 0, 0, .desc 0 0 0x02A08105⟩) := by decide
theorem test_decode_vector :
    decodeTableWord 64 0x000004718629020C = some (.vfma ⟨0, 0, 4, 5, 6, 0x0C, .reg 2 7⟩) ∧
    decodeTableWord 96 (0x0000000143104201 + 0x11 * 2 ^ 64) = some (.vadd ⟨0, 0, 1, 2, 3, 0x0A, .xtd 0 0 0x11⟩) ∧
    decodeTableWord 96 (0x000060014912029D + 6 * 2 ^ 64) = some (.hsift ⟨0, 0, 8, 2, 9, 0x0A, .xtd 0x30 0 6⟩) := by decide
theorem test_decode_matrix_and_banks :
    decodeTableWord 128 (0x0000126005204306 + 0x12810001AD * 2 ^ 64) = some (.mma ⟨0, 0, 1, 4, 5, 0, .desc 9 6 0x12810001AD⟩) ∧
    decodeTableWord 128 (0x00000E000000832A + 5 * 2 ^ 64) = some (.sbstep ⟨0, 0, 2, 0, 0, 0, .desc 7 0 5⟩) ∧
    decodeTableWord 64 0x0000060005200324 = some (.sbevt ⟨0, 0, 0, 4, 5, 0, .reg 3 0⟩) := by decide
theorem test_decode_engines_and_system :
    decodeTableWord 64 0x0200066025200380 = some (.copy ⟨0, 0, 0, 4, 5, 1, .reg 0x10003 6⟩) ∧
    decodeTableWord 64 0x0600046005200384 = some (.copys ⟨0, 0, 0, 4, 5, 0, .reg 0x30002 6⟩) ∧
    decodeTableWord 64 0x00001008000103C8 = some (.mfs ⟨0, 0, 4, 0, 0, 0x40, .imm 0x100⟩) ∧
    decodeTableWord 64 0x01000A00000003F0 = some (.opstep ⟨0, 0, 0, 0, 0, 0, .reg 0x8005 0⟩) := by decide
theorem test_decode_refused : decodeWord 3 = .error .lenReserved ∧ decodeWord 0x110 = .error .unassigned ∧
    decodeTableWord 64 0x0000010801290000 = none ∧ decodeTableWord 32 0xFFFFFFFF = some .filler := ⟨rfl, rfl, by and_intros <;> decide⟩

/-! Witnesses and worked values: scalar instructions. -/

theorem witness_SumsDifferencesAndProducts : base.Ready (opR 0) ∧ (opR 0).fn6 = 0 ∧ base.Ready (opR 1) ∧ (opR 1).fn6 = 1 ∧
    base.Ready (opR 2) ∧ (opR 2).fn6 = 2 :=
  ⟨ready_base _ rfl rfl, by decide, ready_base _ rfl rfl, by decide, ready_base _ rfl rfl, by decide⟩
theorem witness_BitwiseAndLesserAndGreater : base.Ready (opR 0) ∧ (opR 0).fn6 ≤ 1 ∧ (opR 0).fn6 = 0 ∧ base.Ready (opR 1) ∧
    (opR 1).fn6 ≤ 1 ∧ (opR 1).fn6 = 1 :=
  ⟨ready_base _ rfl rfl, by decide, by decide, ready_base _ rfl rfl, by and_intros <;> decide⟩
/-- R98's table: −2^63 by −1 and x by 0. -/
theorem test_divide : divide 0 0x8000000000000000 (-1) = 0x8000000000000000 ∧ remainder 0 0x8000000000000000 (-1) = 0 ∧
    divide 0 5 0 = -1 ∧ remainder 1 5 0 = 5 := by decide
theorem witness_DivisionNeverTraps : (withG [(5, 7), (6, 0)]).Ready (opR 0) ∧ (opR 0).fn6 = 0 ∧ bop (opR 0) (withG [(5, 7), (6, 0)]).cx = 0 ∧
    (withG [(5, 7), (6, 2)]).Ready (opR 1) ∧ (opR 1).fn6 = 1 ∧ bop (opR 1) (withG [(5, 7), (6, 2)]).cx ≠ 0 ∧
    (withG [(5, 0x8000000000000000), (6, -1)]).Ready (opR 0) ∧
    srcA (opR 0) (withG [(5, 0x8000000000000000), (6, -1)]) = 0x8000000000000000#64 ∧
    bop (opR 0) (withG [(5, 0x8000000000000000), (6, -1)]).cx = -1#64 :=
  ⟨ready_withG _ _ rfl rfl, by decide, by decide, ready_withG _ _ rfl rfl, by decide, by decide, ready_withG _ _ rfl rfl, by and_intros <;> decide⟩
theorem witness_ShiftsAndRotations : base.Ready (opR 0) ∧ (opR 0).fn6 = 0 ∧ base.Ready (opR 1) ∧ (opR 1).fn6 = 1 ∧
    WellFormed (.shl ⟨0, 0, 4, 5, 6, 1, .reg 0 0⟩) = true ∧ WellFormed (.sar ⟨0, 0, 4, 5, 6, 0, .reg 0 0⟩) = true ∧
    WellFormed (.shr ⟨0, 0, 4, 5, 0, 0x41, .imm 64⟩) = true :=
  ⟨ready_base _ rfl rfl, by decide, ready_base _ rfl rfl, by and_intros <;> decide⟩
theorem witness_LeadingZerosAndOneBits : base.Ready (opR 0) ∧ (opR 0).fn6 = 0 ∧ base.Ready (opR 1) ∧ (opR 1).fn6 = 1 ∧
    WellFormed (.clz ⟨0, 0, 4, 5, 0, 0, .reg 0 0⟩) = true ∧ WellFormed (.popc ⟨0, 0, 4, 5, 0, 1, .reg 0 0⟩) = true :=
  ⟨ready_base _ rfl rfl, by decide, ready_base _ rfl rfl, by and_intros <;> decide⟩
/-- R101's example: the field 0b1011 at 8 of length 4 is −5. -/
theorem test_extractField : extractField true 8 4 0xB00 = BitVec.ofInt 64 (-5) ∧ extractField true 8 5 0xB00 = 11 := by decide
theorem witness_BitFieldsOfRegisters : base.Ready (opI 0x40 0x0C8) ∧ fieldOf (opI 0x40 0x0C8) base.cx = (8, 4) ∧ (opI 0x40 0x0C8).fn6 = 0 ∧
    base.Ready (opI 0x41 0xFFF) ∧ fieldOf (opI 0x41 0xFFF) base.cx = (63, 64) ∧ (opI 0x41 0xFFF).fn6 = 1 :=
  ⟨ready_base _ rfl rfl, by decide, by decide, ready_base _ rfl rfl, by and_intros <;> decide⟩
theorem witness_AddressesComputed : base.Ready (opR 0) ∧ (∃ m c, (opR 0).form = .reg m c) ∧ base.Ready (opI 0x40 8) ∧
    (∃ i, (opI 0x40 8).form = .imm i) ∧ base.Ready ⟨0, 0, 4, 5, 0, 0, .imx 8⟩ ∧ base.Ready (opW 0 8) ∧
    (∃ m c i, (opW 0 8).form = .wide m c i) :=
  ⟨ready_base _ rfl rfl, ⟨_, _, rfl⟩, ready_base _ rfl rfl, ⟨_, rfl⟩, ready_base _ rfl rfl, ready_base _ rfl rfl, ⟨_, _, _, rfl⟩⟩
/-- Every condition and every combination of PCMP. -/
theorem witness_PredicateComparisons : ∀ n < 12, ∀ k < 3, base.Ready (opR (BitVec.ofNat 7 (16 * k + n))) ∧
    (opR (BitVec.ofNat 7 (16 * k + n))).fnBits 3 0 = n ∧ (opR (BitVec.ofNat 7 (16 * k + n))).fnBits 5 4 = k := fun n hn k hk =>
  ⟨ready_base _ rfl rfl, by revert n k; decide⟩
theorem witness_PredicateLogicAndMoves : base.Ready (opR 0) ∧ base.Ready (opI 0x41 1) ∧ base.Ready ⟨0, 0, 4, 0, 0, 0, .imx 1⟩ ∧
    base.Ready (opW 0 1) := ⟨ready_base _ rfl rfl, ready_base _ rfl rfl, ready_base _ rfl rfl, ready_base _ rfl rfl⟩

/-! Scalar floats. -/

theorem witness_ScalarFloatOperations : ∀ f : Nat, f < 4 → (withG [(5, 0x3F800000), (6, 0x40000000)]).Ready (opR (BitVec.ofNat 7 f)) ∧
    (f32.decode (f32In (withG [(5, 0x3F800000), (6, 0x40000000)]) 0x3F800000)).isNan = false ∧
    ((f32.decode 0x3F800000).mul (f32.decode 0x40000000)).1.isNan = false ∧ base.Ready (opW 0 0x3F800000) := fun f _ =>
  ⟨ready_withG _ _ rfl rfl, by decide, by decide, ready_base _ rfl rfl⟩
/-- Operands for each special result of R107: one by zero, zero by zero, infinities, a negative root, NaNs. -/
theorem witness_FloatSpecialResults : (f32.decode 0x3F800000).isNan = false ∧ (f32.decode 0x3F800000).isInf = false ∧
    (f32.decode 0x3F800000).isZero = false ∧ (f32.decode 0).isZero = true ∧ (f32.decode 0x80000000).isZero = true ∧
    (f32.decode 0x7F800000).isInf = true ∧ (f32.decode 0xBF800000).isNan = false ∧ (f32.decode 0xBF800000).isZero = false ∧
    (f32.decode 0x7FC00000).isNan = true ∧ (f32.decode 0x7F800001).isSig = true := by decide
theorem test_float : fpDiv f32 0x3F800000 0x80000000 = (0xFF800000, { dz := true }) ∧ fpSqrt f32 0x40800000 = (0x40000000, {}) ∧
    (f32.arith ((f32.decode 0x3F800000).add (f32.decode 0x40000000))).1 = 0x40400000 := by decide +kernel
theorem witness_FloatComparisonsAndConversions : ∀ n < 5, ∀ k < 3, base.Ready (opR (BitVec.ofNat 7 (16 * k + n))) ∧
    (opR (BitVec.ofNat 7 (16 * k + n))).fnBits 2 0 = n ∧ (opR (BitVec.ofNat 7 (16 * k + n))).fnBits 5 4 = k := fun n hn k hk =>
  ⟨ready_base _ rfl rfl, by revert n k; decide⟩
/-- R109's example: 0.8125 with exponent −3 is the SG8A code 0x2D, exactly; with 0 it is 0x74; 0.8203125 rounds to 0x74 and sets NX. -/
theorem test_fcvt : fmtEncode 0x18 0 (-3) (f32.decode 0x3F500000) = (0x2D, {}) ∧ fmtEncode 0x18 0 0 (f32.decode 0x3F500000) = (0x74, {}) ∧
    fmtEncode 0x18 0 0 (f32.decode 0x3F520000) = (0x74, { nx := true }) := by decide +kernel

/-! Control flow. -/

/-- A branch back by one word from offset 64, one before the plate, a call at depth 7 and at 8, a bad JMP register. -/
theorem witness_BranchesCallsAndReturns : (withCtx { ctx0 with off := 64 }).guarded1 (opI 0 0xFFFFFFF) ∧
    ((0 : Int) ≤ 64 + 4 * (0xFFFFFFF : BitVec 28).toInt ∧ 64 + 4 * (0xFFFFFFF : BitVec 28).toInt ≤ (8191 : Int)) ∧
    base.guarded1 (opI 0 0xFFFFFFF) ∧ 0 + 4 * (0xFFFFFFF : BitVec 28).toInt < (0 : Int) ∧
    (withCtx { ctx0 with links := List.replicate 7 (0, 8) }).cx.links.length < 8 ∧ (withCtx { ctx0 with links := List.replicate 7 (0, 8) }).guarded1 (opR 0) ∧
    8 ≤ (withCtx { ctx0 with links := List.replicate 8 (0, 8) }).cx.links.length ∧
    ((withG [(5, 0x7FFC)]).rg 5).toNat < 2 ^ 15 ∧ ((withG [(5, 0x7FFC)]).rg 5).toNat % 4 = 0 ∧ 2 ^ 15 ≤ ((withG [(5, 0x8000)]).rg 5).toNat ∧
    ((withG [(5, 2)]).rg 5).toNat % 4 ≠ 0 ∧ base.cx.links = [] ∧ (withCtx { ctx0 with links := [(1, 8)] }).cx.links = [(1, 8)] := by
  unfold State.guarded1; decide
/-- One level around 8 to 64: a target inside, one outside, and its END with count 2 and 1. -/
theorem witness_LoopLevelsAtABranch : ∃ k : Ctx, k.loops = [⟨8, 64, 2, 0⟩] ∧ (∀ l ∈ k.loops, l.lsd = k.links.length → l.start ≤ 16 ∧ 16 ≤ l.stop) ∧
    ¬(8 ≤ 72 ∧ 72 ≤ 64) ∧ k.links.length = 0 := ⟨{ loops := [⟨8, 64, 2, 0⟩] }, by decide⟩
/-- LOOP #3 over 16 words, one of count 0, and END behind the plate; a third level and one that the outer level does not contain. -/
theorem witness_HardwareLoops : base.guarded1 (opI 0x40 (16 + 3 * 2 ^ 11)) ∧ base.cx.off + 8 < base.cx.off + 4 * 16 ∧ base.cx.off + 4 * 16 ≤ 8192 ∧
    base.cx.loops = [] ∧ base.smooth 8 ∧ (3 : Nat) ≠ 0 ∧ base.cx.off + 4 * 2 ≤ base.cx.off + 8 ∧
    (withCtx { ctx0 with loops := [⟨0, 64, 2, 0⟩] }).cx.loops = [⟨0, 64, 2, 0⟩] ∧
    2 ≤ (withCtx { ctx0 with loops := [⟨0, 64, 2, 0⟩, ⟨0, 128, 2, 0⟩] }).cx.loops.length ∧
    8192 < (withCtx { ctx0 with off := 8184 }).cx.off + 4 * 16 := by
  unfold State.guarded1 State.smooth; decide
/-- Guards at 0: PG 0 with PN 1, and a false p1. -/
theorem witness_GuardedOffAndNoOperation : guardOn ⟨0, 1, 0, 0, 0, 0, .reg 0 0⟩ base.cx = false ∧ guardOn ⟨1, 0, 0, 0, 0, 0, .reg 0 0⟩ base.cx = false ∧
    base.smooth 8 ∧ base.smooth 4 ∧ codeOf (.gstop ⟨0, 1, 0, 0, 0, 0, .reg 0 0⟩) = some (0xFB, ⟨0, 1, 0, 0, 0, 0, .reg 0 0⟩) ∧
    (withCtx { ctx0 with priv := true }).cx.priv = true := by
  unfold State.smooth; decide

/-! Ends of activations and exceptions. -/

/-- With nothing to issue, and with one entry. -/
theorem witness_CommitOfAnActivation : base.cur = .ctx 0 0 ∧ base.guarded1 (opR 0) ∧ base.cx.trap = none ∧ base.cx.out = [] ∧
    (withCtx { ctx0 with out := [{ act := .mts 0x110 1 }] }).cx.out ≠ [] ∧ (withCtx { ctx0 with out := [{ act := .mts 0x110 1 }] }).guarded1 (opR 0) ∧
    base.cx.act.fid = some 0 ∧ (base.core 0).fpoison = [] := by unfold State.guarded1; decide
theorem witness_AbortOfAnActivation : base.cur = .ctx 0 0 ∧ base.guarded1 (opR 0) ∧ base.cx.trap = none := by unfold State.guarded1; decide
theorem witness_ExceptionEntersHandler : (withCore { core0 with tvec := 0x8000 }).cur = .ctx 0 0 ∧ (withCore { core0 with tvec := 0x8000 }).cx.trap = none ∧
    (((withCore { core0 with tvec := 0x8000 }).core 0).tvec).getLsbD 15 = true ∧ 0 < 4 := by decide
theorem witness_ExceptionRaisesRecords : base.cur = .ctx 0 0 ∧ base.cx.trap = none ∧ (base.core 0).tvec.getLsbD 15 = false ∧
    (withCtx { ctx0 with trap := some ⟨{}, 1, 0, 0⟩ }).cx.trap = some ⟨{}, 1, 0, 0⟩ := by decide
theorem witness_TrapAndBreakpoint : base.guarded1 (opI 0x40 0x0A) ∧ (opI 0x40 0x0A).extBits 7 0 = 0x0A ∧ (0x08 ≤ 0x0A ∧ 0x0A ≤ 0x1B) ∧
    base.guarded1 (opI 0x40 0x06) ∧ ¬((0x01 ≤ 0x06 ∧ 0x06 ≤ 0x05) ∨ (0x08 ≤ 0x06 ∧ 0x06 ≤ 0x1B)) := by unfold State.guarded1; decide
theorem witness_ReturnFromException : (withCtx { ctx0 with trap := some ⟨{}, 1, 0, 0⟩ }).guarded1 (opR 0) ∧
    (withCtx { ctx0 with trap := some ⟨{}, 1, 0, 0⟩ }).cx.out = [] ∧
    (withCtx { ctx0 with trap := some ⟨{}, 1, 0, 0⟩, out := [{ act := .mts 0x110 1 }] }).cx.out ≠ [] ∧ base.guarded1 (opR 0) ∧
    base.cx.trap = none := by unfold State.guarded1; decide

/-! Witnesses: loads, stores and atomics. -/

/-- Byte `off` of the own scratchpad through its own-cluster address (R153). -/
abbrev own (off : Nat) : Word := BitVec.ofNat 64 (0x8000000080000000 + off)
/-- Cluster 0 with a page of 64 KiB at 0 that may be read and written, at physical 0x100000. -/
def paged : State :=
  { base with clusters := [(0, { loaded := true, gen := 1, ptroot := 0x8000000000000000
                                 tlb := [{ gen := 1, va := 0, size := 0x10000, pa := 0x100000, attr := 0x30 }] })] }
/-- The same with registers, and with line 0x4000 in the L1. -/
def pagedG (l : List (Nat × Word)) : State := { paged with cores := [(0, { core0 with ctxs := [(0, { ctx0 with g := l })] })] }
def cached (l : List (Nat × Word)) : State :=
  { paged with cores := [(0, { core0 with ctxs := [(0, { ctx0 with g := l })], l1 := [(0x4000, some { data := [1, 2, 3, 4], valid := 255 })] })] }

theorem plainSpad0 : (withG [(5, own 8)]).PlainSpad (own 8).toNat 8 8 true false :=
  by constructor <;> decide
theorem plainFrame0 : (withG [(5, 248)]).PlainFrame 0 248 8 := by constructor <;> decide

/-- The last word of the own frame, a word of the own scratchpad, a word of a cached line, and the last word of the inbox. -/
theorem witness_ScalarLoads : (withG [(5, 248)]).Ready (opI 0x4B 0) ∧ (memAddr (opI 0x4B 0) (withG [(5, 248)]).cx).toNat = 248 ∧
    (opI 0x4B 0).fnBits 4 3 = 1 ∧ 2 ^ ((opI 0x4B 0).fnBits 2 0 % 4) = 8 ∧ (withG [(5, 248)]).PlainFrame 0 248 8 ∧
    (withG [(5, own 8)]).Ready (opI 0x43 0) ∧ (opI 0x43 0).fnBits 4 3 = 0 ∧ (withG [(5, own 8)]).PlainSpad (own 8).toNat 8 8 true false ∧
    spaceOf (cached [(5, 0)]).cur.cl 0 = .virt 0 ∧ (cached [(5, 0)]).watchHit 0 4 true false = none ∧
    (cached [(5, 0)]).xlateCx .read 0 = .at_ (.mem 0x100000) ∧
    (cached [(5, 0)]).l1Line 0 0 0x4000 = some { data := [1, 2, 3, 4], valid := 255 } ∧
    (cached [(5, 0)]).l1Core 0 0x4000 = 0 ∧ (∀ i, i < 4 → (255 : Nat).testBit ((0x100000 + i) % 64 / 8) = true) ∧
    216 % 8 = 0 ∧ 216 + 8 ≤ 224 ∧ base.cx.act.bad = false :=
  ⟨ready_withG _ _ rfl rfl, by decide, by decide, by decide, plainFrame0, ready_withG _ _ rfl rfl, by decide, plainSpad0, by decide, by decide, rfl,
    by and_intros <;> decide⟩
/-- An address of no space, a misaligned one, another cluster's scratchpad, the end of the frame and of the inbox, a channel activation. -/
theorem witness_LoadTraps : base.guarded1 (opI 0x4B 0) ∧ spaceOf 0 (2 ^ 60) = .none ∧ spaceOf 0 0x8000000080000001 ≠ .none ∧
    0x8000000080000001 % 8 ≠ 0 ∧ spaceOf 0 0x8000000000400000 = .spad 1 0 ∧ base.watchHit 0x8000000000400000 8 true false = none ∧
    (withCtx { ctx0 with act := {} }).cx.act.fid = none ∧ base.cx.act.fid = some 0 ∧ 249 % 8 ≠ 0 ∧
    256 * (((base.core 0).fent 0).len + 1) < 256 + 8 ∧ 224 < 224 + 8 := by unfold State.guarded1; decide
theorem witness_LoadMissReplays : (pagedG [(5, 0)]).guarded1 (opI 0x43 0) ∧ (memAddr (opI 0x43 0) (pagedG [(5, 0)]).cx).toNat = 0 ∧
    spaceOf (pagedG [(5, 0)]).cur.cl 0 = .virt 0 ∧ (pagedG [(5, 0)]).xlateCx .read 0 = .at_ (.mem 0x100000) ∧
    (pagedG [(5, 0)]).watchHit 0 8 true false = none ∧ (pagedG [(5, 0)]).l1Line 0 0 0x4000 = none ∧
    (pagedG [(5, 0)]).hasWay 0 ((pagedG [(5, 0)]).pinned 0 0) 0x4000 = true ∧ ((pagedG [(5, 0)]).pinned 0 0).length + 0 < 64 ∧ (pagedG [(5, 0)]).cx.trap = none :=
  ⟨by unfold State.guarded1; decide, by decide, by decide, rfl, by decide, by decide, by decide +kernel, by and_intros <;> decide⟩
/-- All lanes of m0 but lane 0 off. -/
def oneLane (l : List (Nat × Word)) : State := withCtx { ctx0 with g := l, m := [(0, 1)] }
theorem witness_VectorLoads : (oneLane [(5, 252)]).Ready (opI 0x60 0) ∧ (opI 0x60 0).fnBits 5 5 = 1 ∧ vecBytes (opI 0x60 0) = 4 ∧
    vecActive (opI 0x60 0) (oneLane [(5, 252)]) = [0] ∧
    ((memAddr (opI 0x60 0) (oneLane [(5, 252)]).cx + BitVec.ofNat 64 (4 * 0)).toNat = 252 ∧ (oneLane [(5, 252)]).PlainFrame 0 252 4) ∧
    (oneLane [(5, own 8)]).Ready (opI 0x40 0) ∧ (opI 0x40 0).fnBits 5 5 = 0 ∧ vecActive (opI 0x40 0) (oneLane [(5, own 8)]) = [0] ∧
    (oneLane [(5, own 8)]).PlainSpad (own 8).toNat 4 8 true false ∧
    (oneLane [(5, own 8)]).Ready (opR 0) ∧ vecActive (opR 0) (oneLane [(5, own 8)]) = [0] ∧
    ((oneLane [(5, own 8)]).rg 5 + BitVec.ofNat 64 0 * (oneLane [(5, own 8)]).rg 6) = own 8 ∧
    ((oneLane [(5, own 8)]).rg 5 + BitVec.ofNat 64 (4 * vElem ((oneLane [(5, own 8)]).rv 6) 4 0)) = own 8 :=
  ⟨ready_withCtx _ _ rfl rfl rfl, by decide, by decide, by decide, ⟨by decide, by constructor <;> decide⟩,
    ready_withCtx _ _ rfl rfl rfl, by decide, by decide, by constructor <;> decide,
    ready_withCtx _ _ rfl rfl rfl, by decide, by decide, by decide +kernel⟩
theorem witness_ScalarStores : (withG [(5, 248)]).Ready (opI 0x4B 0) ∧ (opI 0x4B 0).fnBits 4 3 = 1 ∧ (withG [(5, 248)]).cx.act.fid = some 0 ∧ 248 % 8 = 0 ∧
    248 + 8 ≤ 256 * ((((withG [(5, 248)]).core 0).fent 0).len + 1) ∧ (withG [(5, 248)]).cx.fw.length < 32 ∧
    (withG [(5, own 8)]).Ready (opI 0x43 0) ∧ (opI 0x43 0).fnBits 4 3 = 0 ∧
    (withG [(5, own 8)]).placeElem .write false true (own 8).toNat 8 = .at_ (.spad 0 8) ∧ (withG [(5, own 8)]).outRoom 1 ∧
    (withG [(5, own 9)]).placeElem .write false true (own 9).toNat 8 = .trap 0x03 (own 9).toNat ∧
    (withCtx { ctx0 with out := List.replicate 48 { act := .mts 0x110 1 } }).cx.out.length = 48 :=
  ⟨ready_withG _ _ rfl rfl, by decide, by decide, by decide, by decide, by decide, ready_withG _ _ rfl rfl, by decide, rfl,
    by unfold State.outRoom; decide, rfl, by decide⟩
theorem witness_PlacesOfStores : spaceOf 0 (2 ^ 60) = .none ∧ spaceOf 0 (own 1).toNat ≠ .none ∧ (own 1).toNat % 8 ≠ 0 ∧
    (withCore { core0 with watches := [(0, { mode := 2, base := (own 8).toNat, len := 8 })] }).watchHit (own 8).toNat 8 false true = some (own 8).toNat ∧
    spaceOf 0 (own 8).toNat = .spad 0 8 ∧ base.watchHit (own 8).toNat 8 false true = none ∧ spaceOf paged.cur.cl 8 = .virt 8 ∧
    (paged.cluster 0).ptroot.getLsbD 63 = true ∧
    (paged.cluster 0).tlb.find? (fun e => e.gen == paged.cx.gen && decide (e.va ≤ 8) && decide (8 < e.va + e.size)) =
      some { gen := 1, va := 0, size := 0x10000, pa := 0x100000, attr := 0x30 } ∧
    (0x30 : Nat).testBit 5 = true ∧ (0x30 : Nat).testBit 11 = false ∧ (0x30 : Nat).testBit 6 = false ∧ (0x30 : Nat).testBit 10 = false ∧
    (0x30 : Nat).testBit 7 = false ∧ (0x10 : Nat).testBit 5 = false ∧ 0x100000 + (8 - 0) < 2 ^ 48 := by decide
theorem witness_VectorStores : (oneLane [(5, 252)]).Ready (opI 0x60 0) ∧ (opI 0x60 0).fnBits 5 5 = 1 ∧ vecActive (opI 0x60 0) (oneLane [(5, 252)]) = [0] ∧
    (contiguous (opI 0x60 0) (oneLane [(5, 252)]) 0).toNat % 4 = 0 ∧
    (contiguous (opI 0x60 0) (oneLane [(5, 252)]) 0).toNat + 4 ≤ 256 * ((((oneLane [(5, 252)]).core 0).fent 0).len + 1) ∧
    (oneLane [(5, 252)]).cx.fw.length + 1 ≤ 32 ∧
    32 < (withCtx { ctx0 with fw := List.replicate 32 [(0, 0)], m := [(0, 1)] }).cx.fw.length + 1 ∧
    (oneLane [(5, own 8)]).Ready (opI 0x40 0) ∧ (opI 0x40 0).fnBits 5 5 = 0 ∧ (oneLane [(5, own 8)]).outRoom 1 ∧
    (oneLane [(5, own 8)]).PlainSpad (contiguous (opI 0x40 0) (oneLane [(5, own 8)]) 0).toNat 4 8 false true ∧
    (oneLane [(5, own 8)]).PlainSpad (indexed (opR 0) (oneLane [(5, own 8)]) 0).toNat 4 8 false true ∧
    ¬(withCtx { ctx0 with out := List.replicate 48 { act := .mts 0x110 1 } }).outRoom 1 :=
  ⟨ready_withCtx _ _ rfl rfl rfl, by decide, by decide, by decide, by decide, by decide, by decide, ready_withCtx _ _ rfl rfl rfl, by decide,
    by unfold State.outRoom; decide, by constructor <;> decide,
    by constructor <;> decide +kernel, by unfold State.outRoom; decide⟩
/-- An own-frame destination at its last word and behind it; an address in the own scratchpad, a misaligned one, an unreadable page. -/
theorem witness_SplitPhaseLoads : (withG [(5, own 8)]).Ready (opR 3 (31 * 2 ^ 9)) ∧ (withG [(5, own 8)]).cx.act.fid = some 0 ∧
    ((withG [(5, own 8)]).rg 5 + (withG [(5, own 8)]).rg 7).toNat = (own 8).toNat ∧ (opR 3 (31 * 2 ^ 9)).modBits 58 50 = 31 ∧
    31 + 1 ≤ (withG [(5, own 8)]).ownWords 0 ∧ (withG [(5, own 8)]).ownWords 0 < 32 + 1 ∧ (opR 3 (32 * 2 ^ 9)).modBits 58 50 = 32 ∧
    (withG [(5, own 8)]).placeKept .read false (own 8).toNat 8 = .at_ ((List.range 8).map fun i => .spad 0 (8 + i)) 0 ∧
    (withG [(5, own 8)]).outRoom 1 ∧ (own 9).toNat % 8 ≠ 0 ∧
    ({ paged with clusters := [(0, { loaded := true, gen := 1 })] } : State).xlateCx .read 0 = .fault 0x08 :=
  ⟨ready_withG _ _ rfl rfl, by decide, by decide, by decide, by decide, by decide, by decide, rfl, by unfold State.outRoom; decide, by decide, rfl⟩
theorem witness_PrefetchFencesAndWindows : (withG [(5, own 8)]).Ready (opI 0x40 0) ∧ 2 ^ 60 ≤ (memAddr (opI 0x40 0) (withG [(5, own 8)]).cx).toNat ∧
    (pagedG [(5, 8)]).Ready (opI 0x40 0) ∧ (memAddr (opI 0x40 0) (pagedG [(5, 8)]).cx).toNat = 8 ∧ (opI 0x40 0).fnBits 0 0 = 0 ∧
    (pagedG [(5, 8)]).placeNow (pagedG [(5, 8)]).accessor .read 8 = .ok (.mem 0x100008, pagedG [(5, 8)]) ∧
    (base.core 0).l1mode = false ∧ base.Ready (opD 0 3 (2 ^ 9 + 8 * 2 ^ 18)) ∧
    wbits (2 ^ 9 + 8 * 2 ^ 18 : Word) 8 0 ≤ wbits (2 ^ 9 + 8 * 2 ^ 18 : Word) 17 9 ∧ wbits (1 : Word) 17 9 < wbits (1 : Word) 8 0 ∧
    65536 < wbits (0xFFFF * 2 ^ 18 + 2 ^ 34 : Word) 33 18 + wbits (0xFFFF * 2 ^ 18 + 2 ^ 34 : Word) 49 34 + 1 ∧ base.outRoom 1 :=
  ⟨ready_withG _ _ rfl rfl, by decide, ready_of _ _ (by decide) (by decide), by decide, by decide, rfl, by decide, ready_base _ rfl rfl, by decide, by decide,
    by decide, by unfold State.outRoom; decide⟩

/-! Witnesses: signals, messages, frames, channels, write-once words. -/

theorem room_base : base.outRoom 1 := by unfold State.outRoom; decide
theorem room_withG (l : List (Nat × Word)) : (withG l).outRoom 1 := by unfold State.outRoom; exact (by decide : 0 + 1 ≤ 48)
/-- A context whose outbound buffer is full. -/
def full : State := withCtx { ctx0 with g := [(5, own 8)], out := List.replicate 48 { act := .mts 0x110 1 } }
theorem room_full : ¬full.outRoom 1 := by unfold State.outRoom; decide

/-- AMO.add of 8 bytes with NR, into a full buffer, with a result in the last frame word and one behind it; AMOF, CAS of 16 and of 32 bytes. -/
theorem witness_AtomicsTakeAnEntry : (withG [(5, own 8)]).Ready (opR 3 (2 ^ 20)) ∧ (opR 3 (2 ^ 20)).modBits 61 61 = 1 ∧ (own 8).toNat % 8 = 0 ∧
    (opR 3 (2 ^ 20)).fnBits 5 3 = 0 ∧ 2 ^ ((opR 3 (2 ^ 20)).fnBits 2 0 % 4) = 8 ∧
    (withG [(5, own 8)]).placeElem .atomic true true (own 8).toNat 8 = .at_ (.spad 0 8) ∧ (withG [(5, own 8)]).outRoom 1 ∧
    full.placeElem .atomic true true (own 8).toNat 8 = .at_ (.spad 0 8) ∧ ¬full.outRoom 1 ∧
    (withG [(5, 2 ^ 60)]).placeElem .atomic true true (2 ^ 60) 8 = .trap 0x08 (2 ^ 60) ∧ (own 9).toNat % 8 ≠ 0 ∧
    (opR 3 0).modBits 61 61 ≠ 1 ∧ (withCtx { ctx0 with act := {} }).cx.act.fid = none ∧ base.cx.act.fid = some 0 ∧
    (opR 3 (31 * 2 ^ 9)).modBits 58 50 = 31 ∧ 31 + max 1 (8 / 8) ≤ base.ownWords 0 ∧ base.ownWords 0 < 32 + max 1 (8 / 8) ∧
    (withG [(5, own 8)]).placeKept .atomic true (own 8).toNat 8 = .at_ ((List.range 8).map fun i => .spad 0 (8 + i)) 0 ∧
    (opR 0x2A).fnBits 4 0 = 0x0A ∧ (opR 0x2A).fnBits 6 5 = 1 ∧ (opR 8).fnBits 3 3 = 1 :=
  ⟨ready_withG _ _ rfl rfl, by decide, by decide, by decide, by decide, rfl, room_withG _, rfl, room_full, rfl, by decide, by decide, by decide, by decide,
    by decide, by decide, by decide, rfl, by and_intros <;> decide⟩
/-- SELF, a reference to core 3 of the own cluster, a bad one, counts 0, 1, 65,535 and 65,536. -/
theorem witness_SlotActionsTakeAnEntry : base.Ready (opR 0 (2 ^ 13)) ∧ (opR 0 (2 ^ 13)).modBits 54 54 = 1 ∧ base.cx.act.fid = some 0 ∧ base.outRoom 1 ∧
    (withG [(5, 0x30002), (6, 65535)]).Ready (opR 0) ∧ (opR 0).modBits 54 54 ≠ 1 ∧ (withG [(5, 0x30002), (6, 65535)]).refOk 0x30002 = true ∧
    ((withG [(5, 0x30002), (6, 65535)]).rg 6).toNat ≤ 65535 ∧ 0 < ((withG [(5, 0x30002), (6, 65535)]).rg 6).toNat ∧ (base.rg 6).toNat = 0 ∧
    65535 < ((withG [(5, 0x30002), (6, 65536)]).rg 6).toNat ∧ base.guarded1 (opR 0) ∧ base.refOk 0x100000 = false ∧ base.refOk 0x1000 = false ∧
    (withCtx { ctx0 with act := {} }).cx.act.fid = none :=
  ⟨ready_base _ rfl rfl, by decide, by decide, room_base, ready_withG _ _ rfl rfl, by decide, by decide, by decide, by decide, by decide, by decide,
    by unfold State.guarded1; decide, by and_intros <;> decide⟩
/-- Two references, of which the first is good; all sixteen into a buffer of 33 entries. -/
def refs2 : State := withCtx { ctx0 with v := [(6, 0x1000 * 2 ^ 64 + 0x30002)], m := [(7, 0x101)] }
/-- The references that SIGV of v6 under m7 takes. -/
def taken2 : List Word := ((List.range 16).filter fun i => (refs2.rm (opR 0).form.c.toNat).getLsbD (8 * i)).map
  (fun i => BitVec.ofNat 64 ((refs2.rv (opR 0).b.toNat).toNat / 2 ^ (64 * i)))
theorem taken2_eq : taken2 = [0x30002] ++ 0x1000 :: [] := by decide +kernel
theorem witness_VectorOfSignals : refs2.Ready (opR 0) ∧ taken2 = [0x30002] ++ 0x1000 :: [] ∧ refs2.refOk 0x30002 = true ∧
    refs2.refOk 0x1000 = false ∧ refs2.refOk 0 = true ∧ refs2.outRoom 2 ∧
    ¬(withCtx { ctx0 with out := List.replicate 33 { act := .mts 0x110 1 } }).outRoom 16 :=
  ⟨ready_of _ _ (by decide +kernel) (by decide +kernel), taken2_eq, by decide, by decide, by decide, by unfold State.outRoom; decide +kernel,
    by unfold State.outRoom; decide +kernel⟩
/-- Class 3 from user mode, class 1 of a privileged forme and of another, 28 words and 29, the last words of the frame. -/
theorem witness_MessagesTakeAnEntry : base.Ready (opD 0 0 0xB002700) ∧ base.outRoom 1 ∧ base.cx.act.fid = some 0 ∧
    (opD 0 0 0xB002700).extBits 10 6 = 28 ∧ (opD 0 0 0xB002700).extBits 19 11 = 4 ∧ (opD 0 0 0xB002700).extBits 26 24 = 3 ∧
    (opD 0 0 0xB002700).extBits 27 27 = 1 ∧ 4 + 28 ≤ base.ownWords 0 ∧
    (opD 0 0 0xB000013800).extBits 13 9 = 28 ∧ (opD 0 0 0xB000013800).extBits 22 14 = 4 ∧ (opD 0 0 0xB000013800).extBits 38 36 = 3 ∧
    (opD 0 0 0xB000013800).extBits 39 39 = 1 ∧ (opR 0 (2 ^ 13 + 2 ^ 11)).modBits 53 51 = 2 ∧ (opR 0 (2 ^ 13 + 2 ^ 11)).modBits 54 54 = 1 ∧
    28 < (opD 0 0 (29 * 2 ^ 6)).extBits 10 6 ∧ 28 < (opD 0 0 (29 * 2 ^ 9)).extBits 13 9 ∧ (opD 0 0 (2 ^ 24)).extBits 26 24 < 2 ∧ base.cx.priv = false ∧
    (withCtx { ctx0 with priv := true }).cx.priv = true ∧ (opR 0).modBits 53 51 < 2 :=
  ⟨ready_base _ rfl rfl, room_base, by and_intros <;> decide⟩
theorem witness_FramesAndChannelsTakeAnEntry : base.Ready (opR 0 (2 ^ 13)) ∧ base.outRoom 1 ∧ base.cx.act.fid = some 0 ∧ (opR 0 (2 ^ 13)).modBits 54 54 = 1 ∧
    base.Ready (opR 0) ∧ (opR 0).modBits 54 54 ≠ 1 ∧ base.refOk 5 = true ∧ refRem 5 = false ∧ refCore 5 = 0 ∧ base.refOk 0x30002 = true ∧ refCore 0x30002 ≠ 0 ∧
    base.refOk 0x1000 = false ∧ (withCtx { ctx0 with act := {} }).cx.act.fid = none :=
  ⟨ready_base _ rfl rfl, room_base, by decide, by decide, ready_base _ rfl rfl, by and_intros <;> decide⟩
theorem witness_WriteOnceLogAndTimers : base.Ready (opR 0) ∧ base.outRoom 1 ∧ base.cx.act.fid = some 0 ∧ (own 9).toNat % 8 ≠ 0 ∧ (own 8).toNat % 8 = 0 ∧
    spaceOf base.cur.cl (own 8).toNat = .spad 0 8 ∧ spaceOf paged.cur.cl 8 = .virt 8 ∧ paged.xlateCx .write 8 = .at_ (.mem 0x100008) ∧
    paged.xlateCx .read 8 = .at_ (.mem 0x100008) ∧ base.xlateCx .write 8 = .fault 0x08 ∧ (opR 0).modBits 50 50 = 0 ∧ (opR 0 (2 ^ 9)).modBits 50 50 ≠ 0 :=
  ⟨ready_base _ rfl rfl, room_base, by decide, by decide, by decide, by decide, by decide, rfl, rfl, rfl, by and_intros <;> decide⟩

/-! Witnesses: vector instructions. -/

theorem agreed_withCtx (k : Ctx) : (withCtx k).Agreed := fun c x h => by cases h; rfl
theorem agreed_base : base.Agreed := agreed_withCtx ctx0

/-- Every integer type, wrapping and limited. -/
theorem witness_VectorIntegers : base.Agreed ∧ (∀ f ∈ [4, 5, 6, 7, 32, 33, 34, 35], (vtyOf f).flt = none ∧
    base.Ready (opR (BitVec.ofNat 7 f)) ∧ (opR (BitVec.ofNat 7 f)).fn6 = f) ∧ opf (opR 4) = 0 ∧ opf (opR 4 (2 ^ 4)) = 1 :=
  ⟨agreed_base, fun f h => ⟨by revert f; decide, ready_base _ rfl rfl, by revert f; decide⟩, by and_intros <;> decide⟩
theorem witness_VectorFloats : base.Agreed ∧ base.Ready (opR 10) ∧ vtyOf (opR 10).fn6 = ⟨32, false, some f32⟩ ∧ base.Ready (opR 12) ∧
    vtyOf (opR 12).fn6 = ⟨16, false, some bf16⟩ ∧ base.Ready (opR 13) ∧ vtyOf (opR 13).fn6 = ⟨16, false, some f16⟩ :=
  ⟨agreed_base, ready_base _ rfl rfl, rfl, ready_base _ rfl rfl, rfl, ready_base _ rfl rfl, rfl⟩
theorem witness_VectorComparesAndMasks : base.Agreed ∧ (∀ c < 7, ∀ k < 3, base.Ready (opR 10 (BitVec.ofNat 23 ((16 * k + c) * 16))) ∧
    opf (opR 10 (BitVec.ofNat 23 ((16 * k + c) * 16))) % 16 = c ∧ opf (opR 10 (BitVec.ofNat 23 ((16 * k + c) * 16))) / 16 = k) ∧
    base.Ready (opR 32) ∧ opf (opR 32) = 0 ∧ opf (opR 32 (2 ^ 4)) = 1 :=
  ⟨agreed_base, fun c hc k hk => ⟨ready_base _ rfl rfl, by revert c k; decide⟩, ready_base _ rfl rfl, by and_intros <;> decide⟩
/-- BF16 lanes and SG4A elements: part 1 is the last of two, part 2 is out of range; F32 lanes and F8E4: part 3 is the last of four. -/
theorem witness_VectorConversions : base.Agreed ∧ fmtBits 0x19 = 8 ∧ fmtBits 0x18 = 8 ∧ base.Ready (opR 0x18 (2 ^ 12)) ∧ (opR 0x18 (2 ^ 12)).modBits 57 53 = 1 ∧
    (opR 0x18 (2 ^ 12)).fnBits 4 0 = 0x18 ∧ opf (opR 0x18 (2 ^ 12)) % 8 = 0 ∧ (laneTy 0).w = 32 ∧ 8 ≤ (laneTy 0).w ∧
    min (1024 / (laneTy 0).w) (1024 / 8) = 32 ∧ (3 + 1) * 32 * 8 ≤ 1024 ∧ 1024 < (4 + 1) * 32 * 8 ∧ sameType 0x18 0 = false ∧ (0x18 : Nat) ≠ 0x0A :=
  ⟨agreed_base, by decide, by decide, ready_base _ rfl rfl, by and_intros <;> decide⟩
/-- VTBL of F32 with one segment, scale 1 and offset 0, and the table address in g5. -/
abbrev tblO : Ops := opD 10 0 0x3F800000
/-- A table of one segment at the last word of the scratchpad: the instruction is well formed and completes. -/
theorem runs_vtbl (h : Obligations.TableInterpolation) : WellFormed (.vtbl ⟨0, 0, 4, 5, 6, 10, .desc 0 0 0x3F800000⟩) = true ∧
    ∃ t, exec (.vtbl tblO) (withG [(5, own 0x3FFFF8)]) = .next t := by
  refine ⟨by decide, ?_⟩
  obtain ⟨v, e, _⟩ := ((h (withG [(5, own 0x3FFFF8)]) tblO 0 0 (own 0x3FFFF8).toNat 1 0x3FFFF8 _ rfl (ready_withG _ _ rfl rfl) (agreed_withCtx _) rfl
    ⟨_, _, _, rfl⟩ rfl rfl).2.2.2 (by decide) (by decide) (by decide)
    (fun k hk => by obtain rfl : k = 0 := by omega
                    constructor <;> decide) rfl).1 rfl
  exact ⟨_, e⟩
/-- A table in no scratchpad, a misaligned one, and one of two segments whose second is behind the scratchpad. -/
theorem traps_vtbl (h : Obligations.TableInterpolation) :
    exec (.vtbl tblO) (withG [(5, 8)]) = .next ((withG [(5, 8)]).trapNow 0x09 8) ∧
    exec (.vtbl tblO) (withG [(5, own 9)]) = .next ((withG [(5, own 9)]).trapNow 0x03 (own 9).toNat) ∧
    exec (.vtbl (opD 10 (2 ^ 4) 0x3F800000)) (withG [(5, own 0x3FFFF8)]) = .next ((withG [(5, own 0x3FFFF8)]).trapNow 0x09 (own 0x3FFFF8).toNat) :=
  ⟨(h _ tblO 0 0 8 1 0 _ rfl (ready_withG _ _ rfl rfl) (agreed_withCtx _) rfl ⟨_, _, _, rfl⟩ rfl rfl).1 (fun _ _ e => nomatch e),
   (h _ tblO 0 0 (own 9).toNat 1 9 _ rfl (ready_withG _ _ rfl rfl) (agreed_withCtx _) rfl ⟨_, _, _, rfl⟩ rfl rfl).2.1 (by decide) (by decide),
   (h _ (opD 10 (2 ^ 4) 0x3F800000) 0 0 (own 0x3FFFF8).toNat 2 0x3FFFF8 _ rfl (ready_withG _ _ rfl rfl) (agreed_withCtx _) rfl ⟨_, _, _, rfl⟩ rfl rfl).2.2.1
     (by decide) (by decide) (by decide)⟩
/-- R190 by hand: segment 1.0, 2.0 at index 0.5 gives 1.0 + 2.0 · 0.5. -/
def tabled : State :=
  { withCtx { ctx0 with g := [(5, own 0x40)], v := [(6, 0x3F000000)], m := [(0, 15)] } with
    clusters := [(0, { loaded := true, gen := 1, spad := storeBytes [] 0x40 (bytesOfNat 8 0x400000003F800000) })] }
theorem test_vtbl : (match exec (.vtbl tblO) tabled with
    | .next t => decide (elem (t.rv 4) 32 0 = 0x40000000)
    | _ => false) = true := by decide +kernel
/-- Index at the last lane and behind it; both directions of a slide. -/
theorem witness_VectorMoves : base.Agreed ∧ (withG [(6, 31)]).Ready (opR 32) ∧ (if opf (opR 32) / 128 = 1 then (opR 32).extBits 31 16 else
    ((withG [(6, 31)]).rg 6).toNat) = 31 ∧ 31 < (vtyOf 32).lanes ∧ (vtyOf 32).lanes ≤ 32 ∧ (withG [(6, 32)]).Ready (opR 32) ∧ opf (opR 32) % 2 = 0 ∧
    opf (opR 32 (2 ^ 4)) % 2 = 1 ∧ opf (opR 32) = 0 ∧ opf (opR 32 (2 ^ 4)) = 1 :=
  ⟨agreed_base, ready_withG _ _ rfl rfl, by decide, by decide, by decide, ready_withG _ _ rfl rfl, by and_intros <;> decide⟩
theorem witness_ReductionsScansAndDots : base.Agreed ∧ (∀ k < 6, base.Ready (opR 33 (BitVec.ofNat 23 (16 * k))) ∧ opf (opR 33 (BitVec.ofNat 23 (16 * k))) % 8 = k) ∧
    (vtyOf (opR 33).fn6).flt = none ∧ base.Ready (opR 10) ∧ (vtyOf (opR 10).fn6).flt = some f32 ∧ opf (opR 33) = 0 ∧ opf (opR 33 16) = 1 :=
  ⟨agreed_base, fun k hk => ⟨ready_base _ rfl rfl, by revert k; decide⟩, rfl, ready_base _ rfl rfl, rfl, by and_intros <;> decide⟩
/-- A heap of four; of a column for each of six elements from v26 on, which ends at v31, and from v31 on, which does not. -/
theorem witness_HeapSifts : base.Agreed ∧ base.Ready (opX 10 (3 * 16) 6) ∧ opf (opX 10 (3 * 16) 6) + 1 = 4 ∧ 4 ≤ 16 ∧
    base.Ready ⟨0, 0, 26, 2, 9, 10, .xtd (4 * 16) 0 6⟩ ∧ vcount ⟨0, 0, 26, 2, 9, 10, .xtd (4 * 16) 0 6⟩ base 32 = 6 ∧ 26 + (6 * 2 ^ 4 + 15) / 16 ≤ 32 ∧
    32 < 31 + (6 * 2 ^ 4 + 15) / 16 ∧ vactives ⟨0, 0, 8, 2, 9, 10, .xtd (2 * 16) 0 1⟩ (withCtx { ctx0 with m := [(0, 1)] }) (vtyOf 10) = [0] :=
  ⟨agreed_base, ready_base _ rfl rfl, by decide, by decide, ready_base _ rfl rfl, by and_intros <;> decide⟩
/-- R200's example: the final lanes 0–3 of v8. -/
theorem test_hsift : ([(0x40400000, 10), (0x3F800000, 11), (0x40400000, 12), (0x40A00000, 13), (0x40000000, 14), (0x3F000000, 15)].foldl
    (fun h (x : Nat × Nat) => offer ⟨10, false⟩ 4 h x.1 x.2) (List.replicate 4 (0xFFFFFFFF00000000 : Word))) =
    [0x0000000E40000000, 0x0000000A40400000, 0x0000000C40400000, 0x0000000D40A00000] := by decide +kernel

/-! Witnesses: matrix regions, state banks, engines, collectives, views, system instructions. -/

/-- Endpoints in own scratchpad row 0; F16 by F16, K 64, depth 37, as in R218's example. -/
theorem witness_MatrixCommandsTakeAnEntry : base.Ready (opD 0 9 0x12810001AD) ∧ base.outRoom 1 ∧ (opD 0 9 0x12810001AD).modBits 54 54 ≠ 1 ∧
    base.cx.act.fid = some 0 ∧ (opD 0 (2 ^ 13) 0).modBits 54 54 = 1 ∧ bits 0x12810001AD 4 0 = 0x0D ∧ bits 0x12810001AD 9 5 = 0x0D ∧
    base.noFmt 0x0D = false ∧ bits 0x12810001AD 16 10 = 0 ∧ bits 0x12810001AD 23 17 = 0 ∧ bits 0x12810001AD 30 24 = 1 ∧ bits 0x12810001AD 43 31 = 37 ∧
    37 ≤ 32 * (1 + 1) ∧ 32 * (0 + 1) < 37 ∧ base.cx.geom.getLsbD 63 = false ∧ (withCtx { ctx0 with geom := 0x8000000024902431 }).cx.geom.getLsbD 63 = true ∧
    base.epCheck 0 (some 0) = none ∧ base.epCheck 0x1000000000000 (some 0) = some 0x09 ∧ ({ base with caps := 0x7D } : State).noFmt 0x12 = true ∧ bits 0x2D 11 5 ≠ 0 ∧ fmtSprig 0x0D = false ∧
    fmtSprig 0x18 = true ∧ base.noFmt 0x18 = false ∧ bits (5 * 2 ^ 5) 7 5 = 5 ∧ bits 0x10D 14 8 = 1 ∧ ({ base with cur := .ctx 5 0, cores := [(5, core0)] } : State).geomOk 0x8000000024902431 = true ∧
    base.geomOk 0x10000 = false :=
  ⟨ready_base _ rfl rfl, room_base, by and_intros <;> decide⟩
theorem witness_StateBankInstructions : base.Ready (opR 0) ∧ base.outRoom 1 ∧ (opR 0).modBits 54 54 ≠ 1 ∧ base.cx.act.fid = some 0 ∧
    wbits (own 8) 5 0 ≠ 0 ∧ wbits (own 0x3FFEC0) 5 0 = 0 ∧ spaceOf base.cur.cl (own 0x3FFEC0).toNat = .spad base.cur.cl 0x3FFEC0 ∧
    0x3FFEC0 + 320 ≤ 2 ^ 22 ∧ 2 ^ 22 < 0x3FFF00 + 320 ∧ wbits (own 0x3FFF00) 5 0 = 0 ∧ spaceOf base.cur.cl 64 = .virt 64 ∧
    wbits (0x200000 : Word) 63 21 ≠ 0 ∧ wbits (0x100000 : Word) 63 21 = 0 ∧ (0x100000 : Word).getLsbD 20 = true ∧ wbits (0x10000000 : Word) 31 28 ≠ 0 ∧
    (1 : Word).getLsbD 20 = false ∧ (base.cluster 1).loaded = false ∧ (base.cluster 0).loaded = true ∧ (base.cluster 0).gen = base.cx.gen ∧
    (0x20 : Nat).testBit 5 = true ∧ bits 0x20 4 0 = 0 ∧ bits 0x20 15 6 = 0 ∧ (0x0A : Nat).testBit 5 = false ∧ bits 0x0A 8 6 ≤ 4 ∧ base.noFmt 0x0A = false ∧
    bits 0x0A 15 9 = 0 ∧ 4 < bits 0x14A 8 6 ∧ base.epCheck 0 none = none :=
  ⟨ready_base _ rfl rfl, room_base, by and_intros <;> decide⟩
/-- A branch of port 3 of the instance. -/
def branchOf (b : Nat) : Stream :=
  { gen := 1, port := 3, branch := b, cls := 4, sfmt := 0, dfmt := 0, conv := false, pkind := 0, pcl := 0, punit := 0, ckind := 1, ccl := 0,
    cunit := 0, centres := [] }
/-- Good addresses and a bad one; a class of each kind; a port with two branches, and none. -/
theorem witness_EngineKicksTakeAnEntry : base.Ready (opR 0 (4 * 2 ^ 14)) ∧ base.outRoom 1 ∧ (opR 0 (4 * 2 ^ 14)).modBits 57 55 = 4 ∧
    (opR 0 (4 * 2 ^ 14)).modBits 54 54 ≠ 1 ∧ base.cx.act.fid = some 0 ∧ wbits (0x4000000000000000 : Word) 63 60 = 4 ∧ wbits (own 8) 63 60 = 8 ∧
    wbits (0 : Word) 63 60 = 0 ∧ wbits (0x1000000000000000 : Word) 63 60 = 1 ∧ (opR 0 (3 * 2 ^ 14)).modBits 57 55 = 3 ∧
    (opR 0 (1 * 2 ^ 14)).modBits 57 55 = 1 ∧ base.cx.priv = false ∧ base.branchesOk 0x303 = false ∧
    ({ base with streams := [branchOf 0, branchOf 1] } : State).branchesOk 0x303 = true :=
  ⟨ready_base _ rfl rfl, room_base, by and_intros <;> decide⟩
/-- CKICK: the last seven frame words, and seven that end behind them. -/
theorem witness_CkickWords : base.cx.act.fid = some 0 ∧ (opR 0 (25 * 2 ^ 14)).modBits 63 55 = 25 ∧ 25 + 7 ≤ base.ownWords 0 ∧ base.ownWords 0 < 26 + 7 ∧
    wbits ((base.frameWords 0 25 7).headD 0) 18 16 < 2 ∧ base.cx.priv = false ∧ (withCtx { ctx0 with act := {} }).cx.act.fid = none := by decide
/-- Core 0 is a member of group 2, with an event armed for it and a result queued. -/
def grouped : State :=
  { withCore { core0 with results := [{ grp := 2, n := 0, v := 7 }], ctxs := [(0, { ctx0 with arms := [⟨2, none, none, none⟩] })] } with
    clusters := [(0, { loaded := true, gen := 1, esp := [(2, 0x8000000000010000)] })] }
theorem witness_CollectiveInstructions : grouped.Ready (opR 0 2) ∧ grouped.outRoom 1 ∧ grouped.cx.act.fid = some 0 ∧ (opR 0 2).modBits 46 41 = 2 ∧
    (SMap.get 0 (grouped.cluster (0 / 16)).esp 2).getLsbD 63 = true ∧ (SMap.get 0 (grouped.cluster (0 / 16)).esp 2).getLsbD (16 + 0 % 16) = true ∧
    ¬((SMap.get 0 (base.cluster (0 / 16)).esp 2).getLsbD 63 = true) ∧
    (grouped.core 0).results.find? (fun r => r.grp == 2) = some { grp := 2, n := 0, v := 7 } ∧ (base.core 0).results.find? (fun r => r.grp == 2) = none ∧
    base.cx.trap = none ∧ (opD 0 0 (2 * 2 ^ 34)).extBits 39 34 = 2 :=
  ⟨ready_of _ _ (by decide) (by decide), by unfold State.outRoom; decide, by and_intros <;> decide⟩
theorem witness_ViewInstructions : (withG [(5, 255)]).Ready (opR 0) ∧ (withG [(5, 255)]).outRoom 1 ∧ (withG [(5, 255)]).cx.act.fid = some 0 ∧
    ((withG [(5, 255)]).rg 5).toNat < 256 ∧ 256 ≤ ((withG [(5, 256)]).rg 5).toNat ∧
    (withCtx { ctx0 with priv := true, g := [(5, 0x3FFF)] }).cx.priv = true ∧ ((withG [(5, 0x3FFF)]).rg 5).toNat < 2 ^ 14 ∧
    2 ^ 14 ≤ ((withG [(5, 0x4000)]).rg 5).toNat ∧ base.cx.priv = false :=
  ⟨ready_withG _ _ rfl rfl, room_withG _, by and_intros <;> decide⟩
/-- A privileged number at its first and last value, an unassigned one, a buffered MTS, GEOM, FPCTL and STATUS. -/
theorem witness_SpecialRegisterMoves : base.Ready (opI 0x40 0x800) ∧ (opI 0x40 0x800).extBits 11 0 = 0x800 ∧ (opI 0x40 0xFFF).extBits 11 0 = 0xFFF ∧
    base.cx.priv = false ∧ base.reg 0 0x107 = none ∧ base.reg 0 0x100 = some 0 ∧ bufferedMts base.cx.out 0x110 = none ∧
    bufferedMts (withCtx { ctx0 with out := [{ act := .mts 0x110 5 }] }).cx.out 0x110 = some 5 ∧ base.outRoom 1 ∧ ¬full.outRoom 1 ∧
    base.reg 0 0x00B = some 0 ∧ base.reg 0 0x00C = some 0 ∧ (base.reg 0 0x000).isSome = true ∧ base.reg 0 0x7FF = none :=
  ⟨ready_base _ rfl rfl, by decide, by decide, by decide, by decide, by decide, by decide, by decide, room_base, room_full, by and_intros <;> decide⟩
theorem witness_SystemRequestsTakeAnEntry : paged.Ready (opR 0 (2 ^ 13)) ∧ paged.outRoom 1 ∧ (opR 0 (2 ^ 13)).modBits 54 54 = 1 ∧
    spaceOf paged.cur.cl 64 = .virt 64 ∧ paged.xlateCx .read 64 = .at_ (.mem 0x100040) ∧ base.xlateCx .read 64 = .fault 0x08 ∧
    spaceOf 0 0x8000000000000000 = .spad 0 0 ∧ (withCtx { ctx0 with priv := true }).cx.priv = true ∧ base.cx.priv = false ∧
    wbits (2 + 3 * 2 ^ 9 : Word) 8 0 = 2 ∧ wbits (2 + 3 * 2 ^ 9 : Word) 17 9 = 3 ∧ base.cur.cl < 2 ∧ wbits (5 * 2 ^ 9 : Word) 8 0 ≤ base.cur.cl ∧
    (opR 0 (4 * 2 ^ 14)).modBits 57 55 = 4 ∧ 4 < (opR 0 (5 * 2 ^ 14)).modBits 57 55 ∧ base.cx.act.fid = some 0 :=
  ⟨ready_of _ _ (by decide) (by decide), by unfold State.outRoom; decide, by decide, by decide, rfl, rfl, by and_intros <;> decide⟩
theorem witness_WatchesAndCallsTakeAnEntry : (withG [(5, 24), (6, 8)]).Ready (opR 0) ∧ (withG [(5, 24), (6, 8)]).outRoom 1 ∧ (∃ i, i < 18 ∧ 8 = 2 ^ (i + 3)) ∧ 24 % 8 = 0 ∧
    (∃ i, i < 18 ∧ 2 ^ 20 = 2 ^ (i + 3)) ∧ ¬(∃ i, i < 18 ∧ 4 = 2 ^ (i + 3)) ∧ 12 % 8 ≠ 0 ∧ base.cx.priv = false ∧
    (withCtx { ctx0 with priv := true }).cx.priv = true ∧ (opR 4).fnBits 0 0 = 0 ∧ (opR 5).fnBits 0 0 = 1 ∧ spaceOf 0 (own 8).toNat = .spad 0 8 ∧
    spaceOf 0 (2 ^ 60) = .none ∧ spaceOf paged.cur.cl 8 = .virt 8 ∧ base.xlateCx .read 8 = .fault 0x08 ∧ paged.xlateCx .read 8 = .at_ (.mem 0x100008) ∧
    (paged.cluster paged.cur.cl).tlb.find? (fun e => e.covers paged.cx.gen 8) = some { gen := 1, va := 0, size := 0x10000, pa := 0x100000, attr := 0x30 } ∧
    8 + 8 ≤ 0 + 0x10000 ∧ 0 + 0x10000 < 8 + 0x20000 ∧ 65535 < 2 ^ 16 ∧ 2 ^ 16 ≤ 65536 :=
  ⟨ready_withG _ _ rfl rfl, room_withG _, ⟨0, by decide⟩, by decide, ⟨17, by decide⟩, fun ⟨i, _, h⟩ => by rw [Nat.pow_add] at h; have := Nat.two_pow_pos i; omega,
    by decide, by decide, by decide, by decide, by decide, by decide, by decide, by decide, rfl, rfl, by and_intros <;> decide⟩
/-- Hart 1 of cluster 0. -/
def atHart : State := { base with cur := .hart 0 1, clusters := [(0, { loaded := true, gen := 1, harts := [(1, { ctx := { g := [(5, own 8)] } })] })] }
theorem witness_HartInstructions : atHart.Ready (opI 0x43 0) ∧ atHart.cur = .hart 0 1 ∧ (memAddr (opI 0x43 0) atHart.cx).toNat = (own 8).toNat ∧
    (opI 0x43 0).fnBits 4 3 = 0 ∧ spaceOf 0 (own 8).toNat = .spad 0 8 ∧ (atHart.cluster 0).usable 8 8 = true ∧ anyPoison (atHart.cluster 0).sbad 8 8 = false ∧
    anyPoison (atHart.cluster 0).spoison 8 8 = false ∧ (atHart.cluster 0).firstGuarded 8 8 = none ∧ isStream (own 8).toNat = false :=
  ⟨ready_of _ _ (by decide) (by decide), by and_intros <;> decide⟩

/-! Witnesses: what a core's hardware does. -/

/-- The step answers a next state in which `f` holds. -/
def after (x : Host.Outcome State Fault Refusal) (f : State → Bool) : Bool :=
  match x with
  | .next t => f t
  | _ => false

/-- A commit of two register writes whose first is due. -/
def committing : State :=
  withCore { core0 with commits := [0], ctxs := [(0, { ctx0 with phase := .committing, out := [{ act := .mts 0x110 5 }, { act := .mts 0x117 6 }] })] }
theorem witness_CommittedEntriesIssue : (committing.core 0).issuer = some 0 ∧
    ((committing.core 0).ctx 0).out[((committing.core 0).ctx 0).issued]? = some { act := .mts 0x110 5 } ∧ ((committing.core 0).ctx 0).marks = [] ∧
    (∀ q ∈ ((committing.core 0).ctx 0).out, q.acq = false) ∧ (committing.core 0).ni = [] ∧ ((committing.core 0).ctx 0).after = none ∧
    ((committing.core 0).ctx 0).issued + 1 < ((committing.core 0).ctx 0).out.length := by decide
theorem test_commit_issue : after (exec (.outboundEntryIssue 0 0) committing) (fun t => decide
    (SMap.get 0 (t.core 0).mailbox 0 = 5 ∧ ((t.core 0).ctx 0).issued = 1)) = true := by decide +kernel
/-- Two activations wait; the higher level starts on context 1. -/
def waiting2 : State := withCore { core0 with ready := [{ fid := some 0, level := 3, first := 3, off8 := 4, id := 8 }, { fid := some 0, level := 9, first := 9, id := 16 }] }
theorem witness_DispatchStartsTheNextActivation : (waiting2.cluster (0 / 16)).stopped = false ∧
    (waiting2.core 0).nextAct = some { fid := some 0, level := 9, first := 9, id := 16 } ∧
    (waiting2.core 0).place { fid := some 0, level := 9, first := 9, id := 16 } = some 1 := by decide
theorem test_dispatch : after (exec (.activationDispatch 0) waiting2) (fun t => decide
    (((t.core 0).ctx 1).act.level = 9 ∧ ((t.core 0).ready.map (·.level)) = [3])) = true := by decide +kernel
theorem witness_StarvationAndWatchdog : ((withCore { core0 with wdog := 5, ctxs := [(0, { ctx0 with ran := 5 })] }).core 0).wdog.toNat ≤
      (((withCore { core0 with wdog := 5, ctxs := [(0, { ctx0 with ran := 5 })] }).core 0).ctx 0).ran ∧
    (((withCore { core0 with wdog := 5, ctxs := [(0, { ctx0 with ran := 5 })] }).core 0).ctx 0).phase = .running ∧
    ({ waiting2 with time := 100000 } : State).starved 0 { level := 254 } = true ∧ ({ waiting2 with time := 100000 } : State).starved 0 { level := 255 } = false := by
  decide
/-- R24's fields: COUNT 2 to 1, and 1 to 0 with a reload of 9. -/
theorem witness_SlotWordsCountDown : (1 : Nat) ≤ wbits (2 : Word) 15 0 ∧ 1 ≠ wbits (2 : Word) 15 0 ∧ 1 = wbits (0x0009800000000001 : Word) 15 0 ∧
    (0x0009800000000001 : Word).getLsbD 47 = true ∧ wbits (0x0009800000000001 : Word) 63 48 = 9 := by decide

/-- Slot word 4 of frame 0 with COUNT 1, level 7 and entry 8. -/
def slotted (w : Word) : State :=
  withCore { core0 with fsram := storeN [] 32 8 w.toNat }
/-- A packet of the instance to core 0. -/
def pktOf (b : Body) : Pkt := { org := { gen := 1 }, src := 0, dst := 0, tag := 0, cls := 2, gen := 1, body := b }
theorem lands4 (w : Word) (b : Body) (h : (slotted w).copyOf 0 0 4 0 = some 4) (hf : (slotted w).stale (pktOf b) = false) : (slotted w).Lands (pktOf b) 0 4 4 :=
  ⟨hf, rfl, rfl, rfl, rfl, (by decide : (4 : Nat) < 32), h, (by decide : (4 : Nat) < 32), fun _ => ⟨rfl, rfl⟩⟩
/-- A signal that fires, one that does not, a counted one, one that finds COUNT 0; SLOTADD up to the limit. -/
theorem witness_FrameUpdatesArrive : (slotted 0x70080001).Lands (pktOf (.sig 0 4 0 none false)) 0 4 4 ∧ (slotted 0x70080001).slotWord 0 0 4 = 0x70080001 ∧
    1 = cnt (0x70080001 : Word) ∧ ((slotted 0x70080001).core 0).room = true ∧ 1 < cnt (0x70080002 : Word) ∧ cnt (0x70080000 : Word) = 0 ∧
    cnt (0x70080001 : Word) + 65534 ≤ 65535 ∧ (slotted 0).isFrozen 1 = false :=
  ⟨lands4 _ _ (by decide) (by decide), by and_intros <;> decide⟩
theorem test_signal_fires : after (exec (.slotSignal (pktOf (.sig 0 4 0 none false))) (slotted 0x70080001)) (fun t => decide
    ((t.core 0).ready.map (fun a => (a.level, a.off8, a.ix)) = [(7, 8, 4)] ∧ cnt (t.slotWord 0 0 4) = 0)) = true := by decide +kernel
theorem witness_FrameUpdatesHeldOrDropped : base.stale { pktOf (.sig 0 4 0 none false) with gen := 2 } = true ∧ base.stale (pktOf (.sig 0 4 0 none false)) = false ∧
    ((withCore { core0 with ftab := [(0, { v := true, res := true, held := true })] }).core 0 |>.fent 0).held = true ∧ (base.core 0).portQ = [] ∧
    ((base.core 0).fent 1).v = false ∧ ((base.core 0).fent 1).held = false := by decide
/-- An open channel, a blocked one with room, a full input queue, and a channel that is not defined. -/
theorem witness_ChannelMessagesArrive : (0x80005408 : Word).getLsbD 31 = true ∧ (0x80005408 : Word).getLsbD 30 = false ∧ (0xC0000000 : Word).getLsbD 30 = true ∧
    (0 : Word).getLsbD 31 = false ∧ base.stale (pktOf (.chan 2 [])) = false ∧ base.reachedChan 1 0 2 = false ∧ (base.core 0).room = true ∧
    (base.core 0).niQ = [] ∧ (base.core 0).inputQ.length < 16 ∧ (base.cluster (0 / 16)).galley.length < 64 ∧ (base.core 0).load + 0 ≤ 1024 := by decide +kernel
theorem witness_FullInputQueue : 16 ≤ (List.replicate 16 (pktOf (.chan 2 []))).length := Nat.le_of_eq List.length_replicate.symm
/-- Frame 1 is the lowest free one, and granule 1 the one free run; a frame whose release was asked for; a spilled frame. -/
theorem witness_FramesComeAndGo : (∀ k, k < 1 → ((base.core 0).fent k).v = true) ∧ ((base.core 0).fent 1).v = false ∧ (base.core 0).waiting = [] ∧
    (withCore { core0 with ftab := [(0, { v := true, res := true, freq := true })] }).releasable 0 0 = true ∧
    (withCore { core0 with ftab := [(0, { v := true, rld := true })] }).nextReload 0 = some 0 ∧
    (withCore { core0 with ftab := [(0, { v := true, rld := true })] }).homeOk 0 0 = true := by decide +kernel
/-- One granule is free: frame 0 holds granule 0, frame 1 the last 240 granules in fifteen parts. -/
def oneRun : State :=
  withCore { core0 with ftab := (List.range 16).map fun i => (i, { v := true, res := true, len := if i = 15 then 14 else 15, gran := 16 * i }) }
theorem witness_OneFreeRun : oneRun.runs 0 1 = [255] ∧ (∀ k, k < 16 → ((oneRun.core 0).fent k).v = true) ∧ ((oneRun.core 0).fent 16).v = false := by
  decide +kernel

/-! Witnesses: memory accesses where they are performed. -/

theorem portOpen0 : base.PortOpen 0 8 8 { gen := 1 } true := by constructor <;> decide
theorem portOpenRead : base.PortOpen 0 8 8 { gen := 1 } false := by constructor <;> decide
theorem calm0 (b : Body) (h : base.staleAt (pktOf b) = false) : base.Calm (pktOf b) := ⟨h, rfl⟩
theorem witness_StoresPerform : base.Calm (pktOf (.store [(.spad 0 8, 1)] (own 8).toNat [])) ∧ base.PortOpen 0 8 8 { gen := 1 } true ∧
    base.windowOk 0 (clOf 16) 8 1 true = false ∧ SMap.get false base.hpoison 0 = false ∧
    SMap.get none ({ base with llc := [(0, some { data := List.replicate 64 0, dirty := false })] } : State).llc (8 / 64) =
      some { data := List.replicate 64 0, dirty := false } ∧ (List.replicate 64 (0 : Byte)).length = 64 ∧ 56 % 64 + 8 ≤ 64 ∧
    base.Calm (pktOf (.store [(.mem 8, 1)] 8 [])) ∧ base.Calm (pktOf (.store [(.side 8 false, 1)] 8 [])) :=
  ⟨calm0 _ (by decide), portOpen0, by decide, by decide, by decide, by decide, by decide, calm0 _ (by decide), calm0 _ (by decide)⟩
theorem witness_SplitPhaseReads : base.Calm (pktOf (.ldfar ((List.range 8).map fun i => (i, Loc.spad 0 (8 + i))) [] (own 8).toNat 3 false 0 2 ⟨0, 0, 4, 0⟩)) ∧
    8 = 2 ^ (3 % 4) ∧ 8 % 8 = 0 ∧ base.PortOpen 0 8 8 { gen := 1 } false ∧ base.windowOk 0 (clOf 16) 8 8 false = false ∧ (0x09 : Nat) ≠ 0 :=
  ⟨calm0 _ (by decide), by decide, by decide, portOpenRead, by and_intros <;> decide⟩
theorem witness_AtomicsAtTheirTarget : base.Calm (pktOf (.atomic ⟨.spad 0 8, (own 8).toNat, 8, .add, 1, 0, false, 0, some (2, ⟨0, 0, 4, 0⟩), false, false⟩)) ∧
    base.PortOpen 0 8 8 { gen := 1 } true ∧ toSigned 64 (2 ^ 63) < toSigned 64 1 ∧ toSigned 64 1 < toSigned 64 2 :=
  ⟨calm0 _ (by decide), portOpen0, by and_intros <;> decide⟩
theorem test_atomic_add : atomicNew .add 4 0xFFFFFFFF 1 0 = 0 ∧ atomicNew (.min true) 8 5 (2 ^ 64 - 1) 0 = 2 ^ 64 - 1 ∧ atomicNew .cas 8 5 9 4 = 5 := by decide
theorem witness_WriteOnceWords : base.staleAt (pktOf (.istw (.spad 0 8) 8 5 0 (some ⟨0, 0, 4, 0⟩))) = false ∧ 8 % 8 = 0 ∧ base.PortOpen 0 8 8 { gen := 1 } true ∧
    SMap.get .empty (base.cluster 0).wo (8 / 8) = .empty ∧ (base.cluster 0).readers.length < 1024 ∧
    1024 ≤ (List.replicate 1024 (Reader.mk 0 0 ⟨0, 0, 4, 0⟩ 1 {})).length ∧ (15 : Nat) < 16 ∧ 16 ≤ 16 :=
  ⟨by decide, by decide, portOpen0, by decide, by decide, Nat.le_of_eq List.length_replicate.symm, by and_intros <;> decide⟩
theorem witness_TimerFire : ((withCore { core0 with timers := [⟨5, ⟨0, 0, 4, 0⟩, 1⟩] }).core 0).timers[0]? = some ⟨5, ⟨0, 0, 4, 0⟩, 1⟩ ∧ (5 : Nat) ≤ 5 ∧
    (base.cluster (0 / 16)).stopped = false := by decide

/-- A routing log at physical 0x100000: entries at 0x4000, 8 positions, 2 layers, occupancy bytes at 0x2000. -/
def logged (occ : Byte) : State :=
  { paged with hbm := storeBytes (storeBytes [] 0x100000 (bytesOfWords [0x4000, 8, 2, 0x2000, 0])) 0x102000 [occ] }
/-- What a put or retire of layer 1, microbatch 3 (position 7) meets: its bit, whether none waits, and whether its writes succeed. -/
def logMeets (s : State) (p : Pkt) : Option (Nat × Bool × Bool × Bool) :=
  match s.rlogPlace p 0 1 3 with
  | .error _ => none
  | .ok (a, u) =>
    match u.rlogBit (u.rlogUser p) a with
    | .error _ => none
    | .ok (set, byte, v) => some (a.pos, set, (v.die (homeDie a.desc)).rlog.isEmpty, (writeAll (v.rlogUser p) v
        [(a.entry, bytesOfNat 128 5), (a.occ, [BitVec.ofNat 8 (byte ||| 2 ^ (a.pos % 8))]), (32, bytesOfNat 8 (a.used + 1))]).toBool)
def putPkt : Pkt := pktOf (.rlogPut 0 1 3 5 ⟨0, 0, 4, 0⟩)
theorem witness_RoutingLog : logMeets (logged 0) putPkt = some (7, false, true, true) ∧ logMeets (logged 0x80) putPkt = some (7, true, true, true) ∧
    (({ logged 0 with dies := [(0, { rlog := [⟨putPkt, 0x100000, 7, none⟩] })] } : State).rlogFree 0 0).isSome = true := by decide +kernel

/-- Two activations wait for a line that the LLC holds; page 1 has a leaf, four tables deep, and page 2 has none. -/
def filling : State :=
  { withCore { core0 with misses := [{ act := { id := 8 }, lines := [0x4000], pages := [] }, { act := { id := 16 }, lines := [0x4000, 0x4001], pages := [] }] }
    with llc := [(0x4000, some { data := List.replicate 64 7, dirty := false })] }
def walking : State :=
  { base with clusters := [(0, { loaded := true, gen := 1, ptroot := 0x8000000000400000 })], hbm := storeBytes [] 0x400000 (bytesOfWords [0x400001, 0x100032])
              dies := [(0, { walks := [{ cl := 0, gen := 1, page := 1 }, { cl := 0, gen := 1, page := 2 }] })] }
theorem witness_FillsAndWalks : (filling.core 0).l1mode = false ∧ (SMap.get none filling.llc 0x4000).isSome = true ∧ SMap.get false filling.hbad 0x4000 = false ∧
    SMap.get none (filling.core 0).rb 0x4000 = none ∧ ((filling.core 0).l1.filter fun (x, _) => l1Set false x == l1Set false 0x4000).length < filling.l1Ways 0 (l1Set false 0x4000) ∧
    (walking.die (0 / 64)).walks.contains { cl := 0, gen := (walking.cluster 0).gen, page := 1 } = true ∧ (walking.walk 0 (1 * 2 ^ 16)).toBool = true ∧
    (walking.walk 0 (2 * 2 ^ 16)).toBool = false ∧ (walking.cluster 0).tlb.length < 4096 := by decide +kernel
theorem test_fill : after (exec (.l1Fill 0 0x4000) filling) (fun t => decide
    ((t.core 0).ready.map (·.id) = [8] ∧ (t.core 0).misses.map (·.lines) = [[0x4001]])) = true := by decide +kernel

/-! Witnesses: the units of a cluster and the network. -/

theorem base_sound : (base.cluster 0).Sound := ⟨fun _ => rfl, fun _ => rfl, fun _ => rfl⟩
/-- F16 by F16, K 64, depth 37, over rows 0 and column 0. -/
def mcmd (op : MOp) (ph : MPhase) : MCmd :=
  { op := op, sl := 0, ctx := 0, org := { gen := 1 }, cmpl := some ⟨0, 0, 4, 0⟩, gc := 0x100000001, desc := 0x12810001AD, phase := ph }
def laned (op : MOp) : State := withCore { core0 with lane := [mcmd op .queued] }
def queued (op : MOp) (ph : MPhase) : State := withCore { core0 with regionQ := [mcmd op ph], slots := [(0, { st := .busy, busy := 1 })] }
theorem witness_MatrixCommandsRun : ((laned .mma).core 0).lane = [mcmd .mma .queued] ∧ ((laned .mma).core 0).regionQ.length < 16 ∧
    MOp.accepts .mma ((laned .mma).core 0 |>.aslot 0).st true = true ∧ MOp.accepts .mstc ((laned .mstc).core 0 |>.aslot 0).st true = false ∧
    (queued .mzero .queued).storesIn 0 (mcmd .mzero .queued) = true ∧ ((queued .mma .queued).core 0).regionQ = [mcmd .mma .queued] ∧
    (queued .mma .queued).storesIn 0 (mcmd .mma .queued) = true ∧ ((queued .mma .queued).cluster (0 / 16)).pmism = [] ∧
    epStream (mcmd .mma .queued).ga = false ∧ epStream (mcmd .mma .queued).gb = false ∧
    (queued .mma .queued).mmaUsable 0 (mcmd .mma .queued) (mmaReads false 0 0 0x100000001 0x12810001AD) = true ∧
    ((queued .mma .done).core 0).regionQ = [mcmd .mma .done] ∧ ((queued .mma .done).core 0).ni = [] ∧
    ((queued .mrel .done).core 0 |>.aslot 0).busy = 1 ∧ ((queued .mmag .queued).core 0).regionQ = [mcmd .mmag .queued] ∧
    (queued .mmag .queued).mfail = [] ∧ (queued .mmag .queued).storesIn 0 (mcmd .mmag .queued) = true ∧
    ∃ t : Nat, 0 + (queued .mmag .queued).arith (2 ^ 20) ≤ t := by
  and_intros <;> first | decide +kernel | exact ⟨_, Nat.le_refl _⟩
/-- R218 by hand: two F16 ones times two F16 twos, added to an F32 one, are 5. -/
theorem test_mma_sum : mmaSum f32 0x3F800000 (List.replicate 2 (((fmtDecode 0x0D 0 0x3C00).mul (fmtDecode 0x0D 0 0x4000)).1)) = 0x40A00000 := by decide +kernel

theorem witness_SuspectUnits : (SMap.get {} (base.cluster 0).suspects 3).quar = false ∧ ((base.cluster 0).freeSpare 0).isSome = true ∧
    (base.host.evhead + 1) % 2 ^ base.host.evlsz = base.host.evtail % 2 ^ base.host.evlsz ∧
    ({ evlsz := 4 } : HostIf).evhead + 1 ≠ 0 ∧ SMap.wf {} State.reset.clusters = true ∧ (∀ c, SMap.wf {} (State.reset.cluster c).suspects = true) :=
  ⟨by decide, by decide, by decide, by decide, by decide, fun _ => rfl⟩

/-- Slot 0 of region 0 is a bank of descriptor 0 at 0x2000 with four sources and weights at 0x1000; its next step is 5. -/
def bank0 : Bank := { nxt := 5, off := 0x2000, desc := [0x50001, 0x400001000, 0, 0] }
def banked (g : Cluster) (q : List MCmd) : State :=
  { withCore { core0 with slots := [(0, { st := .state, bank := bank0, busy := 1 })], regionQ := q } with clusters := [(0, g)] }
def sbCmd (n : Nat) : MCmd := { mcmd .sbstep .running with left := n }
def evOf (src t : Nat) : Word := BitVec.ofNat 64 (src * 2 ^ 16 + t)
theorem witness_StateBanksStep : (banked { loaded := true, gen := 1 } []).stale (pktOf (.sbevt 0 0 0 0 (evOf 2 5) (some ⟨0, 0, 4, 0⟩) 0 none)) = false ∧
    ((banked {} []).core (16 * 0 + 0) |>.aslot 0).st = .state ∧ ((base.core 0).aslot 0).st ≠ .state ∧ (BankDesc.ofWords bank0.desc).nsrc = 4 ∧
    evSrc (evOf 5 5) = 5 ∧ evSrc (evOf 4 5) = 4 ∧ late 4 5 = true ∧ late 5 5 = false ∧ late 32772 5 = false ∧ late 32773 5 = true ∧
    ((banked { evq := [⟨0, 0, 3, evOf 2 5⟩, ⟨0, 0, 3, evOf 2 6⟩] } [sbCmd 1]).cluster (0 / 16)).evq.filter
      (fun e => e.core == 0 && e.slot == 0 && evTime e.ev == 5) = [⟨0, 0, 3, evOf 2 5⟩] ∧
    (banked {} [sbCmd 1]).emitting 0 0 = false ∧ (BankDesc.ofWords bank0.desc).oe = false ∧ (BankDesc.ofWords bank0.desc).fe = true ∧
    ((banked {} []).cluster 0).usable ((BankDesc.ofWords bank0.desc).woff + 128 * 2) 128 = true ∧ ((banked {} []).cluster 0).usable (bank0.off + 32) 32 = true ∧
    (sbCmd 0).left = 0 ∧ (sbCmd 0).org.core = 0 ∧ (sbCmd 0).late0 = bank0.late := by decide +kernel

/-- A COPY of bytes between own scratchpad rows, and one whose first word has a reserved bit. -/
def ecmd (w0 : Word) : ECmd := { w := [w0, 0, own 0, own 0x100, 0, 0, 0], hart := 0, org := { gen := 1 }, cmpl := some ⟨0, 0, 4, 0⟩ }
def harted (t : Hart) : State := { base with clusters := [(0, { loaded := true, gen := 1, harts := [(0, t)] })] }
theorem witness_EngineHartsRun : ((withCore { core0 with engLane := [ecmd 0] }).core 0).engLane = [ecmd 0] ∧ ((base.cluster 0).hart ((base.cluster 0).kickHart 0)).q.length < 16 ∧
    ((harted { q := [ecmd 0x80000] }).cluster 0 |>.hart 0).q = [ecmd 0x80000] ∧ bits ((ecmd 0x80000).wd 0) 63 19 ≠ 0 ∧ bits ((ecmd 0x1C00).wd 0) 12 10 = 7 ∧
    ((harted { cmd := some (ecmd 0) }).cluster 0 |>.hart 0).std = true ∧ (ecmd 0).entry = 0 ∧
    isStream (endpointAt ((ecmd 0).wd 3) (shapeOff [] 0)) = false ∧
    ((harted { cmd := some (ecmd 0) }).placesNow ((ecmd 0).user 0) .write (endpointAt ((ecmd 0).wd 3) (shapeOff [] 0)) 1).toBool = true ∧
    ((harted { cmd := some (ecmd 0) }).placesNow ((ecmd 0).user 0) .write (2 ^ 48) 1).toBool = false ∧
    ((harted { cmd := some (ecmd 0), finished := true }).cluster 0 |>.hart 0).finished = true ∧ (ecmd 0).cred = none ∧
    ((base.core (ecmd 0).org.core).wdog.toNat = 0x100000) := by decide +kernel
theorem witness_EngineReads : ∃ bs v, (harted { cmd := some (ecmd 0) }).hartRead ((ecmd 0).user 0) 0 (endpointAt ((ecmd 0).wd 2) (shapeOff [] 0)) (ecmd 0).size =
    .ok bs v ∧ (v.cluster 0).hart 0 = { cmd := some (ecmd 0) } := ⟨_, _, rfl, by decide⟩

/-- Group 2 of cluster 0: members 0 and 1, unsigned 64-bit sum, no parent and no child. -/
def group2 (g : Cluster) : State := { base with clusters := [(0, { g with loaded := true, gen := 1, esp := [(2, 0x8A00000000030000)] })] }
theorem witness_CollectivesCombine : (group2 {}).stale (pktOf (.contrib 2 0 1 (some [5]))) = false ∧ (group2 {}).oldView (pktOf (.contrib 2 0 1 (some [5]))) = false ∧
    SMap.get 0 ((group2 { cbase := [(2, 4)] }).cluster 0).cbase 2 = 4 ∧ (3 : Nat) < 4 ∧ 4 + 1 < (6 : Nat) ∧ ((group2 {}).cluster 0).galley.length < 64 ∧
    (group2 {}).siteInputs 0 2 = [0, 1] ∧ (((group2 {}).cluster 0).op 2 0).part 1 = none ∧ (((group2 {}).cluster 0).op 2 0).sent = false ∧
    ((group2 {}).core (16 * 0 + 1)).evArms = [] ∧ espXpkg ((group2 {}).espOf 0 2) = false ∧ espPar ((group2 {}).espOf 0 2) = 0 ∧
    [0, 1].map (fun i => ([(0, some [3]), (1, some [(5 : Word)])].find? (·.1 == i)).map (·.2)) = [some [3], some [5]].map some ∧
    (group2 {}).waitingCred 0 2 0 = none ∧ ((group2 {}).espOf 0 2).getLsbD 32 = false ∧ ((group2 {}).espOf 0 2).getLsbD 33 = false := by decide +kernel
theorem test_fold : foldInputs 5 0 [some [3], some [5], none] = none ∧ foldInputs 5 0 [some [3], some [0xFFFFFFFFFFFFFFFF]] = some [2] := by decide +kernel

def streamed (here flight : List Byte) : State := { base with streams := [{ branchOf 0 with here := here, flight := flight }] }
theorem witness_StreamsAndBuckets : (streamed [1] [2, 3]).streams[0]? = some { branchOf 0 with here := [1], flight := [2, 3] } ∧ (branchOf 0).conv = false ∧
    wbits (0x0000001400050064 : Word) 31 16 = 5 ∧ wbits (0x0000001400050064 : Word) 47 32 = 20 ∧ wbits (0x64 : Word) 31 16 = 0 ∧ (base.cluster 0).held = [] := by decide
theorem test_stream : after (exec (.streamData 1 3 0) (streamed [1] [2, 3])) (fun t => decide (t.streams.map (fun x => (x.here, x.flight)) = [([1, 2, 3], [])])) = true := by
  decide +kernel

/-! Witnesses: launches, faults, rounds, gangs. -/

/-- A state offered one input. -/
theorem offers (s : State) (i : Instr) (x : Input) : ({ s with inputs := [(i, x)] } : State).Offers i x { s with inputs := [] } :=
  ⟨[], [], rfl, fun _ h => (List.not_mem_nil h).elim, rfl⟩
def up : State := { base with host := { ready := true } }
theorem witness_TokensAtPorts : up.host.ready = true ∧ base.host.ready = false ∧ (63 : Nat) ≤ 63 ∧ ¬(64 : Nat) ≤ 63 ∧ (up.port 63).tokens.length < 256 ∧
    256 ≤ (List.replicate 256 (([] : List Word), ([] : List Word))).length ∧ tokenKind [0x101] = 1 ∧ tokenKind [0x702] = 2 ∧ tokenKind [3] = 3 ∧
    tokenKind [4] ∉ [1, 2, 3] ∧ (up.port 0).open_ = false ∧ ({ stream := some 1 } : Port).open_ = true ∧ up.caps.testBit 4 = true ∧
    ({ up with caps := 0 } : State).caps.testBit 4 = false ∧ (up.port 0).stream = none ∧ wbits (2 : Word) 63 32 = 0 ∧
    (0 : Nat) < 1 ∧ ({ ntok := 1, gen := 1 } : Inst).iCore < 16 * (0 + 1 - 0) := by
  and_intros <;> first | exact Nat.le_of_eq List.length_replicate.symm | decide

/-- The smallest image: forme 7, floor OP1, one cluster, no section; `w1` adds bits of its word 1. -/
def image7 (w1 : Word) : List Byte := bytesOfWords [0, 7 + 2 ^ 42 + w1, 0, 0, 0, 0, 0, 0]
/-- A launch record: id 5, cluster 0, one token. -/
def record5 : List Word := [5, 0, 0, 1, 0, 0, 0, 0, 0, 0, 0, 0, 0, 0, 0, 0]
def launching (r : List Word) : State :=
  { State.reset with ports := [(0, { tokens := [([1 + 7 * 2 ^ 32, 0], r)] })]
                     dies := [(0, { store := [{ fid := 7, ver := 0, image := image7 0, partial_ := false, used := 0 }] })] }
/-- Behind the token. -/
def locked : State := { (launching record5).popToken 0 with host := { fklock := true } }
theorem witness_LaunchesStart : recordBad record5 = false ∧ recordBad (record5.set 0 0) = true ∧ (launching record5).depsDone 0 record5 = true ∧
    (launching (record5.set 3 0)).depsDone 0 (record5.set 3 0) = true ∧ lrec (record5.set 3 0) 3 31 0 = 0 ∧ (launching record5).ops = [] ∧
    (launching record5).clustersFree 0 0 = true ∧ (launching record5).freeGens 1 = [0] ∧
    ((locked.die (dieOf 0)).stored 7 0 false).isSome = true ∧ locked.reject (imageOf (image7 0)) false false 0 0 0 = 0 ∧
    (match (([0] : List Nat).foldl State.rebuild locked).tryLoad (imageOf (image7 0)) 0 0 [0] with
      | .ok t => (match t.loadHbm (imageOf (image7 0)) ((launching record5).port 0).proot ((imageOf (image7 0)).recs 0x0E) with
        | some u => u.insts.isEmpty
        | none => false)
      | .error _ => false) = true ∧
    imageOf (image7 0) = imageOf ((((locked.die (dieOf 0)).stored 7 0 false).map (·.image)).getD []) := by decide +kernel
theorem test_launch : after (exec (.launchStart 0) (launching record5)) (fun t => decide ((t.port 0).tokens = [] ∧ (t.port 0).stream = some 0 ∧
    t.insts.map (fun i => (i.gen, i.lid, i.st)) = [(0, 5, .running)] ∧ (t.cluster 0).loaded = true)) = true := by decide +kernel

def ending (st : InstState) : State := { State.reset with insts := [{ gen := 1, st := st }], clusters := [(0, { harts := [(0, { cmd := some (ecmd 0) })] })] }
theorem witness_InstancesEnd : ({ State.reset with insts := [{ gen := 1, st := .draining }] } : State).quiet { gen := 1, st := .draining } = true ∧
    ({ State.reset with insts := [{ gen := 1, st := .draining }] } : State).inst? 1 = some { gen := 1, st := .draining } ∧
    (ending .unloaded).inst? 1 = some { gen := 1, st := .unloaded } ∧ (ending .unloaded).genCount 1 = 0 ∧
    ({ ending .unloaded with net := [pktOf (.sig 0 4 0 none false)] } : State).genCount 1 ≠ 0 ∧ (ending .frozen).inst? 1 = some { gen := 1, st := .frozen } ∧
    (∃ t, (0, t) ∈ ((ending .frozen).cluster 0).harts) ∧ (∀ t, (0, t) ∈ ((ending .frozen).cluster 0).harts → t.cmd ≠ none) ∧
    (∀ d, ((ending .frozen).die d).rlog = []) :=
  ⟨by decide +kernel, by decide, by decide, by decide, by decide, by decide, ⟨_, List.mem_cons_self⟩,
    fun t h => by cases List.mem_singleton.mp h; exact Option.some_ne_none _, fun _ => rfl⟩

/-- Two experts with 3 and 1 tokens on clusters 0 and 1, with the partial forme 7 in the store. -/
def record9 : List Word := [2 + 1 * 2 ^ 16, 0x1000, 7, 0x2000, 0, 9, 0, 0]
def placing (r : List Word) : State :=
  { State.reset with ports := [(0, { tokens := [([3], r)] })], hbm := storeBytes [] 0x1000 (bytesOfNat 8 (3 + 2 ^ 32))
                     dies := [(0, { store := [{ fid := 7, ver := 0, image := image7 (2 ^ 47), partial_ := true, used := 0 }] })] }
def placed2 : Option State :=
  match (((placing record9).fresh.popToken 0).physRead 0x1000 8) with
  | none => none
  | some (bs, s1) =>
    match s1.partialForme 0 7 0 0 0, quotas 2 ((List.range 2).map fun e => numAt bs (4 * e) 4) with
    | .ok (img, s2), some ns =>
      (s2.loadRegions img 0 9 (List.zip (regionsFrom 0 0 ns) (s2.freeGens (regionsFrom 0 0 ns).length))).toOption
    | _, _ => none
theorem witness_PlacementsAreCarriedOut : (placing record9).placementReady 0 = true ∧ placementBad record9 = false ∧ placementBad (record9.set 0 0) = true ∧
    placed2.isSome = true := by decide +kernel
/-- R354's rule by hand: 5 clusters for 3, 0 and 1 tokens; one each, and of the 3 others 2.25 and 0.75 by share, so 2 and, the larger rest
first, 1 more to the third expert. -/
theorem test_quotas : quotas 5 [3, 0, 1] = some [3, 0, 2] ∧ quotas 1 [3, 0, 1] = none := by decide +kernel
/-- As many clusters as experts with work. -/
theorem witness_Quotas : quotas 2 [3, 0, 1] = some [1, 0, 1] := by decide +kernel

def recOf (n : Node) (t : Nat) : FaultRec := { cause := 1, imprecise := false, tval := 0, time := t, tag := 0, gen := 1, core := 0, epc := 0, node := n }
/-- An instance of cluster 0 with one edge, from slot word 4 of frame 0 to channel 2 of core 1. -/
def edged (st : InstState) : Inst := { gen := 1, st := st, edges := some [(.slot 0 0 4, .chan 1 2)] }
def faulty (st : InstState) (g : Cluster) : State := { State.reset with insts := [edged st], clusters := [(0, { g with loaded := true, gen := 1 })] }
theorem witness_FaultRecordsClimb : State.reset.inst? 1 = none ∧ (faulty .running {}).inst? 1 = some (edged .running) ∧
    (∀ c, ∀ t ∈ ((faulty .running {}).core c).timers, t.gen ≠ 1) ∧ (∀ d, ∀ w ∈ ((faulty .running {}).die d).rlog, w.pkt.gen ≠ 1) ∧
    ((faulty .frozen {}).cluster 0).site = [] ∧ ((faulty .frozen { site := [⟨recOf (.slot 0 0 4) 5, 0⟩] }).cluster 0).site = [⟨recOf (.slot 0 0 4) 5, 0⟩] ∧
    (edged .frozen).before (.slot 0 0 4) (.chan 1 2) = true ∧ (edged .frozen).before (.chan 1 2) (.slot 0 0 4) = false ∧
    (edged .frozen).before (.slot 0 0 4) (.slot 0 0 4) = false ∧ (edged .frozen).parent 0 = none ∧ (({ gen := 1, last := 1 } : Inst).parent 1).isSome = true ∧
    (edged .frozen).tokenSent = false ∧ (edged .frozen).firstFault = none ∧
    ((faulty .frozen { glog := [⟨0, 0, 0, 0, 0, 1, 0, {}⟩] }).cluster 0).glog = [⟨0, 0, 0, 0, 0, 1, 0, {}⟩] :=
  ⟨rfl, by decide, fun _ _ h => (List.not_mem_nil h).elim, fun _ _ h => (List.not_mem_nil h).elim, by and_intros <;> decide⟩
def erred (w : Word) : State :=
  { slotted w with insts := [{ edged .frozen with firstFault := some (recOf (.slot 0 0 4) 5) }] }
def errPkt : Pkt := pktOf (.errTok (some (.slot 0 0 4)))
theorem witness_ErrorTokenSpreads : ((erred 0).inst? 1).map (fun i => (i.firstFault, i.st, i.tokenSent)) = some (some (recOf (.slot 0 0 4) 5), .frozen, false) ∧
    (edged .frozen).edges ≠ none ∧ ({ gen := 1 } : Inst).edges = none ∧ (erred 0).stale errPkt = false ∧ Node.slot 0 0 4 ∉ (edged .frozen).reached ∧
    Node.slot 0 0 4 ∈ [Node.slot 0 0 4] ∧ (((erred 0x80070080001).core 0).fent 0).v = true ∧ cnt ((erred 0x80070080001).slotWord 0 0 4) ≠ 0 ∧
    ((erred 0x80070080001).slotWord 0 0 4).getLsbD 43 = true ∧ ((erred 0x70080001).slotWord 0 0 4).getLsbD 43 = false ∧
    ((erred 0).core 0).room = true ∧ ((erred 0).core 0).portQ = [] := by decide

/-- A schedule: round 1 makes plate 1, which is filled, active and retires plate 0. -/
def scheduled (k : Core) : State := withCore { k with ctxs := [] }
def filled : Core := { plates := [(0, { st := .active }), (1, { st := .prefetched, round := 1, retires := some 0, bytes := [(0, 9)] })] }
theorem witness_RoundsSwapPlates : (scheduled filled).stale (pktOf (.round 1)) = false ∧ (scheduled filled).rounds = [] ∧
    ((scheduled { sched := [⟨1, 1, none, [], false⟩] }).core 0).sched.find? (·.round == 1) = some ⟨1, 1, none, [], false⟩ ∧
    ((scheduled filled).core 0).sched.find? (·.round == 1) = none ∧ ((scheduled filled).core 0).plateOf 1 = some 1 ∧
    (((scheduled filled).core 0).plate 1).st = .prefetched ∧ (((scheduled filled).core 0).plate 0).st = .active ∧
    ({ scheduled { plates := [0, 1, 2, 3].map fun q => (q, { st := .active }) } with rounds := [⟨1, 2, [0], some ⟨0, 0, 4, 0⟩, {}⟩] } : State).rounds =
      [⟨1, 2, [0], some ⟨0, 0, 4, 0⟩, {}⟩] ∧
    (((scheduled { plates := [(2, { st := .prefetching })] }).core 0).plate 2).swap = false ∧
    ((scheduled { sched := [⟨3, 2, some 0, [7], false⟩] }).core 0).sched = [⟨3, 2, some 0, [7], false⟩] := by decide
theorem test_swap : after (exec (.roundToken (pktOf (.round 1))) (scheduled filled)) (fun t => decide ((t.core 0).rounds = 1 ∧ ((t.core 0).plate 1).st = .active ∧
    ((t.core 0).plate 0).st ≠ .active)) = true := by decide +kernel

def stopOf (go begun : Bool) : Stop := { go := go, first := 0, last := 0, at_ := 0, cmpl := some ⟨0, 0, 4, 0⟩, org := { gen := 1 }, begun := begun }
def flushOf (len : Nat) : FlushOp := { inv := false, va := 0, len := len, cl := 0, gen := 1, priv := false, cmpl := some ⟨0, 0, 4, 0⟩, org := { gen := 1 } }
def flushing (o : FlushOp) : State := { paged with flushes := [o], llc := [(0x4000, some { data := List.replicate 64 7, dirty := true })] }
def invOf (b : Bool) : TlbinvOp := { va := none, cmpl := some ⟨0, 0, 4, 0⟩, org := { gen := 1 }, begun := b }
theorem witness_GangsAndWindows : ({ base with stops := [stopOf false false] } : State).stops[0]? = some (stopOf false false) ∧ base.wholeSet 0 0 = true ∧
    ({ base with insts := [{ gen := 1, st := .running, last := 1 }] } : State).wholeSet 0 0 = false ∧ ({ base with cores := [] } : State).atRest 0 = true ∧ (flushing (flushOf 64)).flushes[0]? = some (flushOf 64) ∧
    (flushing (flushOf 64)).cachedLines (0x100000 / 64) ((0x100000 + 64) / 64) = [0x4000] ∧ (flushOf 0).len = 0 ∧ (flushOf 64).len ≤ (flushOf 64).now ∧
    SMap.get none (flushing (flushOf 64)).llc 0x4000 = some { data := List.replicate 64 7, dirty := true } ∧
    ({ paged with tlbinvs := [invOf true] } : State).midAccess = false ∧ (∀ a ∈ paged.accesses, a ∉ (invOf true).waits) ∧
    (base.cluster 0).stopped = false ∧ (({ base with clusters := [(0, { stopped := true })] } : State).cluster 0).stopped = true := by decide

/-! Witnesses: packages and their views. The number of this package is not known (log entry 7). -/

def own1 : Nat := ownPkg + 1
theorem own1_ne : own1 ≠ ownPkg := Nat.succ_ne_self _
theorem own1_not_lt : ¬own1 < ownPkg := Nat.not_lt_of_le (Nat.le_succ _)
/-- This package and one other; the other one first; the other one alone. -/
def pair : Views := { members := [ownPkg, own1], lastBeat := [(own1, 5)] }
def turned : Views := { members := [own1, ownPkg] }
def alone : Views := { members := [own1], collecting := true }
def viewed (v : Views) : State := { State.reset with views := v }
theorem rank_pair : pair.rank ownPkg = 0 := by simp [Views.rank, pair, own1_not_lt]
theorem neighbours_pair : pair.neighbours = [own1] := by
  have h : pair.members = [ownPkg, own1] := rfl
  unfold Views.neighbours
  rw [rank_pair, h]
  simp [List.eraseDups_cons]
theorem rankIn_pair : rankIn [ownPkg, own1] = 0 := by simp [rankIn, own1_not_lt]
theorem rankIn_own : rankIn [ownPkg] = 0 := by simp [rankIn]
theorem childrenIn_own : childrenIn [ownPkg] = [] := by unfold childrenIn; rw [rankIn_own]; rfl
theorem childrenIn_pair : childrenIn [ownPkg, own1] = [own1] := by unfold childrenIn; rw [rankIn_pair]; rfl
theorem parentIn_own : parentIn [ownPkg] = none := by unfold parentIn; rw [rankIn_own]; rfl
theorem parentIn_pair : parentIn [ownPkg, own1] = none := by unfold parentIn; rw [rankIn_pair]; rfl

/-- A packet of a member for this package; station 3 is an Ethernet one, station 4 a UALink one with an atomic in flight. -/
def xpkt : Pkt := { pktOf (.sig 0 4 0 none false) with spkg := ownPkg, dpkg := some ownPkg, xfid := 7 }
def atReq : AtReq := ⟨.mem 8, 8, 8, .add, 1, 0, false, 0, some (2, ⟨0, 0, 4, 0⟩), false, false⟩
def linked : State := { State.reset with stations := [(4, { ualink := true, pend := [pktOf (.atomic atReq)] })], insts := [{ gen := 1, fid := 7, st := .running }] }
theorem witness_StationsDeliver : (linked.station 3).ualink = false ∧ (linked.station 3).up = true ∧ xpkt.dpkg = some ownPkg ∧ (linked.station 3).rx = [] ∧
    linked.newer xpkt = false ∧ linked.newer { xpkt with vtag := some 1 } = true ∧ linked.views.members.contains xpkt.spkg = true ∧ linked.oldView xpkt = false ∧
    linked.views.members.contains own1 = false ∧ xpkt.body.isGroup = false ∧
    linked.insts.find? (fun i => i.fid == xpkt.xfid && i.ver == xpkt.xver && i.st != .unloaded &&
      (xpkt.body.isGroup || (decide (i.first ≤ clOf xpkt.dst) && decide (clOf xpkt.dst ≤ i.last)))) = some { gen := 1, fid := 7, st := .running } ∧
    (linked.station 4).pend = [pktOf (.atomic atReq)] ∧ atReq.res = some (2, ⟨0, 0, 4, 0⟩) ∧ (linked.core (pktOf (.atomic atReq)).src).ni = [] :=
  ⟨rfl, rfl, rfl, rfl, rfl, rfl, by simp [linked, State.reset, xpkt], rfl, by simp [linked, State.reset, own1], rfl, rfl, rfl, rfl, rfl⟩
theorem witness_MembersWatchEachOther : ownPkg ∉ (viewed pair).views.neighbours ∧
    (∀ d ∈ (viewed pair).views.neighbours, (viewed pair).views.lastBeat.any (·.1 == d) = true) ∧ own1 ∈ (viewed pair).views.neighbours ∧
    own1 ∉ (viewed pair).views.suspects ∧ own1 ≠ ownPkg ∧ own1 ∈ (viewed pair).views.members ∧ ownPkg ∈ (viewed pair).views.members ∧
    turned.lowest = some own1 ∧ SMap.get 0 (viewed pair).views.lastBeat own1 = 5 ∧ State.reset.views.neighbours = [] := by
  refine ⟨?_, ?_, ?_, ?_, own1_ne, ?_, ?_, rfl, ?_, ?_⟩
  · show ownPkg ∉ pair.neighbours; rw [neighbours_pair]; simp [own1_ne.symm]
  · intro d hd; replace hd : d ∈ pair.neighbours := hd; rw [neighbours_pair] at hd; simp [List.mem_singleton.mp hd, viewed, pair]
  · show own1 ∈ pair.neighbours; rw [neighbours_pair]; simp
  · simp [viewed, pair]
  · simp [viewed, pair]
  · simp [viewed, pair]
  · simp [viewed, pair, SMap.get]
  · simp [State.reset, Views.neighbours]
theorem witness_ProposersCollect : (viewed pair).views.view = 0 ∧ ownPkg ∈ (viewed pair).views.members ∧ pair.collecting = false ∧ pair.proposal = none ∧
    alone.collecting = true ∧ alone.members.filter (fun m => !alone.suspects.contains m) = [own1] ∧ ascending ([own1] ++ alone.joins) = [own1] ∧
    alone.members.length < 2 * [own1].length ∧ own1 ≠ ownPkg ∧ 2 * ([] : List Nat).length ≤ pair.members.length ∧ pair.joins = [] ∧
    ({ evlsz := 1 } : HostIf).evhead + 1 ≠ 0 ∧ (0 + 1) % 2 ^ 1 ≠ 0 % 2 ^ 1 ∧ ownPkg ∉ alone.members ∧ turned.lowest = some own1 ∧
    pair.lowest = some ownPkg ∧ ownPkg + 2 ∉ pair.members := by
  refine ⟨rfl, ?_, rfl, rfl, rfl, rfl, rfl, by decide, own1_ne, by decide, rfl, by decide, by decide, ?_, rfl, rfl, ?_⟩ <;>
    simp [viewed, pair, alone, own1]
theorem witness_ProposalsAreAnswered : ownPkg ∈ [ownPkg] ∧ (viewed {}).views.outside 0 = false ∧ (viewed {}).views.round = none ∧ own1 ≠ ownPkg ∧
    parentIn [ownPkg] ≠ some ownPkg ∧ childrenIn [ownPkg] = [] ∧ (∀ m ∈ [ownPkg], m ∉ (viewed {}).views.suspects) ∧
    (∃ m ∈ [ownPkg], m ∈ (viewed { suspects := [ownPkg] }).views.suspects) ∧ childrenIn [ownPkg, own1] = [own1] ∧ ownPkg ∉ childrenIn [ownPkg, own1] ∧
    parentIn [ownPkg, own1] = none ∧ own1 ∉ ([] : List Nat) := by
  refine ⟨?_, ?_, rfl, own1_ne, ?_, childrenIn_own, ?_, ?_, childrenIn_pair, ?_, parentIn_pair, ?_⟩
  · simp
  · simp [viewed, Views.outside]
  · rw [parentIn_own]; exact fun h => nomatch h
  · simp [viewed]
  · simp [viewed]
  · rw [childrenIn_pair]; simp [own1_ne.symm]
  · simp
/-- A dispatch to the package that leaves, an arm and a graft. -/
def installing : State :=
  { State.reset with views := { members := [ownPkg, own1], commit := some (1, [ownPkg], 0, []), grafts := [(own1, ⟨0, 0, 4, 0⟩, 5, {})] }
                     dispatch := [⟨own1, ⟨0, 0, 4, 0⟩, 1⟩], cores := [(0, { cviewArms := [⟨0, 0, 4, 0⟩] })] }
theorem witness_ViewsInstall : installing.views.commit = some (1, [ownPkg], 0, []) ∧ 0 ≤ installing.time ∧ installing.views.view < 1 ∧ installing.insts = [] ∧
    installing.stations = [] ∧ (installing.views.joins.filter fun p => !([ownPkg].contains p)) = [] ∧ ⟨own1, ⟨0, 0, 4, 0⟩, 1⟩ ∈ installing.dispatch ∧
    own1 ∈ installing.views.members ∧ own1 ∉ [ownPkg] ∧ ⟨0, 0, 4, 0⟩ ∈ (installing.core 0).cviewArms ∧
    linked.insts.find? (fun i => i.fid == 7 && i.ver == 0 && i.st != .unloaded) = some { gen := 1, fid := 7, st := .running } ∧
    SMap.get 0 (linked.cluster 0).cbase 2 = 0 ∧ (linked.cluster 0).galley = [] := by
  refine ⟨rfl, by decide, by decide, rfl, rfl, rfl, ?_, ?_, ?_, ?_, rfl, rfl, rfl⟩
  · simp [installing]
  · simp [installing]
  · simp [own1_ne]
  · simp [installing, State.core, SMap.get]

/-! Witnesses: operating points, the host, resets and the management path. -/

def stepping (k n : Nat) : State := { State.reset with ops := [⟨k, some ⟨0, 0, 4, 0⟩, {}⟩], opstage := n }
theorem witness_OperatingPointSteps : (stepping 1 0).ops = [⟨1, some ⟨0, 0, 4, 0⟩, {}⟩] ∧ (stepping 1 0).opnow = 1 ∧
    ({ stepping 2 0 with caps := 0x3F } : State).offered 2 = false ∧ (stepping 0 0).offered 0 = true ∧ (stepping 2 0).offered 2 = true ∧
    ({ stepping 2 0 with insts := [{ gen := 1, floor := 1, st := .running }] } : State).shortfall 2 = some [0, 1, 1] ∧ (stepping 2 0).shortfall 2 = none ∧
    (stepping 2 1).opstage = 1 ∧ (stepping 2 1).heldFrames = [] ∧ (stepping 2 2).opstage = 2 ∧ (stepping 2 3).opstage = 3 ∧ (stepping 0 4).opstage = 4 ∧
    (stepping 0 5).opstage = 5 := by decide +kernel
/-- Frame 0 of core 0 holds granules 0 and 1; row 5 of its frame SRAM fails. -/
def framed : State := withCore { core0 with ftab := [(0, { v := true, res := true, len := 1 })] }
theorem witness_RowsAndRegistersChange : ({ framed with caps := 0 } : State).hasPrune = false ∧ framed.hasPrune = true ∧ framed.pruned 1 0 0 5 framed.opnow = false ∧
    ({ framed with prune := [{ kind := 1, cl := 0, core := 0, row := 5, op := 1 }] } : State).pruned 1 0 0 5 1 = true ∧
    (((framed.core (16 * 0 + 0)).ftab.filter fun (_, e) => e.v && e.res && decide (e.gran ≤ 5 / 4) && decide (5 / 4 ≤ e.gran + e.len)).map (·.1)) = [0] ∧
    (({ framed with prune := [{ kind := 1, cl := 0, core := 0, row := 5, op := 1, field := true }] } : State).framePlace 0 (framed.core 0) 2 framed.announced).isSome = true ∧
    State.reset.winDesc 0 0 = none ∧ (0x110 : Nat) ≤ 0x117 ∧ (15 : Nat) < 16 := by decide +kernel
/-- A window descriptor that passes its check (R93): line 0 of the LLC keeps it. -/
def zeroLine : State := { State.reset with llc := [(0, some { data := List.replicate 64 1, dirty := false })] }
theorem witness_HostRequests : (List.replicate 64 (0 : Byte)).length = 64 ∧ (0x100000 : Nat) ≤ 0x13F000 ∧ (0x13F000 : Nat) < 0x140000 ∧ (0x13F000 : Nat) % 0x1000 = 0 ∧
    (bytesOfNat 8 0x500).length = 8 ∧ SMap.get none zeroLine.llc (8 / 64) = some { data := List.replicate 64 1, dirty := false } ∧
    SMap.get false zeroLine.hbad (8 / 64) = false ∧ (8 : Nat) % 8 = 0 ∧ (8 : Nat) < 2 ^ 40 ∧ (12 : Nat) % 8 ≠ 0 ∧ zeroLine.host.stage < 16 ∧ zeroLine.opnow < 8 ∧
    zeroLine.host.berr < 16 := by decide +kernel
def hot (t : Nat) : State := { State.reset with host := { temps := [(0, t)], tstop := false } }
theorem witness_PowerAndHeat : State.reset.host.samples + 1 < 10000 ∧ (hot 1760).host.hottest = 1760 ∧ (hot 1760).host.tstop = false ∧ (hot 1760).ops = [] ∧
    1520 ≤ (hot 1520).host.hottest ∧ (hot 1519).host.hottest < 1520 ∧ 1920 ≤ (hot 1920).host.hottest ∧
    1000 * State.reset.host.pcap < ({ power := [3201] } : HostIf).pwrnow := by decide +kernel
theorem witness_ResetsAndBringUp : State.reset.host.stage < 6 ∧ State.reset.host.berr = 0 ∧ State.reset.host.stage = 0 ∧
    ({ State.reset with host := { stage := 1 } } : State).host.stage ≠ 0 ∧ 6 ≤ ({ State.reset with host := { stage := 6 } } : State).host.stage ∧
    ({ State.reset with host := { berr := 3 } } : State).host.berr ≠ 0 ∧ ({ State.reset with host := { stage := 5 } } : State).host.stage = 5 := by decide
theorem test_bring_up : after (exec .bringUpStage { State.reset with host := { stage := 5 } }) (fun t => t.host.ready && t.host.stage == 6) = true := by decide +kernel
theorem witness_ManagementCommands : (7 : Nat) < 8 ∧ (4 : Nat) ≤ 4 ∧ (7 : Nat) ≤ 7 ∧ (3 : Nat) < 4 ∧ (List.replicate 64 (0 : Byte)).length = 64 ∧
    ([] : List Byte).length ≠ 64 ∧ (List.replicate 57 (0 : Byte)).length = 57 ∧ State.reset.host.fklock = false ∧
    ({ State.reset with host := { fklock := true } } : State).host.fklock = true ∧ (∀ i, i < 8 → (State.reset.host.mrOf i).length = 64) := by decide

/-! Witnesses: the machine as a whole. -/

/-- Context 0 moves next; its plate holds these bytes, and it stands at `off`. -/
def coded (off : Nat) (bs : List Byte) : State :=
  { withCore { core0 with ctxs := [(0, { ctx0 with off := off })], plates := [(0, { st := .active, bytes := storeBytes [] off bs })] } with next := some (.ctx 0 0) }
def turned0 (s : State) : State := s.turn.enter (.ctx 0 0)
def addO : Ops := ⟨0, 0, 4, 5, 0, 0x40, .imm 16⟩
def addI : Instr := .add addO
theorem witness_StepRunsTheDecodedInstruction : (coded 0 (encode addI)).dark = false ∧ (coded 0 (encode addI)).next = some (.ctx 0 0) ∧
    (turned0 (coded 0 (encode addI))).cx.bad = false ∧ (turned0 (coded 0 (encode addI))).plateUpset = false ∧
    (((turned0 (coded 0 (encode addI))).core 0).plate (turned0 (coded 0 (encode addI))).cx.plate).st ≠ .invalid ∧ codeOf addI = some (0, addO) ∧
    WellFormed addI = true ∧ loadBytes (turned0 (coded 0 (encode addI))).code 0 8 = encode addI ∧ (turned0 (coded 0 (encode addI))).cx.off = 0 ∧
    (turned0 (coded 0 (encode addI))).absent (loadN (turned0 (coded 0 (encode addI))).code 0 8) = false ∧
    (turned0 (coded 28 [255, 255, 255, 255])).cx.off % 32 = 28 ∧ loadN (turned0 (coded 28 [255, 255, 255, 255])).code 28 4 = 0xFFFFFFFF ∧
    ({ base with next := some (.hw .heartbeat) } : State).dark = false ∧ hartRuns addI = true := by decide +kernel
/-- The same for hart 1 of cluster 0. -/
def hartCoded : State :=
  { base with next := some (.hart 0 1), clusters := [(0, { loaded := true, gen := 1, harts := [(1, { plate := storeBytes [] 0 (encode addI) })] })] }
theorem witness_HartStep : hartCoded.dark = false ∧ (hartCoded.turn.enter (.hart 0 1)).cx.bad = false ∧ (hartCoded.turn.enter (.hart 0 1)).cx.plate = 0 ∧
    loadBytes (hartCoded.turn.enter (.hart 0 1)).code 0 8 = encode addI := by decide +kernel
/-- Offsets and words at the boundaries of each check. -/
theorem witness_FetchChecksInOrder : (turned0 { coded 0 [] with cores := [(0, { core0 with plates := [] })] }).cx.plate = 0 ∧
    (turned0 (coded 8192 [])).cx.off = 8192 ∧ (turned0 (coded 8188 [3])).cx.off % 32 = 28 ∧ (3 : Nat) % 4 = 3 ∧ 0 ≠ 0xFFFFFFFF ∧
    32 < 24 % 32 + 8 + 4 * (1 % 4) ∧ 24 % 32 + 8 + 4 * (0 % 4) ≤ 32 ∧ assigned (0x0C8 / 4 % 256) = true ∧ assigned (0x110 / 4 % 256) = false ∧
    decodeWord 0x0000010801290000 = .error .reservedBit := by
  and_intros <;> first | rfl | decide +kernel
theorem test_step : after (step (coded 0 (encode addI))) (fun t => decide (t.cx.off = 8 ∧ t.cx.rg 4 = 16)) = true := by decide +kernel
/-- The frames: an instruction of each answers a next state. -/
theorem witness_Frames : after (exec addI base) (fun _ => true) = true ∧ after (exec (.vadd (opR 0)) base) (fun _ => true) = true ∧ base.Agreed ∧
    after (exec (.sig (opR 0)) base) (fun t => t.cx.out.length == 1) = true ∧ base.memWf = true ∧ base.cx.bounded = true :=
  ⟨by decide +kernel, by decide +kernel, fun c x h => by cases h; rfl, by decide +kernel, by and_intros <;> decide⟩
theorem witness_EveryStepKeepsTheInvariant : State.reset.Inv ∧ after (step (coded 0 (encode addI))) (fun t => t.memWf) = true :=
  ⟨⟨by decide, fun w => by cases w <;> rfl⟩, by decide +kernel⟩

/-! Every premise met at once: the statements applied to one state each. -/

/-- The second of two MTS entries issues last: the context is idle again. -/
def committing2 : State :=
  withCore { core0 with commits := [0], ctxs := [(0, { ctx0 with phase := .committing, issued := 1, out := [{ act := .mts 0x110 5 }, { act := .mts 0x117 6 }] })] }
theorem runs_outboundEntryIssue (h : Sys2Proof.Claims.CommittedEntriesIssue) :
    (∃ t, exec (.outboundEntryIssue 0 0) committing = .next t ∧ SMap.get 0 (t.core 0).mailbox 0 = 5) ∧
    ∃ t, exec (.outboundEntryIssue 0 0) committing2 = .next t ∧ (t.core 0).ctx 0 = {} := by
  refine ⟨?_, ?_⟩
  · obtain ⟨t, e, f, _⟩ := h.1 committing 0 0 0x110 5 _ _ (by decide) rfl (by decide) rfl (by decide) (by decide) (by decide) (by decide) (by decide) (by decide)
    exact ⟨t, e, (f (by decide)).2⟩
  · obtain ⟨t, e, _, f⟩ := h.1 committing2 0 0 0x117 6 _ _ (by decide) rfl (by decide) rfl (by decide) (by decide) (by decide) (by decide) (by decide) (by decide)
    exact ⟨t, e, f (by decide)⟩
theorem test_commit_last : after (exec (.outboundEntryIssue 0 0) committing2) (fun t => decide
    (SMap.get 0 (t.core 0).mailbox 7 = 6 ∧ ((t.core 0).ctx 0) = {})) = true := by decide +kernel

theorem runs_activationDispatch (h : Sys2Proof.Claims.DispatchStartsTheNextActivation) :
    ∃ t, exec (.activationDispatch 0) waiting2 = .next t ∧ ((t.core 0).ctx 1).off = 0 ∧
      ((t.core 0).ctx 1).act = { fid := some 0, level := 9, first := 9, id := 16 } := by
  obtain ⟨t, k, e, rfl, _, _, _, _, _, _, _, _, _, _, _, f, g, _⟩ := h.1 waiting2 0 1 { fid := some 0, level := 9, first := 9, id := 16 }
    (by decide) (by decide) (by decide) rfl
  exact ⟨t, e, f, g⟩
theorem runs_dispatch_order (h : Sys2Proof.Claims.DispatchStartsTheNextActivation) :
    (waiting2.core 0).canStart { fid := some 0, level := 9, first := 9, id := 16 } = true ∧
    ((waiting2.core 0).ctx 1).phase = .idle := ⟨(h.2.1 _ _ (by decide)).1, (h.2.2.1 _ { fid := some 0, level := 9, first := 9, id := 16 } 1 (by decide)).1⟩
theorem runs_starvationLift (h : Sys2Proof.Claims.StarvationAndWatchdog) :
    ∃ t, exec (.starvationLift 0) { waiting2 with time := 100000 } = .next t := let ⟨t, e, _⟩ := h.1 { waiting2 with time := 100000 } 0; ⟨t, e⟩
theorem test_starvationLift : after (exec (.starvationLift 0) { waiting2 with time := 100000 }) (fun t => decide
    ((t.core 0).ready.map (fun a => (a.id, a.level, a.since)) = [(8, 4, 100000), (16, 10, 100000)])) = true := by decide +kernel
def overrun : State := withCore { core0 with wdog := 5, ctxs := [(0, { ctx0 with ran := 5 })] }
theorem runs_watchdog (h : Sys2Proof.Claims.StarvationAndWatchdog) :
    ∃ t, exec (.watchdog 0 0) overrun = .next t ∧ t = overrun.trapNow 0x0F 5 ∧ ∃ l r, t.net = l ++ [FaultRec.pkt r 0] ∧ r.cause = 0x0F ∧ r.tval = 5 := by
  obtain ⟨t, e, f, g⟩ := h.2 overrun 0 0 (by decide) (by decide)
  obtain ⟨_, l, r, n, c, v, _⟩ := g (by decide) (by decide)
  exact ⟨t, e, f rfl, l, r, n, c, v⟩
theorem test_watchdog : after (exec (.watchdog 0 0) overrun) (fun t => decide (((t.core 0).ctx 0).phase = .idle) &&
    (t.net.map fun p => match p.body with
      | .fault r => (r.cause, r.tval)
      | _ => (0, 0)) == [(0x0F, 5)]) = true := by decide +kernel

def evPkt (src t : Nat) : Pkt := pktOf (.sbevt 0 0 0 3 (evOf src t) (some ⟨0, 0, 4, 0⟩) 0 none)
def bank1 : State := banked { loaded := true, gen := 1 } []
theorem runs_stateBankEvents (h : Obligations.StateBanksStep) (i : Instr) :
    (∀ p, p = evPkt 2 5 → (i = .eventQueueArrival p ∨ i = .eventRetry p) → ∃ t : State, exec i bank1 = .next ((t.signal p.org ⟨0, 0, 4, 0⟩ 0 true p.backFrom).noted p) ∧
      (t.cluster 0).evq = [⟨0, 0, 3, evOf 2 5⟩]) ∧
    (∀ p, p = evPkt 2 4 → (i = .eventQueueArrival p ∨ i = .eventRetry p) → ∃ t : State, exec i bank1 = .next ((t.signal p.org ⟨0, 0, 4, 0⟩ 0 true p.backFrom).noted p) ∧
      ((t.core 0).aslot 0).bank.late = 1) ∧
    (∀ p, p = evPkt 5 5 → (i = .eventQueueArrival p ∨ i = .eventRetry p) → ∃ t, exec i bank1 = .next t) ∧
    (∀ p, p = evPkt 2 5 → (i = .eventQueueArrival p ∨ i = .eventRetry p) → ∃ t, exec i (withCore core0) = .next t) := by
  refine ⟨?_, ?_, ?_, ?_⟩ <;> rintro p rfl hi
  · obtain ⟨t, e, f, _⟩ := ((h.1 bank1 _ i 0 0 0 3 0 (evOf 2 5) ⟨0, 0, 4, 0⟩ _ hi rfl (by decide) rfl).2.2 (by decide +kernel) (by decide +kernel)).2.1
      (by decide +kernel) (by decide)
    exact ⟨t, e, f⟩
  · obtain ⟨t, e, f, _⟩ := ((h.1 bank1 _ i 0 0 0 3 0 (evOf 2 4) ⟨0, 0, 4, 0⟩ _ hi rfl (by decide) rfl).2.2 (by decide +kernel) (by decide +kernel)).1
      (by decide +kernel)
    exact ⟨t, e, f⟩
  · exact ⟨_, (h.1 bank1 _ i 0 0 0 3 0 (evOf 5 5) ⟨0, 0, 4, 0⟩ _ hi rfl (by decide) rfl).2.1 (by decide +kernel) (by decide +kernel)⟩
  · exact ⟨_, (h.1 (withCore core0) _ i 0 0 0 3 0 (evOf 2 5) ⟨0, 0, 4, 0⟩ _ hi rfl (by decide) rfl).1 (by decide +kernel)⟩
theorem test_event_queued : after (exec (.eventQueueArrival (evPkt 2 5)) bank1) (fun t => decide ((t.cluster 0).evq = [⟨0, 0, 3, evOf 2 5⟩])) = true ∧
    after (exec (.eventRetry (evPkt 2 4)) bank1) (fun t => decide (((t.core 0).aslot 0).bank.late = 1 ∧ (t.cluster 0).evq = [])) = true := by decide +kernel

/-- One event of step 5 waits, and one of step 6; one step is left. -/
def stepping1 : State := banked { evq := [⟨0, 0, 3, evOf 2 5⟩, ⟨0, 0, 3, evOf 2 6⟩] } [sbCmd 1]
theorem stepping1_sound : (stepping1.cluster (0 / 16)).Sound := ⟨fun _ => rfl, fun _ => rfl, fun _ => rfl⟩
theorem runs_sbStep (h : Obligations.StateBanksStep) :
    (∃ t, exec (.sbStep 0 0) stepping1 = .next t ∧ ((t.core 0).aslot 0).bank.nxt = 6 ∧ (t.core 0).regionQ = [sbCmd 0]) ∧
    ∃ t, exec (.sbStep 0 0) (banked {} [sbCmd 0]) = .next t ∧ (t.core 0).regionQ = [{ sbCmd 0 with phase := .done }] := by
  refine ⟨?_, ?_⟩
  · obtain ⟨t, b, e, rfl, n, q, _⟩ := h.2.1 stepping1 0 (sbCmd 1) [] _ _ _ _ rfl rfl rfl (by decide +kernel) (by decide) rfl (by decide +kernel) rfl
      stepping1_sound rfl rfl (by decide +kernel)
    exact ⟨t, e, n, q⟩
  · obtain ⟨t, e, q, _⟩ := h.2.2 (banked {} [sbCmd 0]) 0 (sbCmd 0) [] _ rfl rfl rfl (by decide +kernel) rfl rfl ⟨fun _ => rfl, fun _ => rfl, fun _ => rfl⟩
      (by decide +kernel) rfl rfl rfl rfl (by decide +kernel)
    exact ⟨t, e, q⟩
/-- R92 and R244 by hand: alpha 0.5 halves 2.0; 1.0 gains the event's 1.0 times weight 3.0, and 4.0 reaches theta 4.0 exactly. -/
theorem test_sbStep : roundNE f40 ((f32.decode 0x3F000000).mul (f40.decode 0x4000000000)).1 = 0x3F80000000 ∧
    roundNE f40 ((f40.decode 0x3F80000000).add ((f32.decode 0x3F800000).mul (f32.decode 0x40400000)).1).1 = 0x4080000000 ∧
    fires (f40.decode 0x4080000000) (f32.decode 0x40800000) = true := by decide +kernel

/-! Engine harts. -/

def kicked : State := withCore { core0 with engLane := [ecmd 0] }
theorem runs_engineKickArrival (h : Obligations.EngineHartsRun) :
    ∃ t, exec (.engineKickArrival 0 0) kicked = .next t ∧ (t.core 0).engLane = [] := by
  obtain ⟨t, e, f, _⟩ := h.1 kicked 0 0 (ecmd 0) [] rfl (by decide +kernel) (by decide +kernel)
  exact ⟨t, e, f⟩
theorem test_engineKickArrival : after (exec (.engineKickArrival 0 0) kicked) (fun t => decide
    ((t.core 0).engLane = [] ∧ ((t.cluster 0).hart 0).q.length = 1)) = true := by decide +kernel
/-- A command whose word 0 has a reserved bit; a COPY of bytes that has begun; one that has ended; one that has run for its limit. -/
def begun0 : State := harted { cmd := some (ecmd 0), begun := true }
theorem runs_engineCommandStart (h : Obligations.EngineHartsRun) :
    (∃ t, exec (.engineCommandStart 0 0) (harted { q := [ecmd 0x80000] }) = .next t ∧ ((t.cluster 0).hart 0).err = 0x09) ∧
    ∃ t, exec (.engineCommandStart 0 0) begun0 = .next t ∧ ((t.cluster 0).hart 0).left ≠ [] := by
  refine ⟨?_, ?_⟩
  · obtain ⟨t, e, _, _, _, f, _⟩ := h.2.2.1 (harted { q := [ecmd 0x80000] }) 0 0 (ecmd 0x80000) [] _ rfl rfl rfl rfl rfl (by decide +kernel)
    exact ⟨t, e, f⟩
  · obtain ⟨t, e, f, _⟩ := (h.2.2.2.1 begun0 begun0 0 0 (ecmd 0) { cmd := some (ecmd 0), begun := true } [0] rfl rfl rfl rfl rfl rfl
      rfl rfl rfl rfl _ rfl (by decide +kernel)).2 [.spad 0 0x100] begun0 rfl
    refine ⟨t, e, ?_⟩
    rw [f (by decide +kernel)]
    decide +kernel
def ended0 : State := harted { cmd := some (ecmd 0), finished := true }
theorem runs_engineCommandComplete (h : Obligations.EngineHartsRun) :
    ∃ t, exec (.engineCommandComplete 0 0) ended0 = .next t ∧ ((t.cluster 0).hart 0).cmd = none := by
  obtain ⟨t, e, f, _⟩ := h.2.2.2.2.1 ended0 0 0 (ecmd 0) _ rfl rfl rfl rfl ⟨0, 0, 4, 0⟩ rfl
  exact ⟨t, e, f⟩
def late0 : State := { begun0 with time := 2000000 }
theorem runs_engineWatchdog (h : Obligations.EngineHartsRun) :
    ∃ t, exec (.engineWatchdog 0 0) late0 = .next t ∧ ((t.cluster 0).hart 0).err = 0x0F := by
  obtain ⟨t, e, _, f, _⟩ := h.2.2.2.2.2 late0 0 0 (ecmd 0) _ rfl rfl rfl rfl (by decide +kernel)
  exact ⟨t, e, f⟩
theorem test_engine : after (exec (.engineCommandComplete 0 0) ended0) (fun t => decide (((t.cluster 0).hart 0).cmd = none ∧ t.net.length = 1)) = true ∧
    after (exec (.engineWatchdog 0 0) late0) (fun t => decide (((t.cluster 0).hart 0).err = 0x0F ∧ ((t.cluster 0).hart 0).finished = true)) = true ∧
    after (exec (.engineCommandStart 0 0) begun0) (fun t => decide (((t.cluster 0).hart 0).left.length = 1)) = true := by decide +kernel

/-! Collectives, streams, token buckets. -/

def contribOf (n pos : Nat) (v : Word) : Pkt := { pktOf (.contrib 2 n pos (some [v])) with spkg := ownPkg }
theorem runs_combiningContribution (h : Sys2Proof.Claims.CollectivesCombine) :
    (∃ t, exec (.combiningContribution (contribOf 3 1 5)) (group2 { cbase := [(2, 4)] }) = .next t) ∧
    (∃ t, exec (.combiningContribution (contribOf 6 1 5)) (group2 { cbase := [(2, 4)] }) = .next t ∧ (t.cluster 0).galley = [contribOf 6 1 5]) ∧
    ∃ t, exec (.combiningContribution (contribOf 0 1 5)) (group2 {}) = .next t ∧ ((t.cluster 0).op 2 0).parts = [(1, some [5])] := by
  refine ⟨?_, ?_, ?_⟩
  · exact ⟨_, (h.1 (group2 { cbase := [(2, 4)] }) (contribOf 3 1 5) 0 2 3 1 _ _ rfl rfl (by decide) (by decide +kernel) (by decide +kernel) rfl rfl).1 (by decide +kernel)⟩
  · obtain ⟨t, e, f, _⟩ := (h.1 (group2 { cbase := [(2, 4)] }) (contribOf 6 1 5) 0 2 6 1 _ _ rfl rfl (by decide) (by decide +kernel) (by decide +kernel) rfl rfl).2.1
      (by decide +kernel) (by decide +kernel)
    exact ⟨t, e, f⟩
  · obtain ⟨t, e, f, _⟩ := (h.1 (group2 {}) (contribOf 0 1 5) 0 2 0 1 _ _ rfl rfl (by decide) (by decide +kernel) (by decide +kernel) rfl rfl).2.2.2
      (by decide +kernel) (by decide +kernel) (by decide) (by decide +kernel) (by decide +kernel) (by decide +kernel) _ rfl
    exact ⟨t, e, f⟩
def resultOf (up : Bool) : Pkt := pktOf (.result 2 0 up 0 (some [8]))
theorem runs_combiningResult (h : Sys2Proof.Claims.CollectivesCombine) :
    (∃ t, exec (.combiningResult (resultOf false)) (group2 {}) = .next t ∧ (t.core 0).results = [{ grp := 2, n := 0, v := 8 }]) ∧
    ∃ t, exec (.combiningResult (resultOf true)) (group2 {}) = .next t ∧ SMap.get 0 (t.cluster 0).cbase 2 = 1 := by
  refine ⟨?_, ?_⟩
  · obtain ⟨t, e, f, _⟩ := h.2.2.2.2.2.1 (group2 {}) (resultOf false) 2 0 0 8 [] rfl (by decide +kernel) (by decide +kernel) (by decide) (by decide +kernel) (by decide +kernel)
      (fun _ m => (List.not_mem_nil m).elim)
    exact ⟨t, e, f⟩
  · obtain ⟨t, e, f, _⟩ := h.2.2.2.2.2.2 (group2 {}) (resultOf true) 0 2 0 (some [8]) rfl rfl (by decide) rfl (by decide +kernel) (by decide) rfl
      rfl (by decide +kernel) (by decide +kernel) (by decide +kernel)
    exact ⟨t, e, f⟩
theorem test_combining : after (exec (.combiningResult (resultOf true)) (group2 {})) (fun t => decide (t.net.length = 2)) = true := by decide +kernel
theorem runs_streamData (h : Sys2Proof.Claims.StreamsAndBuckets) : ∃ t, exec (.streamData 1 3 0) (streamed [1] [2, 3]) = .next t ∧
    t.streams[0]? = some { branchOf 0 with flight := [], here := [1, 2, 3] } := by
  obtain ⟨t, e, _, f⟩ := h.1 (streamed [1] [2, 3]) 1 3 0
  exact ⟨t, e, (f 0 _ rfl).2.1 rfl rfl rfl rfl⟩
/-- A bucket of 18 that gains 5, to a burst of 20. -/
def bucketed : State := { base with clusters := [(0, { loaded := true, gen := 1, tbk := [(4, 0x0000001400050064)], bucket := [(4, 18)] })] }
theorem runs_tokenBucketRefill (h : Sys2Proof.Claims.StreamsAndBuckets) : ∃ t, exec (.tokenBucketRefill 0 4) bucketed = .next t ∧
    SMap.get 0 (t.cluster 0).bucket 4 = 20 := by
  obtain ⟨t, e, f, _⟩ := h.2.1 bucketed 0 4 _ rfl rfl
  exact ⟨t, e, f⟩
theorem test_tokenBucketRefill : after (exec (.tokenBucketRefill 0 4) bucketed) (fun t => decide (SMap.get 0 (t.cluster 0).bucket 4 = 20)) = true := by decide +kernel

/-! Frame ports and channels. -/

theorem runs_frameUpdates (h : Sys2Proof.Claims.FrameUpdatesArrive) :
    (∃ t, exec (.slotSignal (pktOf (.sig 0 4 0 none false))) (slotted 0x70080001) = .next t ∧ (t.core 0).ready.length = 1) ∧
    (∃ t, exec (.sigrArrival (pktOf (.sigr 0 4 2))) (slotted 0x70080003) = .next t) ∧
    (∃ t, exec (.sendfArrival (pktOf (.sendf 0 4 9 [5]))) (slotted 0x70080002) = .next t ∧ t.slotWord 0 0 9 = 5) ∧
    (∃ t, exec (.ldfarCompletion (pktOf (.ldfarResp [(9, 5)] 0 ⟨0, 0, 4, 0⟩))) (slotted 0x70080002) = .next t ∧ t.slotWord 0 0 9 = 5) ∧
    (∃ t, exec (.atomicCompletion (pktOf (.atomicResp [(9, 5)] 0 ⟨0, 0, 4, 0⟩))) (slotted 0x70080002) = .next t ∧ t.slotWord 0 0 9 = 5) ∧
    (∃ t, exec (.slotaddArrival (pktOf (.slotadd 0 4 65534))) (slotted 0x70080001) = .next t) ∧
    (∃ t, exec (.slotsetArrival (pktOf (.slotset 0 4 7 false))) (slotted 0x70080001) = .next t ∧ t.slotWord 0 0 4 = 7) ∧
    (∃ t, exec (.slotsetArrival (pktOf (.slotset 0 4 7 true))) (slotted 0x70080001) = .next t) ∧
    ∃ t, exec (.slotSignal (pktOf (.sig 0 4 0 none false))) (slotted 0x70080000) = .next t := by
  refine ⟨?_, ?_, ?_, ?_, ?_, ?_, ?_, ?_, ?_⟩
  · obtain ⟨t, e, _, _, _, f⟩ := (h _ _ 0 4 4 _ (lands4 0x70080001 (.sig 0 4 0 none false) (by decide) (by decide)) rfl).1 1 _ [] (.inl ⟨rfl, rfl, rfl, rfl⟩)
      (by decide) (by decide) (fun q hq => (List.not_mem_nil hq).elim) (by decide) (.inr (by decide))
    obtain ⟨a, f, _⟩ := f (by decide)
    exact ⟨t, e, congrArg List.length f⟩
  · obtain ⟨t, e, _⟩ := (h _ _ 0 4 4 _ (lands4 0x70080003 (.sigr 0 4 2) (by decide) (by decide)) rfl).1 2 _ [] (.inr (.inl ⟨rfl, rfl, rfl⟩))
      (by decide) (by decide) (fun q hq => (List.not_mem_nil hq).elim) (by decide) (.inl (by decide))
    exact ⟨t, e⟩
  · obtain ⟨t, e, _, f, _⟩ := (h _ _ 0 4 4 _ (lands4 0x70080002 (.sendf 0 4 9 [5]) (by decide) (by decide)) rfl).1 1 _ [(9, 5)]
      (.inr (.inr (.inl ⟨9, [5], rfl, rfl, rfl, rfl⟩))) (by decide) (by decide) (by decide) (by decide) (.inl (by decide))
    exact ⟨t, e, f (9, 5) List.mem_cons_self⟩
  · obtain ⟨t, e, _, f, _⟩ := (h _ _ 0 4 4 _ (lands4 0x70080002 (.ldfarResp [(9, 5)] 0 ⟨0, 0, 4, 0⟩) (by decide) (by decide)) rfl).1 1 _ [(9, 5)]
      (.inr (.inr (.inr (.inl ⟨⟨0, 0, 4, 0⟩, 0, rfl, rfl, rfl, rfl, rfl, rfl⟩)))) (by decide) (by decide) (by decide) (by decide) (.inl (by decide))
    exact ⟨t, e, f (9, 5) List.mem_cons_self⟩
  · obtain ⟨t, e, _, f, _⟩ := (h _ _ 0 4 4 _ (lands4 0x70080002 (.atomicResp [(9, 5)] 0 ⟨0, 0, 4, 0⟩) (by decide) (by decide)) rfl).1 1 _ [(9, 5)]
      (.inr (.inr (.inr (.inr ⟨⟨0, 0, 4, 0⟩, 0, rfl, rfl, rfl, rfl, rfl, rfl⟩)))) (by decide) (by decide) (by decide) (by decide) (.inl (by decide))
    exact ⟨t, e, f (9, 5) List.mem_cons_self⟩
  · obtain ⟨t, e, _⟩ := (h _ _ 0 4 4 _ (lands4 0x70080001 (.slotadd 0 4 65534) (by decide) (by decide)) rfl).2.1 65534 rfl (by decide)
    exact ⟨t, e⟩
  · obtain ⟨t, e, f, _⟩ := (h _ _ 0 4 4 _ (lands4 0x70080001 (.slotset 0 4 7 false) (by decide) (by decide)) rfl).2.2.1 7 rfl
    exact ⟨t, e, f⟩
  · obtain ⟨t, e, _⟩ := (h _ _ 0 4 4 _ (lands4 0x70080001 (.slotset 0 4 7 true) (by decide) (by decide)) rfl).2.2.2.1 7 rfl
    exact ⟨t, e⟩
  · exact ⟨_, (h _ _ 0 4 4 _ (lands4 0x70080000 (.sig 0 4 0 none false) (by decide) (by decide)) rfl).2.2.2.2 _ rfl (by decide) (by decide)⟩

/-- Channel 2 open, blocked and undefined; a core whose input queue is full, with the galley empty and full. -/
def chanState (w : Word) (k : Core) (g : List Pkt) : State :=
  { withCore { k with tasks := [(2, w)] } with clusters := [(0, { loaded := true, gen := 1, galley := g })] }
def chanPkt : Pkt := pktOf (.chan 2 [7])
def waits (n : Nat) : List Pkt := List.replicate n chanPkt
theorem runs_channelMessage (h : Sys2Proof.Claims.ChannelMessagesArrive) :
    (∃ t, exec (.channelMessage chanPkt) (chanState 0x80005408 core0 []) = .next t) ∧
    (∃ t, exec (.channelMessage chanPkt) (chanState 0xC0005408 core0 []) = .next t) ∧
    (∃ t, exec (.channelMessage chanPkt) (chanState 0xC0005408 { core0 with inputQ := waits 16 } []) = .next t) ∧
    (∃ t, exec (.channelMessage chanPkt) (chanState 0xC0005408 { core0 with inputQ := waits 16 } (waits 64)) = .next t) ∧
    (∃ t, exec (.channelMessage { chanPkt with own := some ⟨0, 0, 4, 0⟩ }) (chanState 0xC0005408 { core0 with inputQ := waits 16 } (waits 64)) = .next t) ∧
    ∃ t, exec (.channelMessage chanPkt) (chanState 0x5408 core0 []) = .next t := by
  refine ⟨?_, ?_, ?_, ?_, ?_, ?_⟩
  · obtain ⟨t, _, e, _⟩ := (h (chanState 0x80005408 core0 []) chanPkt 2 _ (by decide) rfl).1 [7] rfl (by decide +kernel) rfl |>.1 (by decide +kernel) (by decide +kernel) (by decide +kernel)
    exact ⟨t, e⟩
  · exact ⟨_, ((h (chanState 0xC0005408 core0 []) chanPkt 2 _ (by decide) rfl).1 [7] rfl (by decide +kernel) rfl |>.2.1 (by decide +kernel) (by decide +kernel)).1 (by decide +kernel)⟩
  · exact ⟨_, ((h (chanState 0xC0005408 { core0 with inputQ := waits 16 } []) chanPkt 2 _ (by decide) rfl).1 [7] rfl (by decide +kernel) rfl |>.2.1 (by decide +kernel) (by decide +kernel)).2.1
      (by decide +kernel) (by decide +kernel)⟩
  · exact ⟨_, (((h (chanState 0xC0005408 { core0 with inputQ := waits 16 } (waits 64)) chanPkt 2 _ (by decide) rfl).1 [7] rfl (by decide +kernel) rfl |>.2.1 (by decide +kernel) (by decide +kernel)).2.2
      (by decide +kernel) (by decide +kernel)).1 rfl⟩
  · exact ⟨_, (((h (chanState 0xC0005408 { core0 with inputQ := waits 16 } (waits 64)) { chanPkt with own := some ⟨0, 0, 4, 0⟩ } 2 _ (by decide) rfl).1 [7] rfl (by decide +kernel) rfl |>.2.1
      (by decide +kernel) (by decide +kernel)).2.2 (by decide +kernel) (by decide +kernel)).2 _ rfl⟩
  · exact ⟨_, (h (chanState 0x5408 core0 []) chanPkt 2 _ (by decide) rfl).1 [7] rfl (by decide +kernel) rfl |>.2.2 (by decide +kernel)⟩
theorem runs_blockAndUnblock (h : Sys2Proof.Claims.ChannelMessagesArrive) :
    (∃ t, exec (.chblkArrival (pktOf (.chblk 2))) (chanState 0x80005408 core0 []) = .next t) ∧
    ∃ t, exec (.chunbArrival (pktOf (.chunb 2))) (chanState 0xC0005408 { core0 with inputQ := waits 2 } (waits 3)) = .next t ∧
      ∃ as : List Act, (t.core 0).ready = as ∧ as.length = 5 := by
  refine ⟨?_, ?_⟩
  · obtain ⟨t, e, _⟩ := (h (chanState 0x80005408 core0 []) (pktOf (.chblk 2)) 2 _ (by decide) rfl).2.1 rfl (by decide +kernel)
    exact ⟨t, e⟩
  · obtain ⟨t, e, _, _, _, f⟩ := (h (chanState 0xC0005408 { core0 with inputQ := waits 2 } (waits 3)) (pktOf (.chunb 2)) 2 _ (by decide) rfl).2.2 rfl (by decide +kernel)
      _ _ _ rfl rfl rfl
    obtain ⟨as, f, _, g⟩ := f rfl _ rfl (by decide +kernel)
    exact ⟨t, e, as, f, g.trans (by decide +kernel)⟩
theorem test_unblock : after (exec (.chunbArrival (pktOf (.chunb 2))) (chanState 0xC0005408 { core0 with inputQ := waits 2 } (waits 3))) (fun t => decide
    ((t.core 0).ready.length = 5 ∧ (t.core 0).inputQ = [] ∧ (t.cluster 0).galley = [])) = true := by decide +kernel

/-- Frame 0 holds granules 1 to 255 in sixteen parts but for the one run. -/
theorem runs_frames (h : Sys2Proof.Claims.FramesComeAndGo) :
    (∃ t, exec (.fallocServe (pktOf (.falloc 1 9 ⟨0, 0, 4, 0⟩))) oneRun = .next t ∧ t.net.length = 1) ∧
    (∃ t, exec (.frameRelease 0 0) (withCore { core0 with ftab := [(0, { v := true, res := true, freq := true })] }) = .next t) ∧
    ∃ t, exec (.frameReload 0 16) { oneRun with cores := [(0, { (oneRun.core 0) with ftab := (oneRun.core 0).ftab ++ [(16, { v := true, rld := true })] })] } = .next t := by
  refine ⟨?_, ?_, ?_⟩
  · obtain ⟨t, e, _, _, _, n⟩ := h.1 oneRun (pktOf (.falloc 1 9 ⟨0, 0, 4, 0⟩)) 1 9 16 255 ⟨0, 0, 4, 0⟩ rfl (by decide) (by decide +kernel) (by decide)
      (by decide +kernel) rfl (by decide +kernel) (by decide)
    exact ⟨t, e, congrArg List.length n⟩
  · exact ⟨_, h.2.2.1 _ 0 0 (by decide +kernel)⟩
  · obtain ⟨t, e, _⟩ := h.2.2.2.2 { oneRun with cores := [(0, { (oneRun.core 0) with ftab := (oneRun.core 0).ftab ++ [(16, { v := true, rld := true })] })] } 0 16 255 _ rfl
      (by decide +kernel) (by decide +kernel) (by decide +kernel) (by decide +kernel) (by decide +kernel) (fun a ha => (List.not_mem_nil ha).elim)
    exact ⟨t, e⟩

/-! Memory accesses, write-once words, the routing log, timers, fills and walks. -/

def storePkt : Pkt := pktOf (.store ([(1 : Byte)].mapIdx fun i b => (Loc.spad 0 (8 + i), b)) (own 8).toNat [])
theorem portOpen1 : base.PortOpen 0 8 1 { gen := 1 } true := by constructor <;> decide
/-- A store to the own scratchpad, in the base die, at a line of its home slice, and one that no window of cluster 0 lets in. -/
def homed : State := { base with llc := [(0, some { data := List.replicate 64 0, dirty := false })] }
def outsider : Pkt := { storePkt with org := { gen := 1, core := 16 }, src := 16 }
theorem runs_storePerform (h : Obligations.MemoryAccessesPerform) :
    (∃ t, exec (.storePerform storePkt) base = .next t ∧ SMap.get 0 (t.cluster 0).spad 8 = 1) ∧
    (∃ t, exec (.storePerform (pktOf (.store ([(1 : Byte)].mapIdx fun i b => (Loc.side (8 + i) false, b)) 8 []))) base = .next t ∧ SMap.get 0 t.hbm 8 = 1) ∧
    (∃ t, exec (.storePerform (pktOf (.store ([(1 : Byte)].mapIdx fun i b => (Loc.mem (8 + i), b)) 8 []))) homed = .next t ∧ t.homeByte 8 = 1) ∧
    ∃ t r, exec (.storePerform outsider) base = .next t ∧ t.net = [FaultRec.pkt r 1] ∧ r.cause = 0x0A := by
  refine ⟨?_, ?_, ?_, ?_⟩
  · obtain ⟨t, e, f, _⟩ := ((h.1 base storePkt (own 8).toNat [1] [] (by decide) (calm0 _ (by decide))).1 0 8 rfl).1 (by decide) portOpen1
    exact ⟨t, e, f 0 1 rfl⟩
  · obtain ⟨t, e, f, _⟩ := (h.1 base (pktOf (.store ([(1 : Byte)].mapIdx fun i b => (Loc.side (8 + i) false, b)) 8 [])) 8 [1] [] (by decide) (calm0 _ (by decide))).2.1
      8 false rfl (by decide) (by decide)
    exact ⟨t, e, f 0 1 rfl⟩
  · obtain ⟨t, e, f, _⟩ := (h.1 homed (pktOf (.store ([(1 : Byte)].mapIdx fun i b => (Loc.mem (8 + i), b)) 8 [])) 8 [1] [] (by decide) ⟨by decide, rfl⟩).2.2
      8 _ rfl rfl rfl rfl (by decide) (by decide)
    exact ⟨t, e, f 0 1 rfl⟩
  · obtain ⟨t, r, e, _, _, n, c, _⟩ := ((h.1 base outsider (own 8).toNat [1] [] (by decide) ⟨by decide, rfl⟩).1 0 8 rfl).2 rfl (by decide)
    exact ⟨t, r, e, n, c⟩
theorem test_store : after (exec (.storePerform storePkt) base) (fun t => decide (SMap.get 0 (t.cluster 0).spad 8 = 1)) = true ∧
    after (exec (.storePerform outsider) base) (fun t => decide (t.net.length = 1 ∧ t.clusters = base.clusters)) = true := by decide +kernel

def ldfarPkt (fault : Nat) : Pkt :=
  pktOf (.ldfar ((List.range 8).map fun i => (i, Loc.spad 0 (8 + i))) [] (own 8).toNat 3 false fault 2 ⟨0, 0, 4, 0⟩)
theorem runs_ldfarRead (h : Obligations.MemoryAccessesPerform) :
    (∃ t, exec (.ldfarRead (ldfarPkt 0)) base = .next t) ∧ (∃ t, exec (.ldfarRead (ldfarPkt 8)) base = .next t) ∧
    ∃ t, exec (.ldfarRead { ldfarPkt 0 with org := { gen := 1, core := 16 }, src := 16 }) base = .next t :=
  ⟨⟨_, (h.2.1 base (ldfarPkt 0) 0 8 8 3 2 _ 0 _ (calm0 _ (by decide)) rfl rfl rfl).1 rfl portOpenRead⟩,
   ⟨_, (h.2.1 base (ldfarPkt 8) 0 8 8 3 2 _ 8 _ (calm0 _ (by decide)) rfl rfl rfl).2.2 (by decide)⟩,
   ⟨_, (h.2.1 base { ldfarPkt 0 with org := { gen := 1, core := 16 }, src := 16 } 0 8 8 3 2 _ 0 _ ⟨by decide, rfl⟩ rfl rfl rfl).2.1 rfl rfl (by decide)⟩⟩
def atomicPkt : Pkt := pktOf (.atomic ⟨.spad 0 8, (own 8).toNat, 8, .add, 1, 0, false, 0, some (2, ⟨0, 0, 4, 0⟩), false, false⟩)
theorem runs_atomicAtTarget (h : Obligations.MemoryAccessesPerform) : ∃ t, exec (.atomicAtTarget atomicPkt) base = .next t := by
  obtain ⟨t, e, _⟩ := h.2.2.1 base atomicPkt _ 0 8 2 ⟨0, 0, 4, 0⟩ (calm0 _ (by decide)) rfl rfl rfl rfl portOpen0 _ _ rfl rfl
  exact ⟨_, e⟩
theorem test_atomicAtTarget : after (exec (.atomicAtTarget atomicPkt) base) (fun t => decide (loadN (t.cluster 0).spad 8 8 = 1)) = true := by decide +kernel

def woState (st : WoState) : State := { base with clusters := [(0, { loaded := true, gen := 1, wo := SMap.put .empty [] 1 st })] }
def woFull : State :=
  { base with clusters := [(0, { loaded := true, gen := 1, readers := List.replicate 1024 (Reader.mk 0 0 ⟨0, 0, 4, 0⟩ 1 {}) })] }
theorem woOpen (st : WoState) : (woState st).PortOpen 0 8 8 { gen := 1 } true := by cases st <;> constructor <;> decide
theorem woOpenFull : woFull.PortOpen 0 8 8 { gen := 1 } true := by constructor <;> decide
theorem woCalm (st : WoState) (b : Body) (h : (woState st).staleAt (pktOf b) = false) : (woState st).Calm (pktOf b) := ⟨h, rfl⟩
def isrdPkt (n : Nat) : Pkt := pktOf (.isrd (.spad 0 8) (own 8).toNat 0 2 ⟨0, 0, 4, 0⟩ n)
theorem runs_writeOnce (h : Sys2Proof.Claims.WriteOnceWords) :
    (∀ st, ∃ t, exec (.istwArrival (pktOf (.istw (.spad 0 8) (own 8).toNat 5 0 (some ⟨0, 0, 4, 0⟩)))) (woState st) = .next t) ∧
    (∀ st, ∃ t, exec (.istwClrArrival (pktOf (.istwClr (.spad 0 8) (own 8).toNat 0 (some ⟨0, 0, 4, 0⟩)))) (woState st) = .next t) ∧
    (∀ st i, (i = .isrdArrival (isrdPkt 0) ∨ i = .isrdRetry (isrdPkt 0)) → ∃ t, exec i (woState st) = .next t) ∧
    ∀ n i, (i = .isrdArrival (isrdPkt n) ∨ i = .isrdRetry (isrdPkt n)) → ∃ t, exec i woFull = .next t := by
  refine ⟨fun st => ?_, fun st => ?_, fun st i hi => ?_, fun n i hi => ?_⟩
  · have := (h (woState st) _ 0 8 _ 0 0 5 ⟨0, 0, 4, 0⟩ st
      (woCalm st (.istw (.spad 0 8) (own 8).toNat 5 0 (some ⟨0, 0, 4, 0⟩)) (by cases st <;> decide)) rfl (by cases st <;> rfl) (woOpen st)).1 rfl
    by_cases e : st = .full
    · exact ⟨_, this.2 e⟩
    · obtain ⟨_, x, _⟩ := this.1 e
      exact ⟨_, x⟩
  · have := (h (woState st) _ 0 8 _ 0 0 5 ⟨0, 0, 4, 0⟩ st (woCalm st (.istwClr (.spad 0 8) (own 8).toNat 0 (some ⟨0, 0, 4, 0⟩)) (by cases st <;> decide)) rfl
      (by cases st <;> rfl) (woOpen st)).2.1 rfl
    by_cases e : st = .deferred
    · exact ⟨_, this.2 e⟩
    · obtain ⟨_, x, _⟩ := this.1 e
      exact ⟨_, x⟩
  · have := (h (woState st) (isrdPkt 0) 0 8 _ 2 0 5 ⟨0, 0, 4, 0⟩ st (woCalm st _ (by cases st <;> decide)) rfl (by cases st <;> rfl) (woOpen st)).2.2.2.2 i hi rfl
    by_cases e : st = .full
    · exact ⟨_, this.1 e⟩
    · obtain ⟨t, x, _⟩ := this.2.1 e (by cases st <;> decide)
      exact ⟨t, x⟩
  · have := (h woFull (isrdPkt n) 0 8 _ 2 n 5 ⟨0, 0, 4, 0⟩ .empty ⟨rfl, rfl⟩ rfl rfl woOpenFull).2.2.2.2 i hi rfl
    rcases Nat.lt_or_ge n 16 with l | l
    · exact ⟨_, this.2.2.1 (by decide) (Nat.le_of_eq List.length_replicate.symm) l⟩
    · exact ⟨_, this.2.2.2 (by decide) (Nat.le_of_eq List.length_replicate.symm) l⟩
theorem test_writeOnce : after (exec (.istwArrival (pktOf (.istw (.spad 0 8) (own 8).toNat 5 0 none))) base) (fun t => decide
    (loadN (t.cluster 0).spad 8 8 = 5 ∧ SMap.get .empty (t.cluster 0).wo 1 = .full)) = true := by decide +kernel

theorem runs_timerFire (h : Sys2Proof.Claims.RoutingLogAndTimers) :
    ∃ t, exec (.timerFire 0 0) { withCore { core0 with timers := [⟨5, ⟨0, 0, 4, 0⟩, 1⟩] } with time := 5 } = .next t :=
  ⟨_, h.2.2 { withCore { core0 with timers := [⟨5, ⟨0, 0, 4, 0⟩, 1⟩] } with time := 5 } 0 0 _ rfl (by decide) (by decide)⟩
theorem runs_l1Fill (h : Obligations.FillsAndWalks) : ∃ t, exec (.l1Fill 0 0x4000) filling = .next t := by
  obtain ⟨t, e, _⟩ := h.1 filling 0 0x4000 _ (by decide) rfl rfl rfl rfl (by decide +kernel)
  exact ⟨t, e⟩

/-! Matrix commands and suspect units. -/

theorem runs_matrixCommandAccept (h : Sys2Proof.Claims.MatrixCommandsRun) :
    (∃ t, exec (.matrixCommandAccept 0) (laned .mma) = .next t ∧ ((t.core 0).aslot 0).st = .busy) ∧
    ∃ t, exec (.matrixCommandAccept 0) (laned .mstc) = .next t ∧ (t.core 0).regionQ = [] := by
  refine ⟨?_, ?_⟩
  · obtain ⟨t, e, _, _, _, _, f, _⟩ := (h.1 (laned .mma) 0 (mcmd .mma .queued) [] _ rfl (by decide) rfl).1 (by decide) (by decide)
    exact ⟨t, e, (f rfl rfl (by decide)).1⟩
  · obtain ⟨t, e, _, f, _⟩ := (h.1 (laned .mstc) 0 (mcmd .mstc .queued) [] _ rfl (by decide) rfl).2 (by decide) _ rfl
    exact ⟨t, e, f⟩
theorem queued_sound (op : MOp) (ph : MPhase) : ((queued op ph).cluster (0 / 16)).Sound := ⟨fun _ => rfl, fun _ => rfl, fun _ => rfl⟩
theorem runs_matrixCommandStart (h : Sys2Proof.Claims.MatrixCommandsRun) :
    (∃ t, exec (.matrixCommandStart 0 0) (queued .mzero .queued) = .next t) ∧ ∃ t, exec (.matrixCommandStart 0 0) (queued .mma .queued) = .next t := by
  refine ⟨?_, ?_⟩
  · obtain ⟨t, e, _⟩ := h.2.2.2.1 (queued .mzero .queued) 0 (mcmd .mzero .queued) [] rfl rfl rfl (by decide +kernel)
    exact ⟨t, e⟩
  · obtain ⟨t, e, _⟩ := h.2.2.2.2.1 (queued .mma .queued) 0 (mcmd .mma .queued) [] _ _ rfl rfl rfl (by decide +kernel) rfl (queued_sound _ _) (by decide +kernel) rfl
      (by decide +kernel) (by decide +kernel) (by decide +kernel) _ _ _ rfl rfl rfl
    exact ⟨t, e⟩
theorem runs_matrixCommandComplete (h : Sys2Proof.Claims.MatrixCommandsRun) :
    (∃ t, exec (.matrixCommandComplete 0 0) (queued .mma .done) = .next t ∧ ((t.core 0).aslot 0).st = .held) ∧
    ∃ t, exec (.matrixCommandComplete 0 0) (queued .mrel .done) = .next t ∧ ((t.core 0).aslot 0).st = .free := by
  refine ⟨?_, ?_⟩
  · obtain ⟨t, e, _, _, _, f⟩ := h.2.2.2.2.2.1 (queued .mma .done) 0 (mcmd .mma .done) [] ⟨0, 0, 4, 0⟩ _ rfl rfl rfl rfl (by decide)
    exact ⟨t, e, (f rfl (by decide) (by decide)).2⟩
  · obtain ⟨t, e, _, _, f, _⟩ := h.2.2.2.2.2.1 (queued .mrel .done) 0 (mcmd .mrel .done) [] ⟨0, 0, 4, 0⟩ _ rfl rfl rfl rfl (by decide)
    exact ⟨t, e, (f rfl (by decide) (by decide)).1⟩
/-- A group command that has waited, alone on its region of a group of two. -/
def lonely : State := { queued .mmag .queued with time := 2000000 }
theorem runs_groupCommandTimeout (h : Sys2Proof.Claims.MatrixCommandsRun) :
    ∃ t, exec (.groupCommandTimeout 0 (mcmd .mmag .queued).seq) lonely = .next t := by
  rcases e : lonely.atHeads (mcmd .mmag .queued) with _ | x
  · obtain ⟨t, f, _⟩ := (h.2.2.2.2.2.2 lonely 0 (mcmd .mmag .queued) rfl rfl rfl rfl (by decide +kernel)).2 e
    exact ⟨t, f⟩
  · exact ⟨_, (h.2.2.2.2.2.2 lonely 0 (mcmd .mmag .queued) rfl rfl rfl rfl (by decide +kernel)).1 (by rw [e]; exact Option.some_ne_none _)⟩
theorem test_matrix : after (exec (.matrixCommandComplete 0 0) (queued .mma .done)) (fun t => decide (((t.core 0).aslot 0).st = .held ∧ t.net.length = 1)) = true ∧
    after (exec (.matrixCommandAccept 0) (laned .mstc)) (fun t => decide ((t.core 0).regionQ = [] ∧ t.net.length = 1)) = true := by decide +kernel
theorem runs_suspects (h : Obligations.MatrixCommandsAndSuspectUnits) : (∃ t, exec (.quarantineRemap 0 3) base = .next t) ∧
    ∃ t, exec .suspectScoreDecay State.reset = .next t := by
  refine ⟨?_, ?_⟩
  · rcases e : (base.cluster 0).freeSpare 3 with _ | x
    · by_cases f : (base.host.evhead + 1) % 2 ^ base.host.evlsz = base.host.evtail % 2 ^ base.host.evlsz
      · exact ⟨_, (h.2.1 base 0 3 _ rfl (by decide)).2.2 e f⟩
      · obtain ⟨t, g, _⟩ := (h.2.1 base 0 3 _ rfl (by decide)).2.1 e f
        exact ⟨t, g⟩
    · obtain ⟨t, g, _⟩ := (h.2.1 base 0 3 _ rfl (by decide)).1 x e
      exact ⟨t, g⟩
  · obtain ⟨t, g, _⟩ := h.2.2.2.2 State.reset (by decide) (fun _ => rfl)
    exact ⟨t, g⟩

/-! Launches, faults, rounds, gangs. -/

/-- A state that is offered one input, and its offer. -/
def offered (s : State) (i : Instr) (x : Input) : State := { s with inputs := [(i, x)] }
def taken (s : State) : State := { s with inputs := [] }
theorem offer_of (s : State) (i : Instr) (x : Input) : (offered s i x).Offers i x (taken s) := offers s i x
theorem runs_tokenArrival (h : Sys2Proof.Claims.TokensAtPorts) (i : Instr) (hi : i = .launchToken ∨ i = .placementToken) :
    (∃ t, exec i (offered base i (.token 0 [0x101, 0])) = .next t ∧ (t.port 0).discarded = 1) ∧
    (∃ t, exec i (offered up i (.token 63 [0x101, 0])) = .next t ∧ (t.port 63).tokens.length = 1) ∧
    ∃ t, exec i (offered { up with ports := [(0, { stream := some 1 })] } i (.token 0 [0x702])) = .next t ∧ (t.port 0).tokens = [([0x702], [])] := by
  refine ⟨?_, ?_, ?_⟩
  · obtain ⟨t, e, _, f⟩ := (h.1 _ _ i 0 [0x101, 0] hi (offer_of base i _)).1 (.inl rfl)
    exact ⟨t, e, f⟩
  · rcases e : (taken up).readRecord [0x101, 0] (if tokenKind [0x101, 0] = 1 then 16 else 8) with ⟨r, v⟩
    obtain ⟨t, f, g, _⟩ := ((h.1 _ _ i 63 [0x101, 0] hi (offer_of up i _)).2 rfl (by decide) (by decide)).1 (.inl (by decide)) r v e
    have : (v.port 63).tokens = [] := by
      have := congrArg Prod.snd e
      simp only at this
      rw [← this]
      decide +kernel
    exact ⟨t, f, by rw [g, this]; rfl⟩
  · obtain ⟨t, f, g⟩ := ((h.1 _ _ i 0 [0x702] hi (offer_of { up with ports := [(0, { stream := some 1 })] } i _)).2 rfl (by decide) (by decide)).2 (by decide) (by decide)
    exact ⟨t, f, g⟩
/-- Port 0's stream is that of the running instance 1, which takes one token on its core 3's channel 2. -/
def streaming (n : Nat) : State :=
  { State.reset with insts := [{ gen := 1, st := .running, ntok := 1, iCore := 3, iCh := 2, port := some 0 }]
                     ports := [(0, { stream := some 1, tokens := [([0x102 + BitVec.ofNat 64 (n * 2 ^ 32), 7], [])] })] }
theorem runs_inputToken (h : Sys2Proof.Claims.TokensAtPorts) :
    (∃ t x, exec (.inputToken 0) (streaming 0) = .next t ∧ t.net = [x] ∧ x.dst = 3) ∧ (∃ t, exec (.inputToken 0) (streaming 1) = .next t ∧ t.net = []) ∧
    ∃ t, exec (.inputToken 0) { State.reset with ports := [(0, { tokens := [([0x102], [])] })] } = .next t := by
  refine ⟨?_, ?_, ?_⟩
  · obtain ⟨t, x, e, _, _, _, n, d, _⟩ := ((h.2 (streaming 0) 0 _ [] [] rfl (by decide) (by decide)).2 1 _ rfl rfl rfl).1 (by decide) (by decide) (by decide)
    exact ⟨t, x, e, n, d⟩
  · obtain ⟨t, e, _, _, n⟩ := ((h.2 (streaming 1) 0 _ [] [] rfl (by decide) (by decide)).2 1 _ rfl rfl rfl).2 (.inl (by decide))
    exact ⟨t, e, n⟩
  · obtain ⟨t, e, _⟩ := (h.2 { State.reset with ports := [(0, { tokens := [([0x102], [])] })] } 0 _ [] [] rfl (by decide) (by decide)).1 rfl
    exact ⟨t, e⟩
theorem test_inputToken : after (exec (.inputToken 0) (streaming 0)) (fun t => decide (t.net.map (fun p => (p.dst, p.gen)) = [(3, 1)] ∧ (t.port 0).tokens = [])) = true := by
  decide +kernel

/-- The state in which the launch of `record5` has loaded frames and HBM4. -/
def loaded5 : Option (State × State) :=
  match (([0] : List Nat).foldl State.rebuild locked).tryLoad (imageOf (image7 0)) 0 0 [0] with
  | .ok t => (t.loadHbm (imageOf (image7 0)) ((launching record5).port 0).proot ((imageOf (image7 0)).recs 0x0E)).map fun u => (t, u)
  | .error _ => none
theorem runs_launchStart (h : Sys2Proof.Claims.LaunchesStart) :
    (∃ t, exec (.launchStart 0) (launching []) = .next t ∧ (t.port 0).discarded = 1) ∧ (∃ t, exec (.launchStart 0) (launching (record5.set 0 0)) = .next t) ∧
    (∃ t, exec (.launchStart 0) (launching (record5.set 3 0)) = .next t) ∧
    (loaded5.map (fun q => q.2.insts) = some [] → ∃ t i, exec (.launchStart 0) (launching record5) = .next t ∧ t.inst? 0 = some i ∧ i.lid = 5) := by
  refine ⟨?_, ?_, ?_, fun hl => ?_⟩
  · obtain ⟨t, e, _, f⟩ := (h.1 (launching []) 0 _ [] [] rfl (by decide)).1 rfl
    exact ⟨t, e, f⟩
  · exact ⟨_, (h.1 (launching (record5.set 0 0)) 0 _ _ [] rfl (by decide)).2.1 _ rfl (by decide) (by decide)⟩
  · exact ⟨_, (h.1 (launching (record5.set 3 0)) 0 _ _ [] rfl (by decide)).2.2.1 _ rfl (by decide) (by decide) (by decide +kernel) (by decide)⟩
  · unfold loaded5 at hl
    rcases e : (([0] : List Nat).foldl State.rebuild locked).tryLoad (imageOf (image7 0)) 0 0 [0] with x | t
    · rw [e] at hl; exact nomatch hl
    · rw [e] at hl
      rcases f : t.loadHbm (imageOf (image7 0)) ((launching record5).port 0).proot ((imageOf (image7 0)).recs 0x0E) with _ | u0
      · simp only [f] at hl; exact nomatch hl
      · have n : u0.insts = [] := by simp only [f] at hl; exact Option.some.inj hl
        obtain ⟨u, i, x, _, _, y, _, z, _⟩ := (h.1 (launching record5) 0 _ _ [] rfl (by decide)).2.2.2 _ (imageOf (image7 0)) 0 t u0 [0] (by decide) (by decide)
          (by decide +kernel) (by decide) rfl (by decide +kernel) (by decide +kernel) locked rfl rfl rfl (by decide +kernel) rfl e f (by rw [n]; exact fun _ m => (List.not_mem_nil m).elim)
        exact ⟨u, i, x, y, z⟩
theorem loaded5_insts : loaded5.map (fun q => q.2.insts) = some [] := by decide +kernel

theorem runs_instances (h : Sys2Proof.Claims.InstancesEnd) :
    (∃ t, exec (.instanceUnload 1) { State.reset with insts := [{ gen := 1, st := .draining }] } = .next t) ∧
    (∃ t, exec (.generationProbe 1) (ending .unloaded) = .next t ∧ t.inst? 1 = none) ∧
    (∃ t, exec (.generationProbe 1) { ending .unloaded with net := [pktOf (.sig 0 4 0 none false)] } = .next t) ∧
    ∃ t, exec (.reclaim 1) (ending .frozen) = .next t ∧ ∀ p ∈ t.net, p.gen ≠ 1 := by
  refine ⟨?_, ?_, ?_, ?_⟩
  · obtain ⟨t, e, _⟩ := h.1 { State.reset with insts := [{ gen := 1, st := .draining }] } 1 _ rfl rfl rfl (by decide +kernel)
    exact ⟨t, e⟩
  · obtain ⟨t, e, _, f, _⟩ := (h.2.1 (ending .unloaded) 1 _ rfl rfl).1 (by decide)
    exact ⟨t, e, f⟩
  · exact ⟨_, (h.2.1 { ending .unloaded with net := [pktOf (.sig 0 4 0 none false)] } 1 _ rfl rfl).2 (by decide)⟩
  · obtain ⟨t, e, _, _, f, _⟩ := h.2.2.2 (ending .frozen) 1 _ 0 0 rfl rfl (by decide) (by decide) ⟨_, List.mem_cons_self⟩
      (fun t h => by cases List.mem_singleton.mp h; exact Option.some_ne_none _) (fun _ => rfl)
    exact ⟨t, e, f⟩
theorem test_reclaim : after (exec (.generationProbe 1) (ending .unloaded)) (fun t => decide (t.insts = [])) = true := by decide +kernel

theorem runs_faultRecords (h : Sys2Proof.Claims.FaultRecordsClimb) :
    (∃ t, exec (.faultRecordArrival 0 (recOf (.slot 0 0 4) 5)) State.reset = .next t) ∧
    (∃ t, exec (.faultRecordArrival 0 (recOf (.slot 0 0 4) 5)) (faulty .running {}) = .next t) ∧
    (∃ t, exec (.faultRecordArrival 0 (recOf (.slot 0 0 4) 5)) (faulty .frozen {}) = .next t) ∧
    (∃ t, exec (.faultRecordArrival 0 (recOf (.slot 0 0 4) 5)) (faulty .frozen { site := [⟨recOf (.slot 0 0 4) 5, 0⟩] }) = .next t) ∧
    (∃ t, exec (.siteRecordForward 0) (faulty .frozen { site := [⟨recOf (.slot 0 0 4) 5, 0⟩] }) = .next t ∧ (t.cluster 0).site = []) ∧
    ∃ t, exec (.guardLogRaise 0) (faulty .frozen { glog := [⟨0, 0, 0, 0, 0, 1, 0, {}⟩] }) = .next t ∧ (t.cluster 0).glog = [] := by
  refine ⟨⟨_, h.1 State.reset 0 _ rfl⟩, ?_, ?_, ?_, ?_, ?_⟩
  · obtain ⟨t, _, e, _⟩ := (h.2.1 (faulty .running {}) 0 (recOf (.slot 0 0 4) 5) _ rfl (by decide) (by decide)).1 (.inl rfl) (fun _ _ m => (List.not_mem_nil m).elim)
      (fun _ _ m => (List.not_mem_nil m).elim)
    exact ⟨t, e⟩
  · exact ⟨_, (h.2.1 (faulty .frozen {}) 0 (recOf (.slot 0 0 4) 5) _ rfl (by decide) (by decide)).2.1 rfl rfl⟩
  · exact ⟨_, (h.2.1 (faulty .frozen { site := [⟨recOf (.slot 0 0 4) 5, 0⟩] }) 0 (recOf (.slot 0 0 4) 5) _ rfl (by decide) (by decide)).2.2 _ rfl rfl rfl rfl⟩
  · obtain ⟨t, e, f, _⟩ := (h.2.2.2.1 (faulty .frozen { site := [⟨recOf (.slot 0 0 4) 5, 0⟩] }) 0 _ _ rfl (by decide) rfl).2 (by decide) rfl rfl
    exact ⟨t, e, f⟩
  · obtain ⟨t, r, e, f, _⟩ := h.2.2.2.2 (faulty .frozen { glog := [⟨0, 0, 0, 0, 0, 1, 0, {}⟩] }) 0 _ rfl (by decide)
    exact ⟨t, e, f⟩
theorem runs_errorToken (h : Sys2Proof.Claims.ErrorTokenSpreads) :
    (∃ t, exec (.errorTokenIssue 1) (erred 0) = .next t ∧ ∃ p, t.net = [p] ∧ p.body = .errTok (some (.slot 0 0 4))) ∧
    ∃ t, exec (.errorToken errPkt) (erred 0x80070080001) = .next t ∧ cnt (t.slotWord 0 0 4) = 0 := by
  refine ⟨?_, ?_⟩
  · obtain ⟨t, e, _, f, _⟩ := h.1 (erred 0) 1 _ _ rfl rfl rfl rfl rfl (by decide)
    obtain ⟨p, f, _, _, g⟩ := f (Option.some_ne_none _)
    exact ⟨t, e, p, f, g⟩
  · obtain ⟨t, j, e, _, _, _, f⟩ := (h.2.1 (erred 0x80070080001) errPkt _ (.slot 0 0 4) rfl rfl (by decide)).2 (by decide) rfl (by decide)
      (fun c f k n => by cases n; exact ⟨by decide +kernel, fun _ => rfl⟩)
    exact ⟨t, e, by rw [(f 0 0 4 _ rfl (by decide) (by decide) (by decide) rfl (by decide)).1]; decide⟩
theorem test_errorToken : after (exec (.errorToken errPkt) (erred 0x80070080001)) (fun t => decide (cnt (t.slotWord 0 0 4) = 0 ∧
    (t.core 0).ready.map (fun a => (a.cancel, a.level)) = [(true, 7)] ∧ t.net.length = 1)) = true := by decide +kernel

theorem runs_rounds (h : Sys2Proof.Claims.RoundsSwapPlates) :
    (∃ t, exec (.roundToken (pktOf (.round 1))) (scheduled filled) = .next t ∧ ((t.core 0).plate 1).st = .active) ∧
    (∃ t, exec (.roundToken (pktOf (.round 1))) (scheduled { sched := [⟨1, 1, none, [], false⟩] }) = .next t) ∧
    (∃ t, exec (.roundToken (pktOf (.round 2))) (scheduled { sched := [⟨1, 1, none, [], false⟩] }) = .next t) ∧
    (∃ t, exec (.roundToken { pktOf (.round 2) with org := {} })
      { scheduled { plates := [0, 1, 2, 3].map fun q => (q, { st := .active }) } with rounds := [⟨1, 2, [0], some ⟨0, 0, 4, 0⟩, {}⟩] } = .next t ∧ t.rounds = []) ∧
    (∃ t, exec (.platePrefetch 0 2) (scheduled { plates := [(2, { st := .prefetching })] }) = .next t) ∧
    ∃ t, exec (.platePrefetch 0 2) (scheduled { sched := [⟨3, 2, some 0, [7], false⟩] }) = .next t ∧ ((t.core 0).plate 2).st = .prefetching := by
  refine ⟨?_, ?_, ?_, ?_, ?_, ?_⟩
  · obtain ⟨t, e, _, f, _⟩ := (h.1 (scheduled filled) (pktOf (.round 1)) 1 1 rfl (by decide) rfl rfl).2.2 rfl (by decide) rfl
    exact ⟨t, e, f⟩
  · obtain ⟨t, e, _⟩ := (h.1 (scheduled { sched := [⟨1, 1, none, [], false⟩] }) (pktOf (.round 1)) 1 1 rfl (by decide) rfl rfl).1 _ rfl rfl
    exact ⟨t, e⟩
  · obtain ⟨t, _, e, _⟩ := (h.1 (scheduled { sched := [⟨1, 1, none, [], false⟩] }) (pktOf (.round 2)) 2 1 rfl (by decide) rfl rfl).2.1 _ rfl (by decide)
    exact ⟨t, e⟩
  · obtain ⟨t, e, f, _⟩ := h.2.1 { scheduled { plates := [0, 1, 2, 3].map fun q => (q, { st := .active }) } with rounds := [⟨1, 2, [0], some ⟨0, 0, 4, 0⟩, {}⟩] }
      { pktOf (.round 2) with org := {} } 2 _ _ rfl (by decide) rfl rfl rfl rfl rfl rfl rfl (by decide)
    exact ⟨t, e, f⟩
  · obtain ⟨t, e, _⟩ := (h.2.2 (scheduled { plates := [(2, { st := .prefetching })] }) 0 2).1 rfl rfl
    exact ⟨t, e⟩
  · obtain ⟨t, e, _, f, _⟩ := (h.2.2 (scheduled { sched := [⟨3, 2, some 0, [7], false⟩] }) 0 2).2 _ _ rfl (by decide) rfl rfl
    exact ⟨t, e, f⟩

/-- Cluster 0 stopped, with poisoned words of its scratchpad. -/
def halted (ps : List (Nat × Bool)) : State := { base with clusters := [(0, { stopped := true, spoison := ps })] }

theorem runs_gangs (h : Sys2Proof.Claims.GangsAndWindows) :
    (∃ t, exec (.gangStop 0) { base with stops := [stopOf false false] } = .next t ∧ (t.cluster 0).stopped = true) ∧
    (∃ t, exec (.gangStop 0) { base with stops := [stopOf false false], insts := [{ gen := 1, st := .running, last := 1 }] } = .next t) ∧
    (∃ t, exec (.stopComplete 0) { base with cores := [], stops := [stopOf false true] } = .next t) ∧
    (∃ t, exec (.gangResume 0) { base with stops := [stopOf true false] } = .next t ∧ (t.cluster 0).stopped = false) ∧
    (∃ t, exec (.gangResume 0) { base with stops := [stopOf true false], host := { base.host with tstop := true } } = .next t) ∧
    (∃ t, exec (.flushCompletion 0) (flushing (flushOf 0)) = .next t) ∧
    (∃ t, exec (.flushCompletion 0) { base with flushes := [flushOf 64] } = .next t) ∧
    (∃ t, exec (.tlbinvCompletion 0) { paged with tlbinvs := [invOf false] } = .next t) ∧
    (∃ t, exec (.tlbinvCompletion 0) { paged with tlbinvs := [invOf true] } = .next t) ∧
    (∃ t, exec .stateWindowAccess (offered base .stateWindowAccess (.window false 0 8 [0])) = .next t) ∧
    (∃ t, exec .stateWindowAccess (offered (halted []) .stateWindowAccess (.window true 0 8 [5])) = .next t ∧
      SMap.get 0 (t.cluster 0).spad 8 = 5) ∧
    (∃ t, exec .stateWindowAccess (offered (halted []) .stateWindowAccess (.window false 0 8 [0])) = .next t) ∧
    (∃ t, exec .stateWindowAccess (offered (halted [(1, true)]) .stateWindowAccess (.window false 0 8 [0])) = .next t) ∧
    ∃ t, exec .stateWindowAccess (offered (halted [(1, true)]) .stateWindowAccess (.window true 0 8 [5])) = .next t := by
  refine ⟨?_, ?_, ?_, ?_, ?_, ?_, ?_, ?_, ?_, ?_, ?_, ?_, ?_, ?_⟩
  · obtain ⟨t, e, _, f, _⟩ := ((h.1 { base with stops := [stopOf false false] } 0 _ _ rfl rfl (by decide)).1 rfl rfl).2 (by decide)
    exact ⟨t, e, f 0 (by decide) (by decide)⟩
  · exact ⟨_, ((h.1 { base with stops := [stopOf false false], insts := [{ gen := 1, st := .running, last := 1 }] } 0 _ _ rfl rfl (by decide)).1 rfl rfl).1 (by decide)⟩
  · exact ⟨_, (h.1 { base with cores := [], stops := [stopOf false true] } 0 _ _ rfl rfl (by decide)).2.1 rfl rfl
      (fun cl _ hl => by obtain rfl : cl = 0 := Nat.le_zero.mp hl
                         decide)⟩
  · obtain ⟨t, e, _, f, _⟩ := (h.1 { base with stops := [stopOf true false] } 0 _ _ rfl rfl (by decide)).2.2.2 rfl rfl
    exact ⟨t, e, f 0 (by decide) (by decide)⟩
  · exact ⟨_, (h.1 { base with stops := [stopOf true false], host := { base.host with tstop := true } } 0 _ _ rfl rfl (by decide)).2.2.1 rfl rfl⟩
  · exact ⟨_, (h.2.1 (flushing (flushOf 0)) 0 _ _ rfl rfl _ rfl).1 rfl⟩
  · exact ⟨_, (h.2.1 { base with flushes := [flushOf 64] } 0 _ _ rfl rfl _ rfl).2.1 0x08 (by decide) rfl⟩
  · obtain ⟨t, e, _⟩ := (h.2.2.1 { paged with tlbinvs := [invOf false] } 0 _ _ rfl rfl).1 rfl
    exact ⟨t, e⟩
  · exact ⟨_, (h.2.2.1 { paged with tlbinvs := [invOf true] } 0 _ _ rfl rfl).2 rfl rfl (by decide) (by decide)⟩
  · exact ⟨_, (h.2.2.2 _ _ false 0 8 [0] (offer_of base .stateWindowAccess _)).2.1 rfl rfl⟩
  · obtain ⟨t, e, f, _⟩ := (h.2.2.2 _ _ true 0 8 [5] (offer_of (halted []) .stateWindowAccess _)).2.2.2.2.2 rfl rfl (by decide) (by decide)
      (fun w x l m => by obtain rfl : w = 1 := by simp at l; omega
                         exact absurd x (by decide))
    exact ⟨t, e, f 0 5 rfl⟩
  · exact ⟨_, (h.2.2.2 _ _ false 0 8 [0] (offer_of (halted []) .stateWindowAccess _)).2.2.1 rfl rfl (by decide)⟩
  · exact ⟨_, (h.2.2.2 _ _ false 0 8 [0] (offer_of (halted [(1, true)]) .stateWindowAccess _)).2.2.2.1 rfl rfl ⟨0, by decide, by decide⟩⟩
  · exact ⟨_, (h.2.2.2 _ _ true 0 8 [5] (offer_of (halted [(1, true)]) .stateWindowAccess _)).2.2.2.2.1 rfl rfl ⟨1, by decide, by decide, by decide, by decide⟩⟩

/-! Packages and their views. -/

theorem offer_view (v : Views) (i : Instr) (x : Input) : (offered (viewed v) i x).Offers i x (taken (viewed v)) := offer_of _ _ _
theorem runs_stationPacketArrival (h : Sys2Proof.Claims.StationsDeliver) :
    (∃ t, exec .stationPacketArrival (offered linked .stationPacketArrival (.pkt 3 { xpkt with vtag := some 1 })) = .next t ∧ (t.station 3).rx.length = 1) ∧
    (∃ t, exec .stationPacketArrival (offered linked .stationPacketArrival (.pkt 3 { xpkt with spkg := own1 })) = .next t ∧ (t.cluster 55).vdrop = 1) ∧
    ∃ t, exec .stationPacketArrival (offered linked .stationPacketArrival (.pkt 3 xpkt)) = .next t ∧ t.net.length = 1 := by
  refine ⟨?_, ?_, ?_⟩
  · obtain ⟨t, e, f, _⟩ := (h.1 _ _ 3 { xpkt with vtag := some 1 } (offer_of linked _ _) rfl rfl rfl).1 (.inr rfl)
    exact ⟨t, e, congrArg List.length f⟩
  · obtain ⟨t, e, _, f⟩ := (h.1 _ _ 3 { xpkt with spkg := own1 } (offer_of linked _ _) rfl rfl rfl).2.1 rfl rfl (.inl (by simp [taken, linked, State.reset, own1]))
    exact ⟨t, e, f⟩
  · obtain ⟨t, q, e, n, _⟩ := (h.1 _ _ 3 xpkt (offer_of linked _ _) rfl rfl rfl).2.2 _ rfl rfl (by simp [taken, linked, State.reset, xpkt]) rfl rfl rfl
    exact ⟨t, e, congrArg List.length n⟩
def peerAt : AtReq := ⟨.peer 4 8, 8, 8, .add, 1, 0, false, 0, some (2, ⟨0, 0, 4, 0⟩), false, false⟩
def peered : State := { State.reset with stations := [(4, { ualink := true, pend := [pktOf (.atomic peerAt)] })] }
theorem runs_peers (h : Sys2Proof.Claims.StationsDeliver) :
    (∃ t, exec .stationPacketArrival (offered peered .stationPacketArrival (.bytes 4 [9, 0, 0, 0, 0, 0, 0, 0])) = .next t ∧ (t.station 4).pend = []) ∧
    (∃ t, exec .ualinkPeerFailure (offered peered .ualinkPeerFailure (.num 4)) = .next t ∧ (t.station 4).pend = []) ∧
    ∃ t, exec .beatCrcFailure (offered peered .beatCrcFailure (.num 4)) = .next t := by
  refine ⟨?_, ?_, ⟨_, h.2.2.2 _ _ _ (offer_of peered _ _)⟩⟩
  · obtain ⟨t, e, f, _⟩ := h.2.1 _ _ 4 [9, 0, 0, 0, 0, 0, 0, 0] (pktOf (.atomic peerAt)) [] peerAt 2 ⟨0, 0, 4, 0⟩ (offer_of peered _ _) rfl rfl rfl ⟨8, rfl⟩ rfl rfl
    exact ⟨t, e, f⟩
  · obtain ⟨t, e, f, _⟩ := h.2.2.1 _ _ 4 (pktOf (.atomic peerAt)) peerAt 2 ⟨0, 0, 4, 0⟩ (offer_of peered _ _) rfl rfl rfl ⟨8, rfl⟩ rfl rfl
    exact ⟨t, e, f⟩
theorem mem_pair : ownPkg ∈ pair.members ∧ own1 ∈ pair.members := by simp [pair]
theorem runs_members (h : Sys2Proof.Claims.MembersWatchEachOther) :
    (∃ t, exec .heartbeat (viewed pair) = .next t) ∧ (∃ t, exec .stationPacketArrival (offered State.reset .stationPacketArrival (.view (.time 5000))) = .next t ∧ t.time = 5000) ∧
    (∃ t, exec (.heartbeatTimeout own1) { viewed pair with time := 800005 } = .next t ∧ own1 ∈ t.views.suspects) ∧
    ∃ t, exec .lossOfSignal (offered (viewed pair) .lossOfSignal (.num own1)) = .next t ∧ own1 ∈ t.views.suspects := by
  have n : own1 ∈ pair.neighbours := by rw [neighbours_pair]; exact List.mem_cons_self
  refine ⟨?_, ⟨_, h.2.1 _ _ 5000 (offer_of State.reset _ _), rfl⟩, ?_, ?_⟩
  · obtain ⟨t, e, _⟩ := h.1 (viewed pair) witness_MembersWatchEachOther.1 witness_MembersWatchEachOther.2.1
    exact ⟨t, e⟩
  · obtain ⟨t, e, f, _⟩ := h.2.2.1 { viewed pair with time := 800005 } own1 n (by simp [viewed, pair, SMap.get]) (by simp [viewed, pair]) own1_ne mem_pair.2 mem_pair.1
    exact ⟨t, e, f⟩
  · obtain ⟨t, e, _, _, f⟩ := h.2.2.2.2 _ _ own1 (offer_of (viewed pair) _ _)
    exact ⟨t, e, f n own1_ne mem_pair.2 mem_pair.1⟩
/-- The other member is suspected by this one; the collection runs. -/
def minority : Views := { members := [ownPkg, own1], suspects := [own1], collecting := true }
theorem filter_minority : minority.members.filter (fun m => !minority.suspects.contains m) = [ownPkg] := by
  simp [minority, own1_ne.symm]
theorem runs_collection (h : Sys2Proof.Claims.ProposersCollect) :
    (∃ t, exec .suspect (offered (viewed pair) .suspect (.view (.suspect own1 0 [own1]))) = .next t ∧ t.views.collecting = true) ∧
    (∃ t, exec .suspect (offered (viewed pair) .suspect (.view (.suspect own1 1 [own1]))) = .next t) ∧
    (∃ t, exec .proposerCollectionEnd { viewed minority with host := { evlsz := 1 } } = .next t ∧ t.views.collecting = false) ∧
    ∃ t, exec .proposerCollectionEnd (viewed alone) = .next t ∧ t.views.proposal = some [own1] := by
  refine ⟨?_, ⟨_, (h.1 _ _ own1 1 [own1] (offer_of (viewed pair) _ _)).1 (by decide)⟩, ?_, ?_⟩
  · obtain ⟨t, e, f, _⟩ := (h.1 _ _ own1 0 [own1] (offer_of (viewed pair) _ _)).2 rfl mem_pair.1 rfl rfl
    exact ⟨t, e, f⟩
  · obtain ⟨t, e, _, _, f, _⟩ := (h.2.1 { viewed minority with host := { evlsz := 1 } } [ownPkg] _ rfl filter_minority.symm rfl).1 (by decide) rfl (by decide)
    exact ⟨t, e, f⟩
  · obtain ⟨t, e, f, _⟩ := (h.2.1 (viewed alone) [own1] [own1] rfl rfl rfl).2 own1 [] (by decide) rfl own1_ne
    exact ⟨t, e, f⟩
theorem runs_graftRequest (h : Sys2Proof.Claims.ProposersCollect) :
    (∃ t, exec .graftRequest (offered (viewed alone) .graftRequest (.view (.graft own1 none))) = .next t) ∧
    (∃ t, exec .graftRequest (offered (viewed turned) .graftRequest (.view (.graft (ownPkg + 2) none))) = .next t) ∧
    (∃ t, exec .graftRequest (offered (viewed pair) .graftRequest (.view (.graft own1 none))) = .next t) ∧
    ∃ t, exec .graftRequest (offered (viewed pair) .graftRequest (.view (.graft (ownPkg + 2) none))) = .next t := by
  refine ⟨?_, ?_, ?_, ?_⟩
  · obtain ⟨t, e, _⟩ := (h.2.2 _ _ own1 none (offer_of (viewed alone) _ _)).1 (by simp [taken, viewed, alone, own1]) own1_ne
    exact ⟨t, e⟩
  · obtain ⟨t, e, _⟩ := (h.2.2 _ _ (ownPkg + 2) none (offer_of (viewed turned) _ _)).2.1 own1 (by simp [taken, viewed, turned]) rfl own1_ne
    exact ⟨t, e⟩
  · obtain ⟨t, e, _⟩ := (h.2.2 _ _ own1 none (offer_of (viewed pair) _ _)).2.2.1 mem_pair.1 rfl mem_pair.2 own1_ne
    exact ⟨t, e⟩
  · obtain ⟨t, e, _⟩ := (h.2.2 _ _ (ownPkg + 2) none (offer_of (viewed pair) _ _)).2.2.2 mem_pair.1 rfl (by simp [taken, viewed, pair, own1]) (by omega)
    exact ⟨t, e⟩
theorem children_own : childrenIn [ownPkg] ≠ [] → False := fun f => f childrenIn_own
theorem runs_propose (h : Sys2Proof.Claims.ProposalsAreAnswered) :
    (∃ t, exec .propose (offered (viewed {}) .propose (.view (.propose own1 0 [ownPkg]))) = .next t) ∧
    (∃ t, exec .propose (offered (viewed { suspects := [ownPkg] }) .propose (.view (.propose own1 0 [ownPkg]))) = .next t) ∧
    ∃ t, exec .propose (offered (viewed pair) .propose (.view (.propose own1 0 [ownPkg, own1]))) = .next t := by
  have p1 : parentIn [ownPkg] ≠ some ownPkg := by rw [parentIn_own]; exact fun h => nomatch h
  refine ⟨?_, ?_, ?_⟩
  · obtain ⟨t, e, _⟩ := (h.1 _ _ own1 0 [ownPkg] (offer_of (viewed {}) _ _) rfl List.mem_cons_self (by simp [taken, viewed, Views.outside]) rfl own1_ne p1).1 childrenIn_own
      (fun _ _ f => (List.not_mem_nil f).elim)
    exact ⟨t, e⟩
  · obtain ⟨t, e, _⟩ := (h.1 _ _ own1 0 [ownPkg] (offer_of (viewed { suspects := [ownPkg] }) _ _) rfl List.mem_cons_self (by simp [taken, viewed, Views.outside]) rfl own1_ne p1).2.1
      childrenIn_own ⟨ownPkg, List.mem_cons_self, List.mem_cons_self⟩
    exact ⟨t, e⟩
  · obtain ⟨t, e, _⟩ := (h.1 _ _ own1 0 [ownPkg, own1] (offer_of (viewed pair) _ _) rfl List.mem_cons_self (by simp [taken, viewed, Views.outside, pair]) rfl own1_ne
      (by rw [parentIn_pair]; exact fun h => nomatch h)).2.2 (by rw [childrenIn_pair]; exact List.cons_ne_nil _ _) (by rw [childrenIn_pair]; simp [own1_ne.symm])
    exact ⟨t, e⟩
/-- This package has passed a proposal of the other one on, to which its one child has not answered. -/
def round1 : Round := { v := 0, members := [ownPkg, own1], proposer := own1 }
def asking : Views := { members := [ownPkg, own1], round := some round1 }
def proposing : Views := { members := [ownPkg, own1], proposal := some [own1] }
theorem runs_accept (h : Sys2Proof.Claims.ProposalsAreAnswered) :
    (∃ t, exec .accept (offered (viewed asking) .accept (.view (.accept own1 0 [] []))) = .next t) ∧
    (∃ t, exec .accept (offered (viewed proposing) .accept (.view (.accept own1 0 [] []))) = .next t ∧ t.views.proposal = none) ∧
    (∃ t, exec (.childReplyTimeout own1) (viewed asking) = .next t) ∧
    ∃ t, exec (.childReplyTimeout own1) { viewed asking with time := 5000000 } = .next t := by
  have pp : parentIn round1.members ≠ some ownPkg := by show parentIn [ownPkg, own1] ≠ _; rw [parentIn_pair]; exact fun h => nomatch h
  refine ⟨?_, ?_, ⟨_, h.2.2.2.1 (viewed asking) own1 round1 rfl rfl (by decide)⟩, ?_⟩
  · obtain ⟨t, e, _⟩ := h.2.1 _ _ own1 0 [] [] round1 (offer_of (viewed asking) _ _) rfl rfl rfl rfl (List.not_mem_nil) childrenIn_pair rfl rfl pp (fun _ => own1_ne)
    exact ⟨t, e⟩
  · obtain ⟨t, e, f, _⟩ := h.2.2.1 _ _ own1 0 [] [] (offer_of (viewed proposing) _ _) rfl rfl rfl own1_ne
    exact ⟨t, e, f⟩
  · obtain ⟨t, e, _⟩ := h.2.2.2.2.1 { viewed asking with time := 5000000 } own1 round1 rfl rfl (by decide) rfl rfl rfl rfl childrenIn_pair pp (fun _ => own1_ne)
    exact ⟨t, e⟩
theorem runs_commit (h : Sys2Proof.Claims.ProposalsAreAnswered) :
    (∃ t, exec .commitView (offered (viewed pair) .commitView (.view (.commit 0 [ownPkg] 9 []))) = .next t) ∧
    (∃ t, exec .commitView (offered (viewed pair) .commitView (.view (.commit 1 [ownPkg] 9 []))) = .next t ∧ t.views.commit = some (1, [ownPkg], 9, [])) ∧
    ∃ t, exec .commitWaitTimeout { viewed { pair with replied := some (0, own1, 0) } with time := 20000000 } = .next t ∧ own1 ∈ t.views.suspects := by
  refine ⟨⟨_, (h.2.2.2.2.2.1 _ _ 0 9 [ownPkg] [] (offer_of (viewed pair) _ _)).1 (.inl (by decide))⟩, ?_, ?_⟩
  · obtain ⟨t, e, f, _⟩ := (h.2.2.2.2.2.1 _ _ 1 9 [ownPkg] [] (offer_of (viewed pair) _ _)).2 (by decide) List.mem_cons_self (by rw [childrenIn_own]; exact List.not_mem_nil)
    exact ⟨t, e, f⟩
  · obtain ⟨t, e, f⟩ := h.2.2.2.2.2.2 { viewed { pair with replied := some (0, own1, 0) } with time := 20000000 } 0 own1 0 rfl rfl rfl (by decide) (List.not_mem_nil) own1_ne
      mem_pair.2 mem_pair.1
    exact ⟨t, e, f⟩
theorem runs_viewInstall (h : Sys2Proof.Claims.ViewsInstall) :
    (∃ t, exec .viewInstall installing = .next t ∧ t.views.members = [ownPkg]) ∧
    ∃ t, exec .resentResult (offered linked .resentResult (.view (.resent 7 0 2 0 none))) = .next t ∧ SMap.get 0 (t.cluster 0).cbase 2 = 1 := by
  refine ⟨?_, ?_⟩
  · obtain ⟨t, e, _, f, _⟩ := (h.1 installing 1 0 [ownPkg] [] rfl).2 (by decide) (by decide) rfl rfl rfl
    exact ⟨t, e, f⟩
  · obtain ⟨t, e, f, _⟩ := (h.2 _ _ 7 0 2 0 none _ (offer_of linked _ _) rfl).2 rfl rfl (by decide) (by decide)
    exact ⟨t, e, f⟩

/-! Operating points, the host, resets and the management path. -/

theorem runs_opstep (h : Sys2Proof.Claims.OperatingPointSteps) :
    (∃ t, exec .opstepArrival (stepping 1 0) = .next t) ∧ (∃ t, exec .opstepArrival { stepping 2 0 with caps := 0x3F } = .next t ∧ t.opnow = 1) ∧
    (∃ t, exec .opstepArrival (stepping 0 0) = .next t ∧ t.opstage = 4) ∧ (∃ t, exec .opstepArrival (stepping 2 0) = .next t ∧ t.opstage = 1) ∧
    (∃ t, exec .opstepArrival { stepping 2 0 with insts := [{ gen := 1, floor := 1, st := .running }] } = .next t ∧ t.opnow = 1) ∧
    (∃ t, exec .evacuation (stepping 2 1) = .next t ∧ t.opstage = 2) ∧ (∃ t, exec .opSwitch (stepping 2 2) = .next t ∧ t.opclock = 2) ∧
    (∃ t, exec .voltageRampDone (stepping 2 3) = .next t) ∧ (∃ t, exec .voltageRampDone (stepping 0 4) = .next t ∧ t.opstage = 5) ∧
    ∃ t, exec .opSwitch (stepping 0 5) = .next t := by
  have m := fun k n => h.1 (stepping k n) _ _ ⟨0, 0, 4, 0⟩ rfl rfl
  refine ⟨⟨_, ((m 1 0).1 rfl).1 rfl⟩, ?_, ?_, ?_, ?_, ?_, ?_, ⟨_, (m 2 3).2.2.2.1 rfl⟩, ?_, ⟨_, (m 0 5).2.2.2.2.2 rfl⟩⟩
  · obtain ⟨t, e, _, f, _⟩ := ((h.1 { stepping 2 0 with caps := 0x3F } _ _ ⟨0, 0, 4, 0⟩ rfl rfl).1 rfl).2.1 (by decide) (by decide)
    exact ⟨t, e, f⟩
  · obtain ⟨t, e, _, f, _⟩ := ((m 0 0).1 rfl).2.2.1 (by decide) (by decide)
    exact ⟨t, e, f⟩
  · obtain ⟨t, e, f, _⟩ := ((m 2 0).1 rfl).2.2.2.2 (by decide) (by decide) (by decide +kernel)
    exact ⟨t, e, f⟩
  · obtain ⟨t, e, _, f, _⟩ := ((h.1 { stepping 2 0 with insts := [{ gen := 1, floor := 1, st := .running }] } _ _ ⟨0, 0, 4, 0⟩ rfl rfl).1 rfl).2.2.2.1 [0, 1, 1] (by decide) (by decide)
      (by decide +kernel)
    exact ⟨t, e, f⟩
  · obtain ⟨t, _, e, f, _⟩ := (m 2 1).2.1 rfl (by decide +kernel)
    exact ⟨t, e, f⟩
  · obtain ⟨t, e, f, _⟩ := (m 2 2).2.2.1 rfl
    exact ⟨t, e, f⟩
  · obtain ⟨t, _, e, f, _⟩ := (m 0 4).2.2.2.2.1 rfl
    exact ⟨t, e, f⟩
theorem test_opstep : after (exec .opSwitch (stepping 2 2)) (fun t => decide (t.opclock = 2 ∧ t.opstage = 3 ∧ t.opnow = 1)) = true ∧
    after (exec .opSwitch (stepping 0 5)) (fun t => decide (t.opclock = 0 ∧ t.opnow = 0 ∧ t.ops = [])) = true := by decide +kernel
theorem runs_rows (h : Sys2Proof.Claims.RowsAndRegistersChange) :
    (∃ t, exec .scrubError (offered framed .scrubError (.scrub 1 0 0 5)) = .next t ∧ t.prune.length = 1 ∧ ((t.core 0).fent 0).held = true) ∧
    (∃ t, exec .scrubError (offered { framed with caps := 0 } .scrubError (.scrub 1 0 0 5)) = .next t) ∧
    (∃ t, exec .registerWrite (offered base .registerWrite (.reg 0x113 7 9)) = .next t ∧ SMap.get 0 (t.core 7).mailbox 3 = 9) ∧
    ∃ t, exec .fmtwinWrite (offered State.reset .fmtwinWrite (.reg 0x88F 0 0)) = .next t ∧ (SMap.get {} (t.die (dieOf 0)).fmtwin 15).desc = none := by
  refine ⟨?_, ⟨_, (h.1 _ _ 1 0 0 5 (offer_of { framed with caps := 0 } _ _)).1 (.inl (by decide))⟩, ?_, ?_⟩
  · obtain ⟨t, e, f, _, g⟩ := (h.1 _ _ 1 0 0 5 (offer_of framed _ _)).2 (by decide) (by decide +kernel)
    refine ⟨t, e, congrArg List.length f, ((g 0 [] rfl (by decide +kernel) (by decide +kernel) _ _ rfl rfl).1 2 ?_).1⟩
    rw [f]
    decide +kernel
  · obtain ⟨t, e, f, _⟩ := h.2.1 _ _ 0x113 7 9 (offer_of base _ _) (by decide) (by decide)
    exact ⟨t, e, f⟩
  · obtain ⟨t, e, f, _⟩ := h.2.2 _ _ 15 0 _ 0 _ (offer_of State.reset _ _) (by decide) rfl rfl
    exact ⟨t, e, (f (by decide +kernel)).2⟩
/-- An error that strikes a scratchpad word is there for the access that meets it (R398). -/
theorem test_upset : after (exec .scrubError (offered base .scrubError (.upset (.spad 0 1)))) (fun t => decide
    (anyPoison (t.cluster 0).sbad 8 8 = true ∧ t.prune = [])) = true := by decide +kernel
theorem runs_host (h : Obligations.HostRequests) :
    (∃ t, exec .hostPostedWrite (offered State.reset .hostPostedWrite (.hwrite 0 0x13F000 (List.replicate 64 0))) = .next t) ∧
    (∃ t, exec .hostPostedWrite (offered State.reset .hostPostedWrite (.hwrite 0 0x10000 (bytesOfNat 8 (500 : Word).toNat))) = .next t ∧ t.host.pcap = 1000) ∧
    (∃ t, exec .hostPostedWrite (offered zeroLine .hostPostedWrite (.hwrite 2 8 [7])) = .next t ∧ t.homeByte 8 = 7) ∧
    (∃ t, exec .hostRead (offered State.reset .hostRead (.hread 0 0 8 3)) = .next t) ∧
    (∃ t, exec .hostAtomicop (offered zeroLine .hostAtomicop (.hatomic 12 8 0 1 0 3)) = .next t) ∧
    ∃ t, exec .hostAtomicop (offered zeroLine .hostAtomicop (.hatomic 8 8 0 1 0 3)) = .next t := by
  refine ⟨⟨_, h.1 _ _ 0x13F000 _ (offer_of State.reset _ _) (by decide) (by decide) (by decide) (by decide)⟩, ?_, ?_, ?_,
    ⟨_, (h.2.2.2.2.2 _ _ 12 8 0 1 0 3 (offer_of zeroLine _ _)).1 (.inr (.inl (by decide)))⟩, ?_⟩
  · obtain ⟨t, e, f⟩ := h.2.1 _ _ 500 (offer_of State.reset _ _)
    exact ⟨t, e, f.trans (by decide)⟩
  · obtain ⟨t, e, f, _⟩ := h.2.2.1 _ _ 8 7 _ (offer_of zeroLine _ _) (by decide) rfl rfl rfl (by decide)
    exact ⟨t, e, f⟩
  · obtain ⟨t, _, e, _⟩ := h.2.2.2.1 _ _ 3 (offer_of State.reset _ _)
    exact ⟨t, e⟩
  · obtain ⟨t, e, _⟩ := (h.2.2.2.2.2 _ _ 8 8 0 1 0 3 (offer_of zeroLine _ _)).2 _ _ (by decide) rfl rfl (by decide) rfl rfl rfl rfl (by decide) rfl
    exact ⟨t, e⟩
theorem test_hostAtomic : after (exec .hostAtomicop (offered zeroLine .hostAtomicop (.hatomic 8 8 0 1 0 3))) (fun t => decide
    (t.homeByte 8 = 2 ∧ t.host.replies = [(3, List.replicate 8 1)])) = true := by decide +kernel
theorem runs_power (h : Sys2Proof.Claims.PowerAndHeat) :
    (∃ t, exec .powerSample (offered State.reset .powerSample (.power 900 [] [400])) = .next t ∧ SMap.get 0 t.host.temps 0 = 400) ∧
    (∃ t, exec .thermalStop (hot 1760) = .next t ∧ t.host.tstop = true) ∧ (∃ t, exec .clrTstop (offered (hot 1520) .clrTstop (.num 0)) = .next t) ∧
    (∃ t, exec .clrTstop (offered (hot 1519) .clrTstop (.num 0)) = .next t ∧ t.host.tstop = false) ∧
    ∃ t, exec .thermalPowerOff (hot 1920) = .next t := by
  refine ⟨?_, ?_, ⟨_, (h.2.2.1 _ _ _ (offer_of (hot 1520) _ _)).1 (by decide)⟩, ?_, ?_⟩
  · obtain ⟨t, e, _, _, f, _⟩ := h.1 _ _ 900 [] [400] (offer_of State.reset _ _) (by decide)
    exact ⟨t, e, f 0 400 rfl⟩
  · obtain ⟨t, e, f, _⟩ := h.2.1 (hot 1760) rfl (by decide) rfl
    exact ⟨t, e, f⟩
  · obtain ⟨t, e, f, _⟩ := (h.2.2.1 _ _ _ (offer_of (hot 1519) _ _)).2 (by decide)
    exact ⟨t, e, f⟩
  · obtain ⟨t, e, _⟩ := h.2.2.2 (hot 1920) (by decide)
    exact ⟨t, e⟩
theorem runs_resets (h : Sys2Proof.Claims.ResetsAndBringUp) :
    (∃ t, exec .coldReset (offered base .coldReset (.num 0)) = .next t ∧ t.cores = []) ∧
    (∀ i, i = .functionLevelReset ∨ i = .hotReset → ∃ t, exec i (offered base i (.num 0)) = .next t ∧ t.host.stage = min 4 base.host.stage) ∧
    (∃ t, exec .bringUpStage State.reset = .next t) ∧
    (∃ t, exec .bringUpStage { State.reset with host := { stage := 5 } } = .next t ∧ t.host.ready = true) ∧
    ∃ t, exec .bringUpStage { State.reset with host := { stage := 6 } } = .next t := by
  refine ⟨?_, fun i hi => ?_, ?_, ?_, ⟨_, h.2.2.2 _ (.inl (by decide))⟩⟩
  · obtain ⟨t, e, f, _⟩ := h.1 _ _ _ (offer_of base _ _)
    exact ⟨t, e, f⟩
  · obtain ⟨t, e, _, _, _, _, _, _, f, _⟩ := h.2.1 _ _ i _ hi (offer_of base _ _)
    exact ⟨t, e, f⟩
  · rcases e : Config.bootOk (State.reset.host.stage + 1)
    · exact ⟨_, (h.2.2.1 State.reset (by decide) rfl).1 (.inl rfl) e⟩
    · obtain ⟨t, f, _⟩ := (h.2.2.1 State.reset (by decide) rfl).2 (.inl e)
      exact ⟨t, f⟩
  · obtain ⟨t, e, _, _, _, f, _⟩ := (h.2.2.1 { State.reset with host := { stage := 5 } } (by decide) rfl).2 (.inr (by decide))
    exact ⟨t, e, f rfl⟩
theorem runs_management (h : Sys2Proof.Claims.ManagementCommands) :
    (∃ t, exec .getId (offered base .getId (.num 0)) = .next t) ∧ (∃ t, exec .getMeas (offered base .getMeas (.num 7)) = .next t) ∧
    (∃ t, exec .extend (offered base .extend (.bytes 7 (List.replicate 64 0))) = .next t) ∧
    (∃ t, exec .attest (offered State.reset .attest (.bytes 0 (List.replicate 64 0))) = .next t) ∧
    (∃ t, exec .setFkey (offered base .setFkey (.bytes 7 (List.replicate 57 0))) = .next t) ∧
    (∃ t, exec .setPolicy (offered base .setPolicy (.num 1)) = .next t ∧ t.host.policy = true) ∧
    (∃ t, exec .getTelem (offered base .getTelem (.num 0)) = .next t) ∧
    (∃ t, exec .setPcap (offered base .setPcap (.num 5000)) = .next t ∧ t.host.pcap = 3200) ∧
    (∃ t, exec .reset (offered base .reset (.num 0)) = .next t ∧ t.host.stage = 0) ∧ (∃ t, exec .reset (offered base .reset (.num 1)) = .next t ∧ t.host.stage = min 4 base.host.stage) ∧
    (∃ t, exec .reset (offered base .reset (.num 2)) = .next t) ∧ ∃ t, exec .entdaa (offered base .entdaa (.num 8)) = .next t ∧ t.host.i3c = 8 := by
  obtain ⟨h1, h2, h3, h4, h5, h6, h7, h8, h9, h10⟩ := h
  refine ⟨⟨_, h1 _ _ _ (offer_of base _ _)⟩, ⟨_, (h2 _ _ 7 (offer_of base _ _)).1 (by decide)⟩, ?_, ?_, ?_, ?_, ?_, ?_, ?_, ?_,
    ⟨_, (h9 _ _ 2 (offer_of base _ _)).2.2 (by decide)⟩, ⟨_, h10 _ _ 8 (offer_of base _ _), rfl⟩⟩
  · obtain ⟨t, e, _⟩ := (h3 _ _ 7 (List.replicate 64 0) (offer_of base _ _)).1 (by decide) (by decide) (by decide)
    exact ⟨t, e⟩
  · obtain ⟨_, _, e, _⟩ := (h4 _ _ 0 (List.replicate 64 0) (offer_of State.reset _ _)).1 (by decide) witness_ManagementCommands.2.2.2.2.2.2.2.2.2
    exact ⟨_, e⟩
  · obtain ⟨t, e, _⟩ := (h5 _ _ 7 (List.replicate 57 0) (offer_of base _ _)).1 rfl (by decide) (by decide)
    exact ⟨t, e⟩
  · obtain ⟨t, e, f⟩ := h6 _ _ 1 (offer_of base _ _)
    exact ⟨t, e, f.trans (by decide)⟩
  · obtain ⟨t, _, e, _⟩ := h7 _ _ _ (offer_of base _ _)
    exact ⟨t, e⟩
  · obtain ⟨t, e, f⟩ := h8 _ _ 5000 (offer_of base _ _)
    exact ⟨t, e, f.trans (by decide)⟩
  · obtain ⟨t, e, f, _⟩ := (h9 _ _ 0 (offer_of base _ _)).1 rfl
    exact ⟨t, e, f⟩
  · obtain ⟨t, e, f, _⟩ := (h9 _ _ 1 (offer_of base _ _)).2.1 rfl
    exact ⟨t, e, f⟩

/-! Walks, the routing log, placements. -/

theorem runs_tlbWalk (h : Obligations.FillsAndWalks) (page : Nat) (hp : page = 1 ∨ page = 2) : ∃ t, exec (.tlbWalk 0 page) walking = .next t := by
  have w : walking.walkAt 0 page = some ({ cl := 0, gen := 1, page := page }, [0]) := by rcases hp with rfl | rfl <;> decide +kernel
  have r : (walking.cluster 0).root = some 0x400000 := by decide +kernel
  have g := h.2.1 walking 0 page 0x400000 _ _ w (by decide) r
  rcases e : walking.walkRead 1 (page * 2 ^ 16) 4 0x400000 with x | x | x
  · exact ⟨_, (g.1 x e).choose_spec.1⟩
  · exact ⟨_, (g.2.1 x e (by decide)).choose_spec.1⟩
  · exact ⟨_, (g.2.2 x e).choose_spec.1⟩
/-- A put that finds its position free, and a retire that finds it free too. -/
theorem runs_routingLog (h : Sys2Proof.Claims.RoutingLogAndTimers) (a : RlogAt) (u v : State) (byte : Nat) (t : State)
    (h1 : (logged 0).rlogPlace putPkt 0 1 3 = .ok (a, u)) (h2 : u.rlogBit (u.rlogUser putPkt) a = .ok (false, byte, v))
    (h3 : (v.die (homeDie a.desc)).rlog = []) (h4 : writeAll (v.rlogUser putPkt) v [(a.entry, bytesOfNat 128 (5 : VReg).toNat),
      (a.occ, [BitVec.ofNat 8 (byte ||| 2 ^ (a.pos % 8))]), (0 + 32, bytesOfNat 8 (a.used + 1))] = .ok t) :
    ∃ x, exec (.rlogPutArrival putPkt) (logged 0) = .next x := by
  rcases (h.1 _ u v putPkt 0 1 3 byte 5 ⟨0, 0, 4, 0⟩ a h1).1 rfl h2 (by rw [h3]; exact fun _ m => (List.not_mem_nil m).elim) t h4 with e | ⟨_, _, _, _, _, e⟩ <;>
  exact ⟨_, e⟩
theorem runs_placement (h : Sys2Proof.Claims.PlacementsAreCarriedOut) :
    (∃ t, exec .placement (placing []) = .next t) ∧ ∃ t, exec .placement (placing (record9.set 0 0)) = .next t := by
  refine ⟨?_, ⟨_, (h.1 (placing (record9.set 0 0)) 0 _ _ _ [] rfl rfl (by decide)).2.1 (by decide) (by decide)⟩⟩
  obtain ⟨t, e, _⟩ := (h.1 (placing []) 0 _ _ [] [] rfl rfl (by decide)).1 rfl
  exact ⟨t, e⟩

/-! Premises of the clauses on pieces, held frame writes, handlers, entries, harts, walks and frames. -/

/-- Two lanes 64 bytes apart are two pieces; the first draw takes the second one alone. -/
def twoPieces : State := withCtx { ctx0 with alone := 1, m := [(0, 17)], g := [(5, own 0), (6, 64)] }
theorem witness_pieces : vecActive (opR 0) twoPieces = [0, 1] ∧ twoPieces.Ready (opR 0) ∧ twoPieces.cx.part = [] ∧
    twoPieces.cx.pieceNow ([0, 1].map fun i => (twoPieces.rg 5 + BitVec.ofNat 64 i * twoPieces.rg 6).toNat) = some [(own 64).toNat] ∧
    twoPieces.PlainSpad (own 0).toNat 4 0 true false ∧ twoPieces.PlainSpad (own 64).toNat 4 64 true false :=
  ⟨by decide, ready_withCtx _ _ rfl rfl rfl, rfl, by decide +kernel, by constructor <;> decide, by constructor <;> decide⟩
theorem runs_piece (h : Obligations.Loads) : ∃ es, exec (.ldvs (opR 0)) twoPieces = .next (twoPieces.partDone es) ∧ es.map (·.1) = [(own 64).toNat] := by
  obtain ⟨v, r, _, p, p0, p64⟩ := witness_pieces
  obtain ⟨es, e, f, _⟩ := ((h.2 twoPieces (opR 0) 0 0 4 rfl r rfl).2 (.ldvs (opR 0)) _ (.inr (.inl ⟨rfl, rfl⟩))
    (fun j m => by rw [v] at m; rcases List.mem_cons.mp m with rfl | m
                   · exact ⟨0, p0⟩
                   · obtain rfl := List.mem_singleton.mp m; exact ⟨64, p64⟩) rfl).2 _ (by rw [v]; exact p)
  exact ⟨es, e, f⟩

/-- Vector stores: the last word of the own frame and the first behind it, the own scratchpad, an address of no space, a channel activation. -/
theorem witness_VectorStoreTraps : vecActive (opI 0x60 0) (oneLane [(5, 256)]) = [] ++ 0 :: [] ∧
    ¬((contiguous (opI 0x60 0) (oneLane [(5, 256)]) 0).toNat + 4 ≤ 256 * ((((oneLane [(5, 256)]).core 0).fent 0).len + 1)) ∧
    (withCtx { ctx0 with act := {} }).cx.act.fid = none ∧
    (oneLane [(5, own 8)]).placeElem .write false true (contiguous (opI 0x40 0) (oneLane [(5, own 8)]) 0).toNat 4 = .at_ (.spad 0 8) ∧
    (match (oneLane [(5, own 8)]).placeElem .write false true (indexed (opR 0) (oneLane [(5, own 8)]) 0).toNat 4 with
      | .at_ l => l == .spad 0 8
      | _ => false) = true ∧
    (match (oneLane [(5, 0x7000000000000000)]).placeElem .write false true (contiguous (opI 0x40 0) (oneLane [(5, 0x7000000000000000)]) 0).toNat 4 with
      | .trap c a => c == 8 && a == 0x7000000000000000
      | _ => false) = true :=
  ⟨by decide +kernel, by decide +kernel, rfl, rfl, by decide +kernel, by decide +kernel⟩

/-- A commit whose frame writes wait behind an item of the frame port, and the ends of a handler. -/
def heldCommit : State := { base with cores := [(0, { core0 with portQ := [.fw 1 0 {} []], ctxs := [(0, { ctx0 with fw := [[(0, 7)]] })] })] }
def inHandler : State := withCtx { ctx0 with trap := some ⟨{ fid := some 0 }, 8, 5, 16⟩ }
theorem witness_HeldCommit : heldCommit.guarded1 (opR 0) ∧ heldCommit.cx.trap = none ∧ heldCommit.cx.act.fid = some 0 ∧ (heldCommit.core 0).portQ ≠ [] ∧
    heldCommit.cx.fw ≠ [] ∧ inHandler.guarded1 (opR 0) ∧ inHandler.cx.trap = some ⟨{ fid := some 0 }, 8, 5, 16⟩ ∧ (inHandler.core 0).portQ = [] := by
  unfold State.guarded1; decide
theorem runs_ends (h : Obligations.EndsOfActivations) :
    (∃ t, exec (.exit (opR 0)) heldCommit = .next t ∧ (t.core 0).fsram = []) ∧ (∃ t, exec (.exit (opR 0)) inHandler = .next t ∧ (t.core 0).ctx 0 = {}) ∧
    ∃ t, exec (.abort (opR 0)) inHandler = .next t := by
  obtain ⟨c, a⟩ := h
  refine ⟨?_, ?_, ?_⟩
  · obtain ⟨t, e, _, _, _, f, _⟩ := c.1 heldCommit (opR 0) 0 0 rfl witness_HeldCommit.1 rfl (.exit (opR 0)) none (.inl ⟨rfl, rfl⟩)
    exact ⟨t, e, (f 0 rfl (by decide) (by decide)).2.1⟩
  · obtain ⟨t, l, r, e, _, _, _, _, _, f, _⟩ := c.2 inHandler (opR 0) 0 0 _ (.exit (opR 0)) rfl witness_HeldCommit.2.2.2.2.2.1 rfl (.inl rfl) rfl
    exact ⟨t, e, f rfl⟩
  · obtain ⟨t, _, _, e, _⟩ := (a inHandler (opR 0) 0 0 rfl witness_HeldCommit.2.2.2.2.2.1).2 _ rfl
    exact ⟨t, e⟩
theorem test_ends : after (exec (.exit (opR 0)) heldCommit) (fun t => decide ((t.core 0).fsram = [] ∧ (t.core 0).portQ.length = 2)) = true ∧
    after (exec (.abort (opR 0)) inHandler) (fun t => decide (t.net.length = 1 ∧ (t.core 0).ctx 0 = {})) = true := by decide +kernel

/-- The first of two committed entries: a window, a frame to free, and a message to a core of the own cluster. -/
def issuing (e : OutEnt) : State :=
  withCore { core0 with commits := [0], ctxs := [(0, { ctx0 with phase := .committing, out := [e, { act := .mts 0x117 6 }] })] }
def toOwn : Pkt := { pktOf (.chan 3 [1]) with src := 0, dst := 1 }
theorem witness_EntriesIssue : ((issuing { act := .win 2 5 }).core 0).issuer = some 0 ∧
    ((issuing { act := .win 2 5 }).core 0 |>.ctx 0).out[0]? = some { act := .win 2 5 } ∧ ((issuing { act := .ffree 0 0 }).core 0 |>.fent 0).v = true ∧
    ((issuing { act := .ffree 0 0 }).core 0 |>.fent 0).freq = false ∧ ((issuing { act := .ffree 1 0 }).core 0 |>.fent 1).v = false ∧
    toOwn.src = 0 ∧ toOwn.dpkg = none ∧ toOwn.dispatched = none ∧ clOf toOwn.dst = 0 / 16 ∧
    ((issuing { act := .send [toOwn] }).cluster (0 / 16)).stopped = false ∧ (∀ q ∈ ((issuing { act := .send [toOwn] }).core 0 |>.ctx 0).out, q.acq = false) ∧
    ((issuing { act := .send [toOwn] }).core 0).ni = [] ∧ (((issuing { act := .send [toOwn] }).core 0).setCtx 0 { ctx0 with issued := 1 }).writesDone 0 = true := by
  decide +kernel
theorem test_issue : after (exec (.outboundEntryIssue 0 0) (issuing { act := .win 2 5 })) (fun t => decide (SMap.get 0 (t.cluster 0).win 2 = 5)) = true ∧
    after (exec (.outboundEntryIssue 0 0) (issuing { act := .ffree 0 0 })) (fun t => decide ((t.core 0 |>.fent 0).freq = true ∧ t.net = [])) = true ∧
    after (exec (.outboundEntryIssue 0 0) (issuing { act := .ffree 1 0 })) (fun t => decide (t.net.length = 1)) = true ∧
    after (exec (.outboundEntryIssue 0 0) (issuing { act := .send [toOwn] })) (fun t => decide (t.net.map (·.dst) = [1])) = true := by decide +kernel

/-- A hart's store and atomic, at the own scratchpad. -/
theorem test_hart_store : after (exec (.st (opI 0x43 0)) atHart) (fun t => decide (t.net = atHart.net)) = true ∧
    after (exec (.amo (opR 3)) atHart) (fun t => decide (t.hbm = atHart.hbm)) = true := by decide +kernel

/-- A walk that reads a table and one that reads an entry that is not there, and a cluster without tables. -/
theorem witness_Walks : walking.walkAt 0 1 = some ({ cl := 0, gen := 1, page := 1 }, [0]) ∧
    (match walking.walkRead 1 (1 * 2 ^ 16) 4 0x400000 with
      | .table b => b == 0x400000
      | _ => false) = true ∧
    ({ walking with clusters := [(0, { gen := 1 })] } : State).walkAt 0 1 = some ({ cl := 0, gen := 1, page := 1 }, [0]) ∧
    (({ walking with clusters := [(0, { gen := 1 })] } : State).cluster 0).root = none := by decide +kernel

/-- A contribution of 29 elements travels as two messages; a kicked one has a completion of its own. -/
theorem test_split : (pktOf (.contrib 2 0 1 (some (List.replicate 28 5)))).split.length = 1 ∧ (pktOf (.contrib 2 0 1 (some (List.replicate 29 5)))).split.length = 2 := by
  decide +kernel
/-- Cores 0 and 4 of cluster 0 share quadrant 0; core 4 runs a command when unit 3 is quarantined. -/
theorem test_crossed : ({ base with cores := [(0, core0), (4, { core0 with regionQ := [mcmd .mma .running] })] } : State).crossed 0 3 = [4] := by decide +kernel
/-- The record of a frozen instance counts what was not delivered (R436). -/
theorem test_undelivered : (({ gen := 1, st := .frozen, ntok := 24, nextSeq := 18 } : Inst).record 0).undel = 6 ∧
    (({ gen := 1, st := .frozen, ntok := 24, nextSeq := 18 } : Inst).record 0).firstu = 18 := by decide

/-- MFS writes its register alone; SLOTADD adds its entries; a write-once word of a page that no TLB entry covers waits for a walk. -/
theorem witness_BufferedFrameWide : codeOf (.mfs (opX 0 0 0x100)) = some (0xF2, opX 0 0 0x100) ∧ (∃ c x, base.cur = .ctx c x) ∧
    after (exec (.mfs (opX 0 0 0x101)) base) (fun t => decide (t.cx.out = base.cx.out)) = true ∧
    after (exec (.isrd (opR 0)) { walking with dies := [], cores := [(0, { core0 with ctxs := [(0, { ctx0 with g := [(5, 0x20000)] })] })] }) (fun t => decide
      ((t.core 0).misses.length = 1 ∧ (t.die 0).walks.length = 1)) = true :=
  ⟨rfl, ⟨0, 0, rfl⟩, by decide +kernel, by decide +kernel⟩

end Sys2Proof.Tests
end

section
/-! SUPPORT. The encoding (R44–R60): what each field of an encoded word reads as, what the checks of decoding accept, and that
decoding and encoding undo each other. -/
namespace Sys2Proof

open Machine

/-! Formats and their lengths. -/

theorem Form.lenCode_eq (f : Form) : f.lenCode = f.kind.len := by cases f <;> rfl

theorem Form.bytes_eq (f : Form) : f.bytes = 8 + 4 * f.kind.len := by cases f <;> rfl

theorem Kind.len_le_two (k : Kind) : k.len ≤ 2 := by cases k <;> decide

/-- LEN gives the length in bytes (R44). -/
theorem lenBytes_eq {w : Nat} (h : w % 4 ≠ 3) : lenBytes w = 8 + 4 * (w % 4) := by
  have : w % 4 = 0 ∨ w % 4 = 1 ∨ w % 4 = 2 := by omega
  rcases this with e | e | e <;> simp [lenBytes, e]

theorem lenBytes_reserved {w : Nat} (h : w % 4 = 3) : lenBytes w = 0 := by simp [lenBytes, h]

theorem lenBytes_congr {v w : Nat} (h : v % 4 = w % 4) : lenBytes v = lenBytes w := by simp [lenBytes, h]

/-- A row of R48 gives a format of the length that LEN names. -/
theorem kindAt_len {op len f6 : Nat} {k : Kind} (h : kindAt op len f6 = some k) : k.len = len := by
  unfold kindAt at h
  dsimp only at h
  split at h
  case h_4 => cases h
  all_goals
    repeat' split at h
    all_goals cases h <;> rfl

theorem assigned_lt {op : Nat} (h : assigned op = true) : op < 256 := by
  simp only [assigned, Bool.or_eq_true, Bool.and_eq_true, decide_eq_true_eq] at h
  omega

/-! The fields of an encoded word (R45, R47). -/

@[simp] theorem formOf_kind (k : Kind) (w : Nat) : (formOf k w).kind = k := by cases k <;> rfl

theorem opsOf_form_kind (k : Kind) (w : Nat) : (opsOf k w).form.kind = k := formOf_kind k w

theorem opsOf_fn_high (k : Kind) (w : Nat) : (opsOf k w).fn.toNat / 64 = bitsOf w 35 35 := by
  simp only [opsOf, bitsOf, BitVec.toNat_ofNat]
  omega

/-- The bits below FORM of an encoding: LEN, OP, PG, PN, D, A, B and FN. -/
def headerWord (op : Nat) (o : Ops) : Nat :=
  o.form.kind.len + op * 2 ^ 2 + o.pg.toNat * 2 ^ 10 + o.pn.toNat * 2 ^ 13 + o.d.toNat * 2 ^ 14
    + o.a.toNat * 2 ^ 19 + o.b.toNat * 2 ^ 24 + o.fn.toNat * 2 ^ 29

theorem encodeOps_eq (op : Nat) (o : Ops) : encodeOps op o = headerWord op o + o.form.word * 2 ^ 36 := rfl

theorem headerWord_lt {op : Nat} (h : op < 256) (o : Ops) : headerWord op o < 2 ^ 36 := by
  have := o.form.kind.len_le_two
  have := o.pg.isLt
  have := o.pn.isLt
  have := o.d.isLt
  have := o.a.isLt
  have := o.b.isLt
  have := o.fn.isLt
  unfold headerWord
  omega

/-- The bits from 36 up are those of the format. -/
theorem encodeOps_div {op : Nat} (h : op < 256) (o : Ops) : encodeOps op o / 2 ^ 36 = o.form.word := by
  have := headerWord_lt h o
  rw [encodeOps_eq]
  omega

theorem Form.word_lt (f : Form) : f.word < 2 ^ (8 * f.bytes - 36) := by
  cases f with
  | reg m c => have := m.isLt; have := c.isLt; simp only [Form.word, Form.bytes]; omega
  | imm i => have := i.isLt; simp only [Form.word, Form.bytes]; omega
  | imx i => have := i.isLt; simp only [Form.word, Form.bytes]; omega
  | xtd m c e => have := m.isLt; have := c.isLt; have := e.isLt; simp only [Form.word, Form.bytes]; omega
  | wide m c i => have := m.isLt; have := c.isLt; have := i.isLt; simp only [Form.word, Form.bytes]; omega
  | desc m c i => have := m.isLt; have := c.isLt; have := i.isLt; simp only [Form.word, Form.bytes]; omega

theorem ofNat_eq_of_mod {n v : Nat} {x : BitVec n} (h : v % 2 ^ n = x.toNat) : BitVec.ofNat n v = x :=
  BitVec.eq_of_toNat_eq (by rw [BitVec.toNat_ofNat, h])

/-- The fields of a format are read back from its bits. -/
theorem formOf_word (f : Form) (w : Nat) (h : w / 2 ^ 36 = f.word) : formOf f.kind w = f := by
  have h41 : w / 2 ^ 41 = f.word / 2 ^ 5 := by omega
  have h64 : w / 2 ^ 64 = f.word / 2 ^ 28 := by omega
  cases f with
  | imm i =>
    rw [Form.kind, formOf, h]
    exact congrArg Form.imm (ofNat_eq_of_mod (Nat.mod_eq_of_lt i.isLt))
  | imx i =>
    rw [Form.kind, formOf, h]
    exact congrArg Form.imx (ofNat_eq_of_mod (Nat.mod_eq_of_lt i.isLt))
  | reg m c =>
    rw [Form.kind, formOf, h, h41, Form.word]
    have := c.isLt
    have := m.isLt
    congr 1 <;> refine ofNat_eq_of_mod ?_ <;> omega
  | xtd m c e =>
    rw [Form.kind, formOf, h, h41, h64, Form.word]
    have := c.isLt
    have := m.isLt
    have := e.isLt
    congr 1 <;> refine ofNat_eq_of_mod ?_ <;> omega
  | wide m c i =>
    rw [Form.kind, formOf, h, h41, h64, Form.word]
    have := c.isLt
    have := m.isLt
    have := i.isLt
    congr 1 <;> refine ofNat_eq_of_mod ?_ <;> omega
  | desc m c i =>
    rw [Form.kind, formOf, h, h41, h64, Form.word]
    have := c.isLt
    have := m.isLt
    have := i.isLt
    congr 1 <;> refine ofNat_eq_of_mod ?_ <;> omega

theorem encodeOps_mod (op : Nat) (o : Ops) : encodeOps op o % 4 = o.form.kind.len := by
  have := o.form.kind.len_le_two
  unfold encodeOps
  omega

theorem encodeOps_lenBytes (op : Nat) (o : Ops) : lenBytes (encodeOps op o) = o.form.bytes := by
  have := o.form.kind.len_le_two
  rw [lenBytes_eq (by rw [encodeOps_mod]; omega), encodeOps_mod, Form.bytes_eq]

theorem encodeOps_lt {op : Nat} (h : op < 256) (o : Ops) : encodeOps op o < 2 ^ (8 * o.form.bytes) := by
  have hdr := headerWord_lt h o
  have hi := o.form.word_lt
  have len : 36 ≤ 8 * o.form.bytes := by rw [Form.bytes_eq]; omega
  calc encodeOps op o < (o.form.word + 1) * 2 ^ 36 := by rw [encodeOps_eq]; omega
    _ ≤ 2 ^ (8 * o.form.bytes - 36) * 2 ^ 36 := Nat.mul_le_mul_right _ hi
    _ = 2 ^ (8 * o.form.bytes) := by rw [← Nat.pow_add, Nat.sub_add_cancel len]

theorem encodeOps_op {op : Nat} (h : op < 256) (o : Ops) : bitsOf (encodeOps op o) 9 2 = op := by
  have := o.form.kind.len_le_two
  unfold bitsOf encodeOps
  omega

/-- Every field is read back from its word. -/
theorem opsOf_encodeOps {op : Nat} (h : op < 256) (o : Ops) : opsOf o.form.kind (encodeOps op o) = o := by
  have hw : encodeOps op o % 2 ^ 36 = headerWord op o := by
    have := headerWord_lt h o
    rw [encodeOps_eq]
    omega
  have hf := formOf_word o.form _ (encodeOps_div h o)
  have := o.form.kind.len_le_two
  have := o.pg.isLt
  have := o.pn.isLt
  have := o.d.isLt
  have := o.a.isLt
  have := o.b.isLt
  have := o.fn.isLt
  unfold headerWord at hw
  generalize encodeOps op o = w at *
  unfold opsOf
  rw [hf]
  congr 1 <;> refine ofNat_eq_of_mod ?_ <;> omega

theorem encodeOps_f6 {op : Nat} (h : op < 256) (o : Ops) : bitsOf (encodeOps op o) 35 35 = o.fn.toNat / 64 := by
  rw [← opsOf_fn_high o.form.kind, opsOf_encodeOps h]

/-- No bit of a word is dropped: its fields, encoded, are the word. -/
theorem encodeOps_opsOf {w : Nat} {k : Kind} (hk : k.len = w % 4) (hw : w < 2 ^ (8 * (8 + 4 * k.len))) :
    encodeOps (bitsOf w 9 2) (opsOf k w) = w := by
  have hi : (formOf k w).word = w / 2 ^ 36 := by
    cases k <;> simp only [formOf, Form.word, BitVec.toNat_ofNat, Kind.len] at * <;> omega
  have hh : headerWord (bitsOf w 9 2) (opsOf k w) = w % 2 ^ 36 := by
    simp only [headerWord, opsOf, bitsOf, BitVec.toNat_ofNat, formOf_kind, hk]
    omega
  rw [encodeOps_eq, hh, show (opsOf k w).form = formOf k w from rfl, hi]
  omega

/-! Bytes (R4). -/

@[simp] theorem bytesOfWord_length (n w : Nat) : (bytesOfWord n w).length = n := by
  induction n generalizing w with
  | zero => rfl
  | succ n ih => rw [bytesOfWord, List.length_cons, ih]

theorem wordOfBytes_bytesOfWord (n w : Nat) : wordOfBytes (bytesOfWord n w) = w % 2 ^ (8 * n) := by
  induction n generalizing w with
  | zero => simp [bytesOfWord, wordOfBytes, Nat.mod_one]
  | succ n ih =>
    rw [bytesOfWord, wordOfBytes, ih, BitVec.toNat_ofNat, Nat.mul_succ, Nat.add_comm (8 * n), Nat.pow_add]
    exact (Nat.mod_mul).symm

theorem wordOfBytes_append (l r : List Byte) :
    wordOfBytes (l ++ r) = wordOfBytes l + 2 ^ (8 * l.length) * wordOfBytes r := by
  induction l with
  | nil => simp [wordOfBytes]
  | cons b t ih =>
    rw [List.cons_append, wordOfBytes, ih, wordOfBytes, List.length_cons, Nat.mul_succ, Nat.pow_add,
      Nat.mul_right_comm (2 ^ (8 * t.length)) (2 ^ 8)]
    omega

theorem wordOfBytes_lt (l : List Byte) : wordOfBytes l < 2 ^ (8 * l.length) := by
  induction l with
  | nil => simp [wordOfBytes]
  | cons b t ih =>
    have := b.isLt
    rw [wordOfBytes, List.length_cons, Nat.mul_succ, Nat.pow_add]
    omega

/-- The low bytes of a longer string. -/
theorem wordOfBytes_take_append_mod {l : List Byte} {m : Nat} (r : List Byte) (h : l.length ≤ m) :
    wordOfBytes ((l ++ r).take m) % 2 ^ (8 * l.length) = wordOfBytes l := by
  rw [List.take_append, List.take_of_length_le h, wordOfBytes_append, Nat.add_mul_mod_self_left,
    Nat.mod_eq_of_lt (wordOfBytes_lt l)]

/-! The checks of decoding (R60). -/

/-- The row of the table that FN picks has the opcode and the fields. -/
theorem codeOf_ofCode {op : Nat} {o : Ops} {i : Instr} (h : ofCode op o = some i) : codeOf i = some (op, o) := by
  unfold ofCode at h
  repeat' split at h
  all_goals cases h <;> rfl

theorem check_eq_ok_iff {op : Nat} {o : Ops} {i : Instr} :
    check op o = .ok i ↔ functionOk op o = true ∧ reservedOk op o = true ∧ ofCode op o = some i := by
  unfold check functionOk reservedOk
  cases layout op o with
  | none => simp
  | some l =>
    cases ha : l.allows o with
    | false => simp [ha]
    | true => cases ofCode op o <;> simp [ha]

theorem decodeWord_eq_ok_iff {w : Nat} {i : Instr} :
    decodeWord w = .ok i ↔ w % 4 ≠ 3 ∧ assigned (bitsOf w 9 2) = true ∧
      ∃ k, kindAt (bitsOf w 9 2) (w % 4) (bitsOf w 35 35) = some k ∧ check (bitsOf w 9 2) (opsOf k w) = .ok i := by
  unfold decodeWord
  by_cases h3 : w % 4 = 3
  · simp [h3]
  cases ha : assigned (bitsOf w 9 2) with
  | false => simp [h3, ha]
  | true => cases hk : kindAt (bitsOf w 9 2) (w % 4) (bitsOf w 35 35) <;> simp [h3, ha, hk]

theorem wellFormed_iff {i : Instr} {op : Nat} {o : Ops} (h : codeOf i = some (op, o)) :
    WellFormed i = true ↔ assigned op = true ∧ formatOk op o = true ∧ check op o = .ok i := by
  simp only [WellFormed, h, check_eq_ok_iff, rowOk, Bool.and_eq_true, beq_iff_eq, and_assoc]

theorem formatOk_iff {op : Nat} {o : Ops} :
    formatOk op o = true ↔ kindAt op o.form.kind.len (o.fn.toNat / 64) = some o.form.kind := by
  rw [formatOk, Form.lenCode_eq, beq_iff_eq]

/-- The word of a well-formed instruction decodes to it. -/
theorem decodeWord_encodeOps {i : Instr} {op : Nat} {o : Ops} (h : codeOf i = some (op, o)) (wf : WellFormed i = true) :
    decodeWord (encodeOps op o) = .ok i := by
  obtain ⟨ha, hf, hc⟩ := (wellFormed_iff h).mp wf
  have lt := assigned_lt ha
  rw [decodeWord_eq_ok_iff, encodeOps_mod, encodeOps_op lt, encodeOps_f6 lt]
  have := o.form.kind.len_le_two
  exact ⟨by omega, ha, o.form.kind, formatOk_iff.mp hf, by rw [opsOf_encodeOps lt, hc]⟩

/-- An instruction that decoding gives has the opcode and the fields of its word. -/
theorem codeOf_decodeWord {w : Nat} {i : Instr} (h : decodeWord w = .ok i) :
    ∃ k, k.len = w % 4 ∧ w % 4 ≠ 3 ∧ codeOf i = some (bitsOf w 9 2, opsOf k w) := by
  obtain ⟨h3, -, k, hk, hc⟩ := decodeWord_eq_ok_iff.mp h
  obtain ⟨-, -, hi⟩ := check_eq_ok_iff.mp hc
  exact ⟨k, kindAt_len hk, h3, codeOf_ofCode hi⟩

theorem wellFormed_decodeWord {w : Nat} {i : Instr} (h : decodeWord w = .ok i) : WellFormed i = true := by
  obtain ⟨-, ha, k, hk, hc⟩ := decodeWord_eq_ok_iff.mp h
  obtain ⟨-, -, hi⟩ := check_eq_ok_iff.mp hc
  have hf : formatOk (bitsOf w 9 2) (opsOf k w) = true := by
    rw [formatOk_iff, opsOf_form_kind, opsOf_fn_high, kindAt_len hk, hk]
  exact (wellFormed_iff (codeOf_ofCode hi)).mpr ⟨ha, hf, hc⟩

theorem encodeWord_decodeWord {w : Nat} {i : Instr} (hw : w < 2 ^ (8 * lenBytes w)) (h : decodeWord w = .ok i) :
    encodeWord i = some w := by
  obtain ⟨k, hk, h3, hi⟩ := codeOf_decodeWord h
  rw [lenBytes_eq h3, ← hk] at hw
  simp only [encodeWord, hi, encodeOps_opsOf hk hw]

/-! Decoding of bytes. -/

/-- The bytes of a word as long as LEN says decode as the word, whatever bytes follow. -/
theorem decode_bytesOfWord_append {w n : Nat} (hn : lenBytes w = n) (h3 : w % 4 ≠ 3) (hw : w < 2 ^ (8 * n))
    (rest : List Byte) :
    decode (bytesOfWord n w ++ rest) = some ((decodeWord w).map fun i => (i, rest)) := by
  have len : n = 8 + 4 * (w % 4) := hn.symm.trans (lenBytes_eq h3)
  have low : wordOfBytes ((bytesOfWord n w ++ rest).take 16) % 2 ^ (8 * n) = w := by
    have := wordOfBytes_take_append_mod (l := bytesOfWord n w) (m := 16) rest (by rw [bytesOfWord_length]; omega)
    rwa [bytesOfWord_length, wordOfBytes_bytesOfWord, Nat.mod_eq_of_lt hw] at this
  have same : wordOfBytes ((bytesOfWord n w ++ rest).take 16) % 4 = w % 4 := by
    have : 4 ∣ 2 ^ (8 * n) := Nat.pow_dvd_pow 2 (show 2 ≤ 8 * n by omega)
    rw [← Nat.mod_mod_of_dvd _ this, low]
  have total : (bytesOfWord n w ++ rest).length = n + rest.length := by simp
  unfold decode
  simp only [total, lenBytes_congr same, hn, low]
  rw [if_neg (by omega), if_neg (by omega), if_neg (by omega), List.drop_left' (bytesOfWord_length n w)]
  cases decodeWord w <;> rfl

/-- What decoding of bytes gives is what decoding of a word gives. -/
theorem decodeWord_of_decode {bs rest : List Byte} {i : Instr} (h : decode bs = some (.ok (i, rest))) :
    ∃ w, decodeWord w = .ok i := by
  unfold decode at h
  dsimp only at h
  split at h
  · cases h
  split at h
  · cases h
  split at h
  · cases h
  split at h
  · cases h
  next e =>
    cases h
    exact ⟨_, e⟩

theorem encode_eq {i : Instr} {op : Nat} {o : Ops} (h : codeOf i = some (op, o)) :
    encode i = bytesOfWord o.form.bytes (encodeOps op o) := by simp only [encode, h]

/-- The bytes of a well-formed instruction decode to it, whatever bytes follow. -/
theorem decode_encode_append {i : Instr} {op : Nat} {o : Ops} (h : codeOf i = some (op, o)) (wf : WellFormed i = true)
    (rest : List Byte) : decode (encode i ++ rest) = some (.ok (i, rest)) := by
  have lt := assigned_lt ((wellFormed_iff h).mp wf).1
  have h3 : encodeOps op o % 4 ≠ 3 := by
    have := o.form.kind.len_le_two
    rw [encodeOps_mod]
    omega
  rw [encode_eq h, decode_bytesOfWord_append (encodeOps_lenBytes op o) h3 (encodeOps_lt lt o), decodeWord_encodeOps h wf]
  rfl

/-- Settles O52: every field is read back from its place, and the places of a format are all the bits of its length. -/
theorem decodingAndEncodingAgree : Obligations.DecodingAndEncodingAgree := by
  refine ⟨⟨fun i op o rest h wf => ⟨decode_encode_append h wf rest, ?_⟩, fun bs rest i h => ?_⟩, fun w i hw h => ?_⟩
  · rw [encode_eq h, bytesOfWord_length]
  · obtain ⟨w, hw⟩ := decodeWord_of_decode h
    exact wellFormed_decodeWord hw
  · exact encodeWord_decodeWord hw h

/-- Settles O51: decoding runs on the thirteen words. -/
theorem wordsDecode : Obligations.WordsDecode := by
  refine ⟨by decide, by decide, by decide, by decide, by decide, by decide, by decide, by decide, by decide, by decide, ?_⟩
  exact ⟨rfl, rfl, rfl⟩

end Sys2Proof
end

section
/-! SUPPORT. Fetching (R50–R60): what each check before an instruction answers, and what a step is once the fetch has answered. -/
namespace Sys2Proof.Machine

open Sys2Proof

/-! The bytes fetched. -/

theorem loadN_eq_wordOfBytes (m : SMap Byte) (a n : Nat) : loadN m a n = wordOfBytes (loadBytes m a n) := by
  induction n generalizing a with
  | zero => rfl
  | succ n ih => rw [loadN, loadBytes, wordOfBytes, ih]

theorem loadN_lt (m : SMap Byte) (a n : Nat) : loadN m a n < 2 ^ (8 * n) := by
  have len : (loadBytes m a n).length = n := by
    induction n generalizing a with
    | zero => rfl
    | succ n ih => rw [loadBytes, List.length_cons, ih]
  have := wordOfBytes_lt (loadBytes m a n)
  rwa [len, ← loadN_eq_wordOfBytes] at this

theorem loadN_add (m : SMap Byte) (a n k : Nat) : loadN m a (n + k) = loadN m a n + 2 ^ (8 * n) * loadN m (a + n) k := by
  induction n generalizing a with
  | zero => simp [loadN]
  | succ n ih =>
    rw [Nat.succ_add, loadN, ih, loadN, Nat.mul_succ, Nat.pow_add, show a + 1 + n = a + (n + 1) by omega,
      Nat.mul_right_comm (2 ^ (8 * n)) (2 ^ 8)]
    omega

/-- The low bytes of a longer load. -/
theorem loadN_mod (m : SMap Byte) (a : Nat) {n k : Nat} (h : n ≤ k) : loadN m a k % 2 ^ (8 * n) = loadN m a n := by
  obtain ⟨j, rfl⟩ := Nat.exists_eq_add_of_le h
  rw [loadN_add, Nat.add_mul_mod_self_left, Nat.mod_eq_of_lt (loadN_lt m a n)]

/-- The bytes of an instruction in a plate are its word. -/
theorem loadN_of_encode {m : SMap Byte} {a op : Nat} {i : Instr} {o : Ops} (h : codeOf i = some (op, o)) (wf : WellFormed i = true)
    (hb : loadBytes m a (encode i).length = encode i) : loadN m a o.form.bytes = encodeOps op o := by
  have lt := assigned_lt ((wellFormed_iff h).mp wf).1
  rw [encode_eq h, bytesOfWord_length] at hb
  rw [loadN_eq_wordOfBytes, hb, wordOfBytes_bytesOfWord, Nat.mod_eq_of_lt (encodeOps_lt lt o)]

/-! The checks, in the order of R60. -/

section Checks
variable {t : State}

theorem fetch_plateInvalid (h : t.plateValid = false) : t.fetch = .error (0x01, t.cx.plate) := by simp [State.fetch, h]

variable (hp : t.plateValid = true)
include hp

theorem fetch_outside (ho : 8192 ≤ t.cx.off) : t.fetch = .error (0x04, 0x2000) := by simp [State.fetch, hp, ho]

variable (ho : t.cx.off < 8192)
include ho

/-- At offset 28 of a block only the filler stands (R51). -/
theorem fetch_lastWord (h28 : t.cx.off % 32 = 28) :
    t.fetch = if loadN t.code t.cx.off 4 = 0xFFFFFFFF then .ok .filler
      else if loadN t.code t.cx.off 4 % 4 = 3 then .error (0x01, loadN t.code t.cx.off 4)
      else .error (0x04, loadN t.code t.cx.off 4) := by
  simp only [State.fetch, hp, Nat.not_le.mpr ho, h28, Bool.not_true, Bool.false_eq_true, if_false, if_true]

variable (h28 : t.cx.off % 32 ≠ 28)
include h28

theorem fetch_lenReserved (h3 : loadN t.code t.cx.off 8 % 4 = 3) :
    t.fetch = .error (0x01, loadN t.code t.cx.off 8) := by
  simp [State.fetch, hp, Nat.not_le.mpr ho, h28, lenBytes_reserved h3]

variable {n : Nat} (hn : lenBytes (loadN t.code t.cx.off 8) = n) (h0 : n ≠ 0)
include hn h0

/-- An instruction does not cross a block (R50). -/
theorem fetch_crosses (hx : 32 < t.cx.off % 32 + n) : t.fetch = .error (0x04, t.cx.off) := by
  simp [State.fetch, hp, Nat.not_le.mpr ho, h28, hn, h0, hx]

variable (hx : t.cx.off % 32 + n ≤ 32)
include hx

theorem fetch_absent (ha : t.absent (loadN t.code t.cx.off 8) = true) :
    t.fetch = .error (0x01, loadN t.code t.cx.off 8) := by
  simp [State.fetch, hp, Nat.not_le.mpr ho, h28, hn, h0, Nat.not_lt.mpr hx, ha]

variable (ha : t.absent (loadN t.code t.cx.off 8) = false)
include ha

theorem fetch_decodeError {e : DecodeError} (he : decodeWord (loadN t.code t.cx.off n) = .error e) :
    t.fetch = .error (e.cause, loadN t.code t.cx.off 8) := by
  simp [State.fetch, hp, Nat.not_le.mpr ho, h28, hn, h0, Nat.not_lt.mpr hx, ha, he]

theorem fetch_ok {i : Instr} (hi : decodeWord (loadN t.code t.cx.off n) = .ok i) (hf : t.forbidden i = false) :
    t.fetch = .ok i := by
  simp [State.fetch, hp, Nat.not_le.mpr ho, h28, hn, h0, Nat.not_lt.mpr hx, ha, hi, hf]

end Checks

/-- The bytes of a well-formed instruction at the fetch offset are fetched as that instruction. -/
theorem fetch_encode {t : State} {i : Instr} {op : Nat} {o : Ops} (hp : t.plateValid = true) (h : codeOf i = some (op, o))
    (wf : WellFormed i = true) (hb : loadBytes t.code t.cx.off (encode i).length = encode i) (ho : t.cx.off < 8192)
    (h28 : t.cx.off % 32 ≠ 28) (hx : t.cx.off % 32 + (encode i).length ≤ 32)
    (ha : t.absent (loadN t.code t.cx.off 8) = false) (hf : t.forbidden i = false) : t.fetch = .ok i := by
  have word := loadN_of_encode h wf hb
  have bytes := o.form.bytes_eq
  have low := loadN_mod t.code t.cx.off (n := 8) (k := o.form.bytes) (by omega)
  have len : lenBytes (loadN t.code t.cx.off 8) = o.form.bytes := by
    rw [← encodeOps_lenBytes op, ← word, ← low]
    exact lenBytes_congr (Nat.mod_mod_of_dvd _ (by decide))
  rw [encode_eq h, bytesOfWord_length] at hx
  exact fetch_ok hp ho h28 len (by omega) hx ha (by rw [word, decodeWord_encodeOps h wf]) hf

/-- An unassigned opcode is refused whatever follows it (R56). -/
theorem decodeWord_unassigned {m : SMap Byte} {a n : Nat} (hn : 8 ≤ n) (h3 : loadN m a 8 % 4 ≠ 3)
    (h : assigned (loadN m a 8 / 4 % 256) = false) : decodeWord (loadN m a n) = .error .unassigned := by
  have low := loadN_mod m a hn
  have len : loadN m a n % 4 ≠ 3 := by omega
  have op : bitsOf (loadN m a n) 9 2 = loadN m a 8 / 4 % 256 := by
    unfold bitsOf
    omega
  simp [decodeWord, len, op, h]

/-- Every check of the word but that of its reserved bits traps with cause 0x01 (R60). -/
theorem DecodeError.cause_of_ne_reservedBit {e : DecodeError} (h : e ≠ .reservedBit) : e.cause = 0x01 := by
  cases e with
  | reservedBit => exact absurd rfl h
  | lenReserved | unassigned | noFormat | undefinedFunction => rfl

/-! A step of the one that the state names. -/

theorem mover_of_next {s : State} {a : Actor} (h : s.next = some a) : s.mover = some a := by simp [State.mover, h]

theorem step_ctx {s : State} {c x : Nat} (hd : s.dark = false) (hn : s.next = some (.ctx c x)) :
    step s = stepWho (.ctx c x) s := by
  simp [step, hd, mover_of_next hn]

theorem step_hart {s : State} {cl h : Nat} (hd : s.dark = false) (hn : s.next = some (.hart cl h)) :
    step s = stepWho (.hart cl h) s := by
  simp [step, hd, mover_of_next hn]

theorem step_hw {s : State} {i : Instr} (hd : s.dark = false) (hn : s.next = some (.hw i)) :
    step s = exec i (s.turn.withdraw i) := by
  simp [step, hd, mover_of_next hn]

@[simp] theorem State.enter_cur (s : State) (w : Who) : (s.enter w).cur = w := by simp [State.enter, State.modCx]

theorem State.enter_cx (s : State) (w : Who) : (s.enter w).cx =
    { ({ s with cur := w } : State).cx with ran := ({ s with cur := w } : State).cx.ran + 1, alone := Config.alone s.freeCtr } := by
  simp [State.enter, State.modCx]

section Step
variable {s t : State} {w : Who} (ht : t = s.turn.enter w) (hb : t.cx.bad = false) (hu : t.plateUpset = false)
include ht hb hu

theorem stepWho_ok {i : Instr} (h : t.fetch = .ok i) : stepWho w s = exec i t := by
  simp [stepWho, ← ht, State.fetched, State.ctxUpset, hb, hu, h]

theorem stepWho_error {c v : Nat} (h : t.fetch = .error (c, v)) : stepWho w s = .next (t.trapNow c v) := by
  simp [stepWho, ← ht, State.fetched, State.ctxUpset, hb, hu, h]

end Step

/-- A context fetches from a plate that is not invalid (R31). -/
theorem plateValid_ctx {t : State} {c x : Nat} (h : t.cur = .ctx c x) :
    t.plateValid = true ↔ ((t.core c).plate t.cx.plate).st ≠ .invalid := by simp [State.plateValid, h]

theorem plateValid_hart {t : State} {cl k : Nat} (h : t.cur = .hart cl k) : t.plateValid = true ↔ t.cx.plate = 0 := by
  simp [State.plateValid, h]

/-- R261 forbids an instruction to harts only. -/
theorem forbidden_ctx {t : State} {c x : Nat} (h : t.cur = .ctx c x) (i : Instr) : t.forbidden i = false := by
  simp [State.forbidden, h, Who.isHart]

/-- Settles O53: fetching the bytes of a well-formed instruction answers it, and the step executes what the fetch answered. -/
theorem stepRunsTheDecodedInstruction : Obligations.StepRunsTheDecodedInstruction := by
  refine ⟨fun s t c x i op o hd hn ht hb hu hp h wf hbytes ho h28 hx ha => ?_,
    fun s t cl k i op o hd hn ht hb hp h wf hbytes ho h28 hx ha hr => ?_,
    fun s t c x hd hn ht hb hu hp ho h28 hw => ?_, fun s i hd hn => step_hw hd hn,
    fun s w => ⟨rfl, rfl, rfl, State.enter_cur s w, State.enter_cx s w⟩⟩
  · have hc : t.cur = .ctx c x := by rw [ht, State.enter_cur]
    have valid := (plateValid_ctx hc).mpr hp
    rw [step_ctx hd hn, stepWho_ok ht hb hu (fetch_encode valid h wf hbytes ho h28 hx ha (forbidden_ctx hc i))]
  · have hc : t.cur = .hart cl k := by rw [ht, State.enter_cur]
    have valid := (plateValid_hart hc).mpr hp
    have sound : t.plateUpset = false := by simp [State.plateUpset, hc]
    have runs : t.forbidden i = false := by simp [State.forbidden, hr]
    rw [step_hart hd hn, stepWho_ok ht hb sound (fetch_encode valid h wf hbytes ho h28 hx ha runs)]
  · have hc : t.cur = .ctx c x := by rw [ht, State.enter_cur]
    have filler : t.fetch = .ok .filler := by rw [fetch_lastWord ((plateValid_ctx hc).mpr hp) ho h28, if_pos hw]
    rw [step_ctx hd hn, stepWho_ok ht hb hu filler]

/-- Settles O54: each check of the fetch, in the order of R60, with the trap that its failure takes. -/
theorem fetchChecksInOrder : Obligations.FetchChecksInOrder := by
  intro s t c x off w h hd hn ht hb hu rfl rfl rfl traps plate
  have hc : t.cur = .ctx c x := by rw [ht, State.enter_cur]
  have trap {cause tval : Nat} (e : t.fetch = .error (cause, tval)) : traps cause tval :=
    (step_ctx hd hn).trans (stepWho_error ht hb hu e)
  have valid : plate → t.plateValid = true := (plateValid_ctx hc).mpr
  refine ⟨fun hp => ?_, fun hp ho => ?_, fun hp ho h28 hw => ?_, fun hp ho h28 => ⟨fun h3 => ?_, fun h3 hx => ?_, fun h3 hx => ?_⟩⟩
  · exact trap (fetch_plateInvalid (Bool.eq_false_iff.mpr fun hv => hp ((plateValid_ctx hc).mp hv)))
  · exact trap (fetch_outside (valid hp) ho)
  · have last := fetch_lastWord (valid hp) ho h28
    exact ⟨fun h3 => trap (by rw [last, if_neg hw, if_pos h3]), fun h3 => trap (by rw [last, if_neg hw, if_neg h3])⟩
  · exact trap (fetch_lenReserved (valid hp) ho h28 h3)
  · exact trap (fetch_crosses (valid hp) ho h28 (lenBytes_eq h3) (by omega) (by omega))
  · have fits := fetch_absent (valid hp) ho h28 (lenBytes_eq h3) (by omega) (by omega)
    have refused {e : DecodeError} := fetch_decodeError (e := e) (valid hp) ho h28 (lenBytes_eq h3) (by omega) (by omega)
    refine ⟨fun hop => ?_, fun ha => trap (fits ha), fun ha => ⟨fun e he hne => ?_, fun he => trap (refused ha he)⟩⟩
    · cases ha : t.absent (loadN t.code t.cx.off 8) with
      | true => exact trap (fits ha)
      | false => exact trap (refused ha (decodeWord_unassigned (by omega) h3 hop))
    · exact trap (DecodeError.cause_of_ne_reservedBit hne ▸ refused ha he)

end Sys2Proof.Machine
end

section
/-! SUPPORT. Control flow (R51, R55, R111–R117): what an instruction does whose guard is 0, where a branch goes, and what opens, closes
and counts the loop levels. -/
namespace Sys2Proof.Machine

open Sys2Proof

/-! Instructions that only go on (R51, R55, R117). -/

theorem runPriv_of_priv {s : State} (h : s.cx.priv = true) (o : Ops) (op : Nat) (body : State → Res) :
    runPriv o op s body = run o s body := if_pos h

/-- Every instruction is sequenced under its guard; GSTOP and OPSTEP check the mode before (R60). -/
theorem exec_eq_run {i : Instr} {op : Nat} {o : Ops} (h : codeOf i = some (op, o)) {s : State} (hop : op < 0xFB ∨ s.cx.priv = true) :
    ∃ body, exec i s = run o s body := by
  cases i
  case gstop | gstopGo | opstep =>
    cases h
    exact ⟨_, runPriv_of_priv (hop.resolve_left (by decide)) _ _ _⟩
  all_goals cases h <;> exact ⟨_, rfl⟩

/-- The context that goes on differs in its offset and its loop levels alone. -/
theorem Ctx.goTo_eq (k : Ctx) (x : Nat) : k.goTo x =
    { k with off := (endCheck k.links.length x k.loops).1, loops := (endCheck k.links.length x k.loops).2 } := rfl

/-- Settles O7: the body of NOP does nothing, and under guard 0 no body runs. -/
theorem guardedOffAndNoOperation : Obligations.GuardedOffAndNoOperation := by
  refine ⟨fun s o w => ?_, fun s w => congrArg _ (advance_smooth s 4 w), fun s i op o h g w hop => ?_, fun s n => ?_⟩
  · cases g : guardOn o s.cx with
    | false => exact run_skip g w
    | true => exact run_pure ⟨g, w⟩ (Still.refl s)
  · obtain ⟨body, e⟩ := exec_eq_run h hop
    rw [e, run_skip g w]
  · exact ⟨_, rfl, rfl, rfl, rfl, rfl, rfl, rfl, rfl, rfl, rfl, rfl⟩

/-! Branches, calls and returns (R111, R112). -/

theorem outOfPlate_iff (t : Int) : outOfPlate t = true ↔ t < 0 ∨ 8191 < t := by simp [outOfPlate]

theorem outOfPlate_false {t : Int} (h : 0 ≤ t ∧ t ≤ 8191) : outOfPlate t = false := by
  rw [Bool.eq_false_iff, ne_eq, outOfPlate_iff]
  omega

theorem tvalOf_eq (t : Int) : tvalOf t = (BitVec.ofInt 64 t).toNat := (BitVec.toNat_ofInt t).symm

theorem relTarget_imm {o : Ops} {k : Ctx} {i : BitVec 28} (h : o.form = .imm i) : relTarget o k = (k.off : Int) + 4 * i.toInt := by
  simp [relTarget, h]

theorem wbits_eq (a : Word) (hi lo : Nat) : wbits a hi lo = a.toNat / 2 ^ lo % 2 ^ (hi + 1 - lo) := rfl

/-- JMP takes a multiple of 4 below 2^15 (R111). -/
theorem badJump_iff (a : Word) : badJump a = true ↔ 2 ^ 15 ≤ a.toNat ∨ a.toNat % 4 ≠ 0 := by
  have := a.isLt
  simp only [badJump, wbits_eq, Bool.or_eq_true, bne_iff_ne, ne_eq]
  omega

theorem badJump_false {a : Word} (h : a.toNat < 2 ^ 15 ∧ a.toNat % 4 = 0) : badJump a = false := by
  rw [Bool.eq_false_iff, ne_eq, badJump_iff]
  omega

theorem wbits_plate {a : Word} (h : a.toNat < 2 ^ 15) : wbits a 14 13 = a.toNat / 2 ^ 13 := by
  rw [wbits_eq]
  omega

theorem wbits_offset (a : Word) : wbits a 12 0 = a.toNat % 2 ^ 13 := by simp [wbits_eq]

section Branch
variable {s : State} {o : Ops} (g : s.guarded1 o)
include g

theorem exec_br {t : Int} (e : relTarget o s.cx = t) (h : outOfPlate t = false) :
    exec (.br o) s = .next (s.setCx (s.cx.branch s.cx.plate t.toNat)) := run_done g (by simp [e, h])

theorem exec_br_outside {t : Int} (e : relTarget o s.cx = t) (h : outOfPlate t = true) :
    exec (.br o) s = .next (s.trapNow 0x04 (tvalOf t)) := run_trap g (by simp [e, h])

theorem exec_call {t : Int} (e : relTarget o s.cx = t) (h : outOfPlate t = false) (hl : s.cx.links.length < 8) :
    exec (.call o) s = .next (s.setCx (s.cx.push.goTo t.toNat)) := run_done g (by simp [e, h, Nat.not_le.mpr hl])

theorem exec_call_full {t : Int} (e : relTarget o s.cx = t) (h : outOfPlate t = false) (hl : 8 ≤ s.cx.links.length) :
    exec (.call o) s = .next (s.trapNow 0x01 (opWord 0x22 o)) := run_trap g (by simp [e, h, hl])

theorem exec_call_outside {t : Int} (e : relTarget o s.cx = t) (h : outOfPlate t = true) :
    exec (.call o) s = .next (s.trapNow 0x04 (tvalOf t)) := run_trap g (by simp [e, h])

theorem exec_jmp (h : badJump (srcA o s) = false) :
    exec (.jmp o) s = .next (s.setCx (s.cx.branch (wbits (srcA o s) 14 13) (wbits (srcA o s) 12 0))) := run_done g (by simp [h])

theorem exec_jmp_bad (h : badJump (srcA o s) = true) : exec (.jmp o) s = .next (s.trapNow 0x04 (srcA o s).toNat) :=
  run_trap g (by simp [h])

theorem exec_jmpCall (h : badJump (srcA o s) = false) (hl : s.cx.links.length < 8) : exec (.jmpCall o) s =
    .next (s.setCx ({ s.cx.push with plate := wbits (srcA o s) 14 13 }.goTo (wbits (srcA o s) 12 0))) :=
  run_done g (by simp [h, Nat.not_le.mpr hl])

theorem exec_jmpCall_full (h : badJump (srcA o s) = false) (hl : 8 ≤ s.cx.links.length) :
    exec (.jmpCall o) s = .next (s.trapNow 0x01 (opWord 0x21 o)) := run_trap g (by simp [h, hl])

theorem exec_jmpCall_bad (h : badJump (srcA o s) = true) : exec (.jmpCall o) s = .next (s.trapNow 0x04 (srcA o s).toNat) :=
  run_trap g (by simp [h])

theorem exec_ret_empty (h : s.cx.links = []) : exec (.ret o) s = .next (s.trapNow 0x01 (opWord 0x23 o)) := run_trap g (by simp [h])

theorem exec_ret {p t : Nat} {ls : List (Nat × Nat)} (h : s.cx.links = (p, t) :: ls) : exec (.ret o) s = .next (s.setCx
    ({ s.cx with links := ls, loops := s.cx.loops.filter fun l => decide (l.lsd ≤ ls.length) }.branch p t)) :=
  run_done g (by simp [h])

end Branch

theorem branchesCallsAndReturns : Sys2Proof.Claims.BranchesCallsAndReturns := by
  intro s o g
  refine ⟨fun i t h e => ?_, fun a ea => ?_, exec_ret_empty g, fun p t ls => exec_ret g⟩
  · have target : relTarget o s.cx = t := by rw [e, relTarget_imm h]
    refine ⟨fun ht => exec_br g target (outOfPlate_false ht), fun ht => exec_call g target (outOfPlate_false ht),
      fun ht => exec_call_full g target (outOfPlate_false ht), fun ht => ?_⟩
    have out := (outOfPlate_iff t).mpr ht
    rw [← tvalOf_eq]
    exact ⟨exec_br_outside g target out, exec_call_outside g target out⟩
  · subst ea
    refine ⟨fun ha => ?_, fun ha => ?_⟩
    · have good := badJump_false ha
      rw [← wbits_plate ha.1, ← wbits_offset]
      exact ⟨exec_jmp g good, exec_jmpCall g good, exec_jmpCall_full g good⟩
    · have bad := (badJump_iff _).mpr ha
      exact ⟨exec_jmp_bad g bad, exec_jmpCall_bad g bad⟩

/-! Loop levels at a branch (R114, R115). -/

/-- A branch to `target` at link depth `lsd` leaves the range of a level of that depth. -/
def LoopLevel.leaves (lsd target : Nat) (l : LoopLevel) : Bool :=
  l.lsd == lsd && !(decide (l.start ≤ target) && decide (target ≤ l.stop))

theorem LoopLevel.leaves_iff (lsd target : Nat) (l : LoopLevel) :
    l.leaves lsd target = true ↔ l.lsd = lsd ∧ ¬(l.start ≤ target ∧ target ≤ l.stop) := by
  rw [LoopLevel.leaves, Bool.and_eq_true, beq_iff_eq, Bool.not_eq_true', ← Bool.not_eq_true, Bool.and_eq_true, decide_eq_true_eq,
    decide_eq_true_eq]

theorem closeLevels_cons (lsd target : Nat) (l : LoopLevel) (t : List LoopLevel) : closeLevels lsd target (l :: t) =
    if t.any (LoopLevel.leaves lsd target) then closeLevels lsd target t else if l.leaves lsd target then t else l :: t := rfl

theorem closeLevels_of_none {lsd target : Nat} {ls : List LoopLevel} (h : ls.any (LoopLevel.leaves lsd target) = false) :
    closeLevels lsd target ls = ls := by
  cases ls with
  | nil => rfl
  | cons l t =>
    obtain ⟨hl, ht⟩ := Bool.or_eq_false_iff.mp h
    rw [closeLevels_cons, if_neg (Bool.eq_false_iff.mp ht), if_neg (Bool.eq_false_iff.mp hl)]

/-- A level that the target leaves goes, with those inside it. -/
theorem closeLevels_append {lsd target : Nat} {l : LoopLevel} (h : l.leaves lsd target = true) (inner outer : List LoopLevel) :
    closeLevels lsd target (inner ++ l :: outer) = closeLevels lsd target outer := by
  induction inner with
  | nil =>
    rw [List.nil_append, closeLevels_cons]
    cases ho : outer.any (LoopLevel.leaves lsd target) with
    | true => rw [if_pos rfl]
    | false => rw [if_neg Bool.false_ne_true, if_pos h, closeLevels_of_none ho]
  | cons x inner ih => rw [List.cons_append, closeLevels_cons, if_pos (by simp [h]), ih]

theorem endCheck_of_not_end {lsd x : Nat} {l : LoopLevel} {t : List LoopLevel} (h : x ≠ l.stop ∨ l.lsd ≠ lsd) :
    endCheck lsd x (l :: t) = (x, l :: t) := by
  have : ¬(x = l.stop ∧ lsd = l.lsd) := fun ⟨hx, hd⟩ => h.elim (· hx) (· hd.symm)
  simp [endCheck, this]

theorem endCheck_again {lsd x : Nat} {l : LoopLevel} {t : List LoopLevel} (hx : x = l.stop) (hd : l.lsd = lsd) (hc : 1 < l.count) :
    endCheck lsd x (l :: t) = (l.start, { l with count := l.count - 1 } :: t) := by simp [endCheck, hx, hd, hc]

theorem endCheck_last {lsd x : Nat} {l : LoopLevel} {t : List LoopLevel} (hx : x = l.stop) (hd : l.lsd = lsd) (hc : l.count ≤ 1) :
    endCheck lsd x (l :: t) = endCheck lsd x t := by
  rw [endCheck, if_pos (by simp [hx, hd]), if_neg (Nat.not_lt.mpr hc)]

theorem loopLevelsAtABranch : Sys2Proof.Claims.LoopLevelsAtABranch := by
  intro k plate t
  refine ⟨fun h => ?_, fun inner l outer h hd hr => ?_, fun h => ?_, fun l outer h hx hd hc => ?_, fun l outer h hx hd hc => ?_,
    fun l outer h he => ?_, fun h => ?_⟩
  · simp [Ctx.branch, Ctx.goTo_eq, h, closeLevels, endCheck]
  · rw [Ctx.branch, h, closeLevels_append ((LoopLevel.leaves_iff _ _ l).mpr ⟨hd, hr⟩)]
    rfl
  · have none : k.loops.any (LoopLevel.leaves k.links.length t) = false := by
      rw [List.any_eq_false]
      exact fun l hl out => ((LoopLevel.leaves_iff _ _ l).mp out).2 (h l hl ((LoopLevel.leaves_iff _ _ l).mp out).1)
    rw [Ctx.branch, closeLevels_of_none none]
  · rw [Ctx.goTo_eq, h, endCheck_again hx hd hc]
  · rw [Ctx.goTo_eq, h, endCheck_last hx hd hc]
    rfl
  · rw [Ctx.goTo_eq, h, endCheck_of_not_end he, ← h]
  · rw [Ctx.goTo_eq, h, endCheck, ← h]

/-! Hardware loops (R113, R114, R116). -/

theorem fallThrough_le (code : SMap Byte) (x : Nat) : fallThrough code x ≤ x + 4 := by
  unfold fallThrough
  split <;> omega

/-- The context with one more level, inside those it has. -/
def Ctx.opens (k : Ctx) (l : LoopLevel) : Ctx := { k with loops := l :: k.loops }

@[simp] theorem Ctx.opens_off (k : Ctx) (l : LoopLevel) : (k.opens l).off = k.off := rfl
@[simp] theorem Ctx.opens_plate (k : Ctx) (l : LoopLevel) : (k.opens l).plate = k.plate := rfl

/-- A new level that ends at `x` or behind it is not passed over. -/
theorem Ctx.opens_skips {k : Ctx} {l : LoopLevel} {x : Nat} (h : x ≤ l.stop) : (k.opens l).skips x = k.skips x := by
  rw [Ctx.skips, Ctx.opens, List.find?_cons_of_neg (by simp [Nat.not_lt.mpr h])]
  rfl

/-- The level that a loop instruction opens: from behind itself up to END, at the present link depth. -/
def newLevel (s : State) (o : Ops) (endoff n : Nat) : LoopLevel :=
  { start := s.cx.off + o.form.bytes, stop := s.cx.off + 4 * endoff, count := n, lsd := s.cx.links.length }

section Loop
variable {s : State} {o : Ops} {op endoff n : Nat}

theorem loopOpen_badEnd (h : s.cx.off + 4 * endoff ≤ s.cx.off + o.form.bytes ∨ 8192 < s.cx.off + 4 * endoff) :
    loopOpen o op endoff n s = .trap 0x04 (s.cx.off + 4 * endoff) := if_pos (by simpa using h)

variable (hlo : s.cx.off + o.form.bytes < s.cx.off + 4 * endoff) (hhi : s.cx.off + 4 * endoff ≤ 8192)
include hlo hhi

theorem loopOpen_inPlate :
    ¬(decide (s.cx.off + 4 * endoff ≤ s.cx.off + o.form.bytes) || decide (8192 < s.cx.off + 4 * endoff)) = true := by
  simp only [Bool.or_eq_true, decide_eq_true_eq]
  omega

theorem loopOpen_zero (hn : n = 0) : loopOpen o op endoff n s = .done (s.setCx (s.cx.goTo (s.cx.off + 4 * endoff))) :=
  (if_neg (loopOpen_inPlate hlo hhi)).trans (if_pos hn)

theorem loopOpen_opens (hn : n ≠ 0) (h : s.cx.loops = [] ∨ ∃ l, s.cx.loops = [l] ∧ s.cx.off + 4 * endoff ≤ l.stop) :
    loopOpen o op endoff n s = .ok (s.setCx (s.cx.opens (newLevel s o endoff n))) := by
  refine ((if_neg (loopOpen_inPlate hlo hhi)).trans (if_neg hn)).trans (if_neg ?_)
  obtain h | ⟨l, h, hl⟩ := h
  · simp [h]
  · simp [h, hl]

/-- No third level opens, and none that ends behind the level around it (R113). -/
theorem loopOpen_deep (hn : n ≠ 0) (h : 2 ≤ s.cx.loops.length ∨ ∃ l, s.cx.loops = [l] ∧ l.stop < s.cx.off + 4 * endoff) :
    loopOpen o op endoff n s = .trap 0x01 (opWord op o) := by
  refine ((if_neg (loopOpen_inPlate hlo hhi)).trans (if_neg hn)).trans (if_pos ?_)
  obtain h | ⟨l, h, hl⟩ := h
  · match e : s.cx.loops, h with
    | a :: b :: t, _ => rfl
  · simp [h, hl]

omit hhi

/-- The level that was opened ends behind the next fetch address: instructions and END stand at multiples of 4. -/
theorem smooth_newLevel (w : s.smooth o.form.bytes) :
    (s.setCx (s.cx.opens (newLevel s o endoff n))).smooth o.form.bytes := by
  have bytes := o.form.bytes_eq
  have next := fallThrough_le s.code (s.cx.off + o.form.bytes)
  have stop : fallThrough s.code (s.cx.off + o.form.bytes) ≤ (newLevel s o endoff n).stop := by
    show _ ≤ s.cx.off + 4 * endoff
    omega
  rw [State.smooth, State.cx_setCx, code_setCx s _ (Ctx.opens_plate _ _), Ctx.opens_off, Ctx.opens_skips stop]
  exact w

end Loop

/-- A loop instruction that takes the count `n` and the END at `endoff` words behind itself. -/
theorem run_loopOpen {s : State} {o : Ops} {op endoff n : Nat} {body : State → Res} (g : s.guarded1 o)
    (hb : body s = loopOpen o op endoff n s) :
    let stop := s.cx.off + 4 * endoff
    (s.cx.off + o.form.bytes < stop → stop ≤ 8192 →
      (n = 0 → run o s body = .next (s.setCx (s.cx.goTo stop))) ∧
      (n ≠ 0 → s.cx.loops = [] ∨ (∃ l, s.cx.loops = [l] ∧ stop ≤ l.stop) → s.smooth o.form.bytes →
        run o s body = .next ((s.setCx (s.cx.opens (newLevel s o endoff n))).onward o.form.bytes)) ∧
      (n ≠ 0 → 2 ≤ s.cx.loops.length ∨ (∃ l, s.cx.loops = [l] ∧ l.stop < stop) →
        run o s body = .next (s.trapNow 0x01 (opWord op o)))) ∧
    (stop ≤ s.cx.off + o.form.bytes ∨ 8192 < stop → run o s body = .next (s.trapNow 0x04 stop)) := by
  refine ⟨fun hlo hhi => ⟨fun hn => ?_, fun hn h w => ?_, fun hn h => ?_⟩, fun h => ?_⟩
  · exact run_done g (hb.trans (loopOpen_zero hlo hhi hn))
  · have g : guardOn o s.cx = true := g
    rw [run, State.runOps, if_pos g, hb, loopOpen_opens hlo hhi hn h, State.settle, advance_smooth _ _ (smooth_newLevel hlo w)]
  · exact run_trap g (hb.trans (loopOpen_deep hlo hhi hn h))
  · exact run_trap g (hb.trans (loopOpen_badEnd h))

/-- The END of LOOP.x, LOOPR and LOOPM stands in MOD (R113). -/
theorem Ops.modBits_end (o : Ops) : o.modBits 51 41 = o.form.mod.toNat % 2 ^ 11 := by simp [Ops.modBits]

theorem hardwareLoops : Sys2Proof.Claims.HardwareLoops := by
  intro s o i op endoff n hi g
  obtain ⟨rfl, rfl, v, e, rfl, rfl⟩ | ⟨rfl, rfl, m, c, v, e, rfl, rfl⟩ | ⟨rfl, rfl, ⟨m, c, e, rfl⟩, rfl⟩ |
    ⟨rfl, rfl, ⟨m, c, e, rfl⟩, rfl⟩ := hi
  · exact run_loopOpen g (by rw [e]; rfl)
  · exact run_loopOpen g (by rw [Ops.modBits_end, e]; rfl)
  · exact run_loopOpen g (by rw [Ops.modBits_end, e]; rfl)
  · exact run_loopOpen g (by rw [Ops.modBits_end, e]; rfl)

/-- Settles O6: branches and link stack, the loop levels that a branch closes and counts, and the instructions that open them. -/
theorem controlFlow : Obligations.ControlFlow := ⟨branchesCallsAndReturns, loopLevelsAtABranch, hardwareLoops⟩

end Sys2Proof.Machine
end
